-- ==== Sys2Proof/Word.lean ====
section
/-!
DEFINITION. The word types of the Opdon: little-endian bytes, 32-bit elements and 64-bit doublewords (R4).
-/

namespace Sys2Proof

abbrev Byte := BitVec 8
abbrev Half := BitVec 16
abbrev Elem32 := BitVec 32
abbrev Word := BitVec 64

end Sys2Proof
end

