-- ==== Sys2Proof/Config.lean ====
section
/-!
DEFINITION. What the spec leaves to the silicon or to chance: free values, each an opaque constant without a body, so that no
proof can see what it is.  A free value is applied to the plain counter `fresh` of the state, which every use
advances.
-/

namespace Sys2Proof.Config

/-- A free Boolean: does a happening whose time is not architectural take place in this clk (log entry 1)? -/
opaque freeBool : Nat → Bool

/-- A free 64-bit value: random bits of the ring oscillators, a value the spec leaves open (log entry 2). -/
opaque freeWord : Nat → BitVec 64

/-- The PUF's seed from helper data; none when the helper data fails its own check code (R445). -/
opaque pufSeed : List (BitVec 8) → Option (List (BitVec 8))

/-- The PUF's 64-bit enrolment tag (R442). -/
opaque pufTag : BitVec 64

/-- Linant's vendor identifier in extended algorithm entries (R449), whose value the spec does not give. -/
opaque linantVendor : BitVec 16

end Sys2Proof.Config
end

