-- ==== Sys2Proof/Syntax.lean ====
section
/-!
DEFINITION. The instructions of the Opdon (VYN-8160): the one inductive `Instr`, a constructor for every row of the
opcode table, and the field structures its constructors carry.  A word's structure keeps EVERY bit of its family,
the bits that must be zero among them, so that a word that breaks R47 is still told apart by the checks of issue.
-/

namespace Sys2Proof

/-- The three engines of a core (R14), in the order of the engine numbers 1, 2, 3 of R83. -/
inductive Eng where
  | fe | ma | dr
deriving DecidableEq, Repr

/-- Bits 95:80 of an engine word but the opcode (R46): guard enable, negate, slot, and bits 81:80. -/
structure Guard where
  ge : Bool
  gn : Bool
  gs : BitVec 4
  z80 : BitVec 2
deriving DecidableEq, Repr

/-- Bits 79:0 of a word of the VR family (R48). -/
structure VrWord where
  d : BitVec 5
  a : BitVec 5
  b : BitVec 5
  c : BitVec 5
  pm : BitVec 4
  me : Bool
  zm : Bool
  sub : BitVec 4
  bi : Bool
  z48 : BitVec 1
  imm : BitVec 32
  z0 : BitVec 16
deriving DecidableEq, Repr

/-- Bits 79:0 of a word of the ST family (R49). -/
structure StWord where
  sd : BitVec 4
  slot : BitVec 6
  vd : BitVec 5
  vi : BitVec 5
  pm : BitVec 4
  me : Bool
  cb : BitVec 4
  sub : BitVec 4
  z32 : BitVec 15
  imm : BitVec 32
deriving DecidableEq, Repr

/-- Bits 79:0 of a word of the MM family (R50). -/
structure MmWord where
  stamp : BitVec 16
  arr : BitVec 2
  acc : BitVec 8
  sa : BitVec 6
  sb : BitVec 6
  pl : BitVec 5
  sub : BitVec 4
  imm : BitVec 16
  z0 : BitVec 17
deriving DecidableEq, Repr

/-- Bits 79:0 of a word of the LP family (R51). -/
structure LpWord where
  lvl : BitVec 2
  body : BitVec 14
  cnt : BitVec 32
  imm : BitVec 32
deriving DecidableEq, Repr

/-- Bits 79:0 of a word of the DX family (R52). -/
structure DxWord where
  acc : BitVec 8
  slot : BitVec 6
  sd : BitVec 4
  rm : BitVec 3
  fmt : BitVec 8
  cb : BitVec 4
  vi : BitVec 5
  sub : BitVec 4
  z32 : BitVec 6
  imm : BitVec 32
deriving DecidableEq, Repr

/-- The three words of a VNEST (R53): the fields of word 0, and words 1 and 2 whole. -/
structure NestWord where
  op : BitVec 8
  d : BitVec 5
  a : BitVec 5
  b : BitVec 5
  pm : BitVec 4
  me : Bool
  nl : BitVec 3
  rd : Bool
  e0 : BitVec 12
  e1 : BitVec 12
  e2 : BitVec 12
  e3 : BitVec 12
  w1 : BitVec 96
  w2 : BitVec 96
deriving DecidableEq, Repr

/-- A 256-bit command-list entry (R134), as its four doublewords. -/
structure ClEntry where
  w0 : BitVec 64
  w1 : BitVec 64
  w2 : BitVec 64
  w3 : BitVec 64
deriving DecidableEq, Repr

/-- The loads of RV64I. -/
inductive LdOp where
  | lb | lh | lw | ld | lbu | lhu | lwu
deriving DecidableEq, Repr

/-- The stores of RV64I. -/
inductive StOp where
  | sb | sh | sw | sd
deriving DecidableEq, Repr

/-- The register-register operations of RV64I, M, Zba, Zbb and Zicond (R70). -/
inductive ROp where
  | add | sub | sll | slt | sltu | xor | srl | sra | or | and
  | addw | subw | sllw | srlw | sraw
  | mul | mulh | mulhsu | mulhu | div | divu | rem | remu
  | mulw | divw | divuw | remw | remuw
  | addUw | sh1add | sh2add | sh3add | sh1addUw | sh2addUw | sh3addUw
  | andn | orn | xnor | max | maxu | min | minu | rol | ror | rolw | rorw
  | czeroEqz | czeroNez
deriving DecidableEq, Repr

/-- The register-immediate operations with a 12-bit immediate. -/
inductive IOp where
  | addi | slti | sltiu | xori | ori | andi | addiw
deriving DecidableEq, Repr

/-- The shifts and rotations by an immediate. -/
inductive ShOp where
  | slli | srli | srai | rori | slliUw | slliw | srliw | sraiw | roriw
deriving DecidableEq, Repr

/-- The operations of one register operand (Zbb). -/
inductive UnOp where
  | clz | ctz | cpop | clzw | ctzw | cpopw | sextB | sextH | zextH | orcB | rev8
deriving DecidableEq, Repr

/-- The branches. -/
inductive BrOp where
  | beq | bne | blt | bge | bltu | bgeu
deriving DecidableEq, Repr

/-- What the row RV64_INTEGER_INSTRUCTION covers (R70, R71).  `off20` is bits 20:1 and `off12` bits 12:1 of a jump's
offset. -/
inductive RvOp where
  | r (op : ROp) (rd rs1 rs2 : BitVec 5)
  | i (op : IOp) (rd rs1 : BitVec 5) (imm : BitVec 12)
  | sh (op : ShOp) (rd rs1 : BitVec 5) (shamt : BitVec 6)
  | un (op : UnOp) (rd rs1 : BitVec 5)
  | lui (rd : BitVec 5) (imm20 : BitVec 20)
  | auipc (rd : BitVec 5) (imm20 : BitVec 20)
  | jal (rd : BitVec 5) (off20 : BitVec 20)
  | br (op : BrOp) (rs1 rs2 : BitVec 5) (off12 : BitVec 12)
deriving DecidableEq, Repr

/-- One constructor for every row of the opcode table: first those that carry operands, then those that carry none,
each part in the table's order.  A row that is a happening takes place at the unit that the state's `agent` names; it
carries only what arrives from outside the model. -/
inductive Instr where
  /-- OFFER (R442). -/
  | offer (msg : List (BitVec 8))
  /-- HELPER_RSP (R442). -/
  | helperRsp (msg : List (BitVec 8))
  /-- FLOOR_RSP (R447). -/
  | floorRsp (msg : List (BitVec 8))
  /-- IMAGE_RSP (R442). -/
  | imageRsp (msg : List (BitVec 8))
  /-- ERROR_RSP (R442). -/
  | errorRsp (msg : List (BitVec 8))
  /-- GET_VERSION (R449). -/
  | getVersion (req : List (BitVec 8))
  /-- GET_CAPABILITIES (R449). -/
  | getCapabilities (req : List (BitVec 8))
  /-- NEGOTIATE_ALGORITHMS (R449). -/
  | negotiateAlgorithms (req : List (BitVec 8))
  /-- GET_MEASUREMENTS (R449). -/
  | getMeasurements (req : List (BitVec 8))
  /-- SPDM_UNSUPPORTED_REQUEST (R449). -/
  | spdmUnsupportedRequest (req : List (BitVec 8))
  /-- CXL_MEM_ACCESS (R450). -/
  | cxlMemAccess (wr : Bool) (addr : BitVec 64) (data : List (BitVec 8))
  /-- THERM_CHANGE (R453). -/
  | thermChange (reading : Nat)
  /-- MARGIN_MEASURE (R455). -/
  | marginMeasure (value : BitVec 16)
  /-- CLSTAT_WRITE (R455). -/
  | clstatWrite (value : BitVec 64)
  /-- FLIT_DATA (R395). -/
  | flitData (flit : List (BitVec 8))
  /-- FLIT_NAK (R395). -/
  | flitNak (flit : List (BitVec 8))
  /-- FLIT_XOFF (R395). -/
  | flitXoff (flit : List (BitVec 8))
  /-- FLIT_XON (R395). -/
  | flitXon (flit : List (BitVec 8))
  /-- FLIT_IDLE (R394). -/
  | flitIdle (flit : List (BitVec 8))
  /-- PORT_TRAIN_END (R397). -/
  | portTrainEnd (ok : Bool) (farEnd : Bool)
  /-- RDREQ (R398). -/
  | rdreq (msg : List (BitVec 8))
  /-- RDRSP (R398). -/
  | rdrsp (msg : List (BitVec 8))
  /-- WRREQ (R398). -/
  | wrreq (msg : List (BitVec 8))
  /-- WRACK (R398). -/
  | wrack (msg : List (BitVec 8))
  /-- YARD (R398). -/
  | yardMsg (msg : List (BitVec 8))
  /-- COLL (R398). -/
  | collMsg (msg : List (BitVec 8))
  /-- STEP (R398). -/
  | stepMsg (msg : List (BitVec 8))
  /-- SECTION_START (R18). -/
  | sectionStart (e : Eng)
  /-- SECTION_RETIRE (R19). -/
  | sectionRetire (e : Eng)
  /-- GUARD_STALL_DETECT (R26). -/
  | guardStallDetect (e : Eng)
  /-- GUARD_RELEASE (R25). -/
  | guardRelease (e : Eng)
  /-- MATRIX_COMMAND_START (R280). -/
  | matrixCommandStart
  /-- MATRIX_COMMAND_WRITE (R280). -/
  | matrixCommandWrite
  /-- WATERMARK_HOLD (R78). -/
  | watermarkHold (e : Eng)
  /-- LAUNCH (R135). -/
  | launch (entry : ClEntry)
  /-- WAITEV (R135). -/
  | waitev (entry : ClEntry)
  /-- SKIPIF (R135). -/
  | skipif (entry : ClEntry)
  /-- JUMP (R135). -/
  | jump (entry : ClEntry)
  /-- CALL (R135). -/
  | call (entry : ClEntry)
  /-- RET (R135). -/
  | ret (entry : ClEntry)
  /-- SIGNAL (R135). -/
  | signal (entry : ClEntry)
  /-- PUBLISH (R135). -/
  | publish (entry : ClEntry)
  /-- PREEMPT (R138). -/
  | preempt (entry : ClEntry)
  /-- PASS (R135). -/
  | pass (entry : ClEntry)
  /-- END (R135). -/
  | endList (entry : ClEntry)
  /-- FPPUSH_WRITE (R460). -/
  | fppushWrite (value : BitVec 64)
  /-- FPUSH_WRITE (R426). -/
  | fpushWrite (value : BitVec 64)
  /-- MRDONE_WRITE (R432). -/
  | mrdoneWrite (value : BitVec 64)
  /-- MEASUREMENT_EXTEND (R448). -/
  | measurementExtend (value : BitVec 64)
  /-- REGISTER_WRITE (R414). -/
  | registerWrite (addr : Nat) (value : BitVec 64)
  /-- PA_ACCESS (R412). -/
  | paAccess (wr : Bool) (size : Nat) (pa : BitVec 64) (data : BitVec 64) (rd : BitVec 5)
  /-- RESOLVER_WALK (R149). -/
  | resolverWalk (home : Nat) (loc : Nat)
  /-- BANK_WAKE (R246). -/
  | bankWake (bank : Nat)
  /-- GWAIT_RELEASE (R94). -/
  | gwaitRelease (e : Eng)
  /-- FENCE (R71). -/
  | fence (imm : BitVec 12) (rs1 : BitVec 5) (rd : BitVec 5)
  /-- CSR_ACCESS (R72). -/
  | csrAccess (op : BitVec 3) (csr : BitVec 12) (rs1 : BitVec 5) (rd : BitVec 5)
  /-- VIEW_LOAD (R172). -/
  | viewLoad (op : LdOp) (imm : BitVec 12) (rs1 : BitVec 5) (rd : BitVec 5)
  /-- VIEW_STORE (R172). -/
  | viewStore (op : StOp) (imm : BitVec 12) (rs1 : BitVec 5) (rs2 : BitVec 5)
  /-- JALR (R71). -/
  | jalr (imm : BitVec 12) (rs1 : BitVec 5) (rd : BitVec 5)
  /-- FORK (R80). -/
  | fork (a : BitVec 5)
  /-- PLEAVE (R87). -/
  | pleave (a : BitVec 5) (d : BitVec 5)
  /-- SECQ (R83). -/
  | secq (e : BitVec 2) (d : BitVec 5)
  /-- GSET (R88). -/
  | gset (g : BitVec 4) (a : BitVec 5)
  /-- GCLR (R88). -/
  | gclr (g : BitVec 4)
  /-- GRD (R88). -/
  | grd (g : BitVec 4) (d : BitVec 5)
  /-- FAULTRD (R85). -/
  | faultrd (h : BitVec 1) (e : BitVec 2) (d : BitVec 5)
  /-- RESUME (R84). -/
  | resume (e : BitVec 2)
  /-- SVC (R86). -/
  | svc (n : BitVec 12)
  /-- TSPAWN (R118). -/
  | tspawn (b : BitVec 5) (a : BitVec 5) (d : BitVec 5)
  /-- TCONT (R119). -/
  | tcont (a : BitVec 5)
  /-- TJOIN (R127). -/
  | tjoin (b : BitVec 5) (a : BitVec 5) (d : BitVec 5)
  /-- TLEAVE (R128). -/
  | tleave (d : BitVec 5)
  /-- TBAR (R129). -/
  | tbar (d : BitVec 5)
  /-- TINFO (R123). -/
  | tinfo (a : BitVec 5) (d : BitVec 5)
  /-- TDLN (R122). -/
  | tdln (a : BitVec 5)
  /-- KVHAND (R389). -/
  | kvhand (b : BitVec 5) (a : BitVec 5) (d : BitVec 5)
  /-- KVTAKE (R391). -/
  | kvtake (b : BitVec 5) (a : BitVec 5) (d : BitVec 5)
  /-- OCLAIM (R161). -/
  | oclaim (b : BitVec 5) (a : BitVec 5) (d : BitVec 5)
  /-- OPUB (R162). -/
  | opub (a : BitVec 5) (d : BitVec 5)
  /-- OSUB (R163). -/
  | osub (b : BitVec 5) (a : BitVec 5) (d : BitVec 5)
  /-- OPIN (R164). -/
  | opin (b : BitVec 5) (a : BitVec 5) (d : BitVec 5)
  /-- OUNPIN (R164). -/
  | ounpin (b : BitVec 5) (a : BitVec 5)
  /-- OVIEW (R170). -/
  | oview (b : BitVec 5) (a : BitVec 5) (d : BitVec 5)
  /-- OUNVIEW (R171). -/
  | ounview (a : BitVec 5)
  /-- OVER (R165). -/
  | over (a : BitVec 5) (d : BitVec 5)
  /-- OINFO (R165). -/
  | oinfo (b : BitVec 5) (a : BitVec 5) (d : BitVec 5)
  /-- FLREL (R167). -/
  | flrel (b : BitVec 5) (a : BitVec 5)
  /-- FLACQ (R168). -/
  | flacq (b : BitVec 5) (a : BitVec 5) (d : BitVec 5)
  /-- FLTEST (R168). -/
  | fltest (b : BitVec 5) (a : BitVec 5) (d : BitVec 5)
  /-- LQ (R173). -/
  | lq (i : BitVec 12) (a : BitVec 5) (d : BitVec 5)
  /-- SQ (R173). -/
  | sq (i : BitVec 12) (a : BitVec 5) (s : BitVec 5)
  /-- CJOB (R361). -/
  | cjob (b : BitVec 5) (a : BitVec 5) (d : BitVec 5)
  /-- CWAIT (R362). -/
  | cwait (a : BitVec 5) (d : BitVec 5)
  /-- CSTAT (R363). -/
  | cstat (a : BitVec 5) (d : BitVec 5)
  /-- CBINIT (R364). -/
  | cbinit (b : BitVec 5) (a : BitVec 5) (d : BitVec 5)
  /-- CBQ (R365). -/
  | cbq (a : BitVec 5) (d : BitVec 5)
  /-- CLAR (R406). -/
  | clar (b : BitVec 5) (a : BitVec 5) (d : BitVec 5)
  /-- CLMRG (R407). -/
  | clmrg (b : BitVec 5) (a : BitVec 5) (d : BitVec 5)
  /-- CLBC (R404). -/
  | clbc (b : BitVec 5) (a : BitVec 5) (d : BitVec 5)
  /-- CLGATH (R404). -/
  | clgath (b : BitVec 5) (a : BitVec 5) (d : BitVec 5)
  /-- CLWAIT (R409). -/
  | clwait (a : BitVec 5) (d : BitVec 5)
  /-- YRD (R419). -/
  | yrd (a : BitVec 5) (d : BitVec 5)
  /-- YWR (R421). -/
  | ywr (b : BitVec 5) (a : BitVec 5)
  /-- YLOCK (R420). -/
  | ylock (a : BitVec 5) (d : BitVec 5)
  /-- YSWITCH (R428). -/
  | yswitch (b : BitVec 5) (a : BitVec 5) (d : BitVec 5)
  /-- HHINV (R422). -/
  | hhinv (a : BitVec 5)
  /-- PGHASH (R434). -/
  | pghash (b : BitVec 5) (a : BitVec 5)
  /-- NOP (R89). -/
  | nop (g : Guard) (f : LpWord)
  /-- LOOP (R90). -/
  | loop (g : Guard) (f : LpWord)
  /-- LOOPR (R93). -/
  | loopr (g : Guard) (f : LpWord)
  /-- LBRK (R92). -/
  | lbrk (g : Guard) (f : LpWord)
  /-- GWAIT (R94). -/
  | gwait (g : Guard) (f : LpWord)
  /-- MARK (R95). -/
  | mark (g : Guard) (f : LpWord)
  /-- ESTOP (R96). -/
  | estop (g : Guard) (f : LpWord)
  /-- SBIND (R210). -/
  | sbind (g : Guard) (f : StWord)
  /-- SLOAD (R211). -/
  | sload (g : Guard) (f : StWord)
  /-- SLOADV (R212). -/
  | sloadv (g : Guard) (f : StWord)
  /-- SGATH (R213). -/
  | sgath (g : Guard) (f : StWord)
  /-- SGATHF (R208). -/
  | sgathf (g : Guard) (f : StWord)
  /-- SADV (R214). -/
  | sadv (g : Guard) (f : StWord)
  /-- SSCALE (R215). -/
  | sscale (g : Guard) (f : StWord)
  /-- SPREF (R216). -/
  | spref (g : Guard) (f : StWord)
  /-- SWAITB (R217). -/
  | swaitb (g : Guard) (f : StWord)
  /-- SREL (R217). -/
  | srel (g : Guard) (f : StWord)
  /-- VADD (R252). -/
  | vadd (g : Guard) (f : VrWord)
  /-- VSUB (R252). -/
  | vsub (g : Guard) (f : VrWord)
  /-- VMUL (R252). -/
  | vmul (g : Guard) (f : VrWord)
  /-- VFMA (R252). -/
  | vfma (g : Guard) (f : VrWord)
  /-- VFMS (R252). -/
  | vfms (g : Guard) (f : VrWord)
  /-- VMAX (R252). -/
  | vmax (g : Guard) (f : VrWord)
  /-- VMIN (R252). -/
  | vmin (g : Guard) (f : VrWord)
  /-- VABS (R252). -/
  | vabs (g : Guard) (f : VrWord)
  /-- VNEG (R252). -/
  | vneg (g : Guard) (f : VrWord)
  /-- VCMP (R252). -/
  | vcmp (g : Guard) (f : VrWord)
  /-- VSEL (R252). -/
  | vsel (g : Guard) (f : VrWord)
  /-- VIADD (R253). -/
  | viadd (g : Guard) (f : VrWord)
  /-- VISUB (R253). -/
  | visub (g : Guard) (f : VrWord)
  /-- VIMUL (R253). -/
  | vimul (g : Guard) (f : VrWord)
  /-- VIMAD (R253). -/
  | vimad (g : Guard) (f : VrWord)
  /-- VAND (R253). -/
  | vand (g : Guard) (f : VrWord)
  /-- VOR (R253). -/
  | vor (g : Guard) (f : VrWord)
  /-- VXOR (R253). -/
  | vxor (g : Guard) (f : VrWord)
  /-- VNOT (R253). -/
  | vnot (g : Guard) (f : VrWord)
  /-- VSHL (R253). -/
  | vshl (g : Guard) (f : VrWord)
  /-- VSHR (R253). -/
  | vshr (g : Guard) (f : VrWord)
  /-- VSRA (R253). -/
  | vsra (g : Guard) (f : VrWord)
  /-- VICMP (R253). -/
  | vicmp (g : Guard) (f : VrWord)
  /-- VIMIN (R253). -/
  | vimin (g : Guard) (f : VrWord)
  /-- VIMAX (R253). -/
  | vimax (g : Guard) (f : VrWord)
  /-- VADD64 (R254). -/
  | vadd64 (g : Guard) (f : VrWord)
  /-- VSUB64 (R254). -/
  | vsub64 (g : Guard) (f : VrWord)
  /-- VSHL64 (R254). -/
  | vshl64 (g : Guard) (f : VrWord)
  /-- VSHR64 (R254). -/
  | vshr64 (g : Guard) (f : VrWord)
  /-- VCMP64 (R254). -/
  | vcmp64 (g : Guard) (f : VrWord)
  /-- VCVT (R255). -/
  | vcvt (g : Guard) (f : VrWord)
  /-- VRND (R256). -/
  | vrnd (g : Guard) (f : VrWord)
  /-- VPACK (R257). -/
  | vpack (g : Guard) (f : VrWord)
  /-- VUNPK (R257). -/
  | vunpk (g : Guard) (f : VrWord)
  /-- VRSQA (R260). -/
  | vrsqa (g : Guard) (f : VrWord)
  /-- VRCPA (R259). -/
  | vrcpa (g : Guard) (f : VrWord)
  /-- VEXP2 (R261). -/
  | vexp2 (g : Guard) (f : VrWord)
  /-- VLOG2 (R262). -/
  | vlog2 (g : Guard) (f : VrWord)
  /-- VROTR (R263). -/
  | vrotr (g : Guard) (f : VrWord)
  /-- VROTC (R263). -/
  | vrotc (g : Guard) (f : VrWord)
  /-- VBCR (R263). -/
  | vbcr (g : Guard) (f : VrWord)
  /-- VBCC (R263). -/
  | vbcc (g : Guard) (f : VrWord)
  /-- VREDR (R264). -/
  | vredr (g : Guard) (f : VrWord)
  /-- VREDC (R264). -/
  | vredc (g : Guard) (f : VrWord)
  /-- VSCANR (R264). -/
  | vscanr (g : Guard) (f : VrWord)
  /-- VTRN (R263). -/
  | vtrn (g : Guard) (f : VrWord)
  /-- VMOV (R265). -/
  | vmov (g : Guard) (f : VrWord)
  /-- VLI (R265). -/
  | vli (g : Guard) (f : VrWord)
  /-- VIOTA (R265). -/
  | viota (g : Guard) (f : VrWord)
  /-- VXG (R266). -/
  | vxg (g : Guard) (f : VrWord)
  /-- VXS (R266). -/
  | vxs (g : Guard) (f : VrWord)
  /-- VPART (R267). -/
  | vpart (g : Guard) (f : VrWord)
  /-- PAND (R268). -/
  | pand (g : Guard) (f : VrWord)
  /-- POR (R268). -/
  | por (g : Guard) (f : VrWord)
  /-- PXOR (R268). -/
  | pxor (g : Guard) (f : VrWord)
  /-- PNOT (R268). -/
  | pnot (g : Guard) (f : VrWord)
  /-- PFX (R268). -/
  | pfx (g : Guard) (f : VrWord)
  /-- PCNT (R268). -/
  | pcnt (g : Guard) (f : VrWord)
  /-- PMOV (R268). -/
  | pmov (g : Guard) (f : VrWord)
  /-- VNEST (R270). -/
  | vnest (g : Guard) (f : NestWord)
  /-- VSLEEP (R245). -/
  | vsleep (g : Guard) (f : VrWord)
  /-- VWAKE (R246). -/
  | vwake (g : Guard) (f : VrWord)
  /-- VLIVE (R243). -/
  | vlive (g : Guard) (f : VrWord)
  /-- MOSET (R325). -/
  | moset (g : Guard) (f : VrWord)
  /-- MOADD (R317). -/
  | moadd (g : Guard) (f : VrWord)
  /-- MOSUB (R317). -/
  | mosub (g : Guard) (f : VrWord)
  /-- MOMUL (R317). -/
  | momul (g : Guard) (f : VrWord)
  /-- MOSCL (R317). -/
  | moscl (g : Guard) (f : VrWord)
  /-- MOAXPY (R317). -/
  | moaxpy (g : Guard) (f : VrWord)
  /-- MOSQ (R317). -/
  | mosq (g : Guard) (f : VrWord)
  /-- MORELU (R319). -/
  | morelu (g : Guard) (f : VrWord)
  /-- MOLRELU (R319). -/
  | molrelu (g : Guard) (f : VrWord)
  /-- MOEXP (R321). -/
  | moexp (g : Guard) (f : VrWord)
  /-- MOSIGM (R322). -/
  | mosigm (g : Guard) (f : VrWord)
  /-- MOCOLL (R323). -/
  | mocoll (g : Guard) (f : VrWord)
  /-- MOCTL (R326). -/
  | moctl (g : Guard) (f : VrWord)
  /-- MOCTL_RD (R326). -/
  | moctlRd (g : Guard) (f : VrWord)
  /-- MOZV (R325). -/
  | mozv (g : Guard) (f : VrWord)
  /-- MMAC (R285). -/
  | mmac (g : Guard) (f : MmWord)
  /-- MMACZ (R285). -/
  | mmacz (g : Guard) (f : MmWord)
  /-- MMOM (R286). -/
  | mmom (g : Guard) (f : MmWord)
  /-- MMHAD (R287). -/
  | mmhad (g : Guard) (f : MmWord)
  /-- MMANC (R288). -/
  | mmanc (g : Guard) (f : MmWord)
  /-- MMCLR (R289). -/
  | mmclr (g : Guard) (f : MmWord)
  /-- MMCOPY (R290). -/
  | mmcopy (g : Guard) (f : MmWord)
  /-- ATSC (R370). -/
  | atsc (g : Guard) (f : MmWord)
  /-- ATSM (R371). -/
  | atsm (g : Guard) (f : MmWord)
  /-- ATPV (R374). -/
  | atpv (g : Guard) (f : MmWord)
  /-- ATFUSE (R375). -/
  | atfuse (g : Guard) (f : MmWord)
  /-- ATTRI (R376). -/
  | attri (g : Guard) (f : MmWord)
  /-- DRAIN (R303). -/
  | drain (g : Guard) (f : DxWord)
  /-- DRAINMX (R299). -/
  | drainmx (g : Guard) (f : DxWord)
  /-- DRAINM (R304). -/
  | drainm (g : Guard) (f : DxWord)
  /-- DCMPR (R300). -/
  | dcmpr (g : Guard) (f : DxWord)
  /-- DSTORE (R305). -/
  | dstore (g : Guard) (f : DxWord)
  /-- DSTSC (R306). -/
  | dstsc (g : Guard) (f : DxWord)
  /-- DBARS_FULL (R307). -/
  | dbarsFull (g : Guard) (f : DxWord)
  /-- DBARS_WAIT (R307). -/
  | dbarsWait (g : Guard) (f : DxWord)
  /-- BKUPD (R231). -/
  | bkupd (g : Guard) (f : DxWord)
  /-- XWIN (R237). -/
  | xwin (g : Guard) (f : DxWord)
  /-- XACC (R238). -/
  | xacc (g : Guard) (f : DxWord)
  /-- XFLUSH (R235). -/
  | xflush (g : Guard) (f : DxWord)
  /-- KVAPP (R382). -/
  | kvapp (g : Guard) (f : DxWord)
  /-- RV64_INTEGER_INSTRUCTION (R70). -/
  | rv64IntegerInstruction (op : RvOp)
  /-- UNASSIGNED_CT_ENCODING (R58). -/
  | unassignedCtEncoding (w : BitVec 32)
  /-- UNASSIGNED_ENGINE_OPCODE (R64). -/
  | unassignedEngineOpcode (w : BitVec 96)
  /-- CXL_MAILBOX_ACCESS (R450). -/
  | cxlMailboxAccess (wr : Bool) (off : Nat) (data : BitVec 64)
  /-- PACKAGE_RESET_RELEASE (R440). -/
  | packageResetRelease
  /-- BOOT_RETRY_TIMER (R440). -/
  | bootRetryTimer
  /-- BOOT_REQUEST_TIMEOUT (R442). -/
  | bootRequestTimeout
  /-- CXL_LINK_DOWN (R450). -/
  | cxlLinkDown
  /-- THERM_DROP_TIMER (R453). -/
  | thermDropTimer
  /-- GOVERNOR_GRANT (R451). -/
  | governorGrant
  /-- VCODE_STEP (R455). -/
  | vcodeStep
  /-- DEGRADED_QUEUE_MOVE (R456). -/
  | degradedQueueMove
  /-- REPLAY_TIMEOUT (R395). -/
  | replayTimeout
  /-- PORT_DEAD (R396). -/
  | portDead
  /-- PORTCTL_RETRAIN (R397). -/
  | portctlRetrain
  /-- PORTCTL_HOLD (R397). -/
  | portctlHold
  /-- FORK_STALL_DETECT (R23). -/
  | forkStallDetect
  /-- FE_LOAD_RESOLVE (R218). -/
  | feLoadResolve
  /-- DR_STORE_ACCEPT (R294). -/
  | drStoreAccept
  /-- SERVICE_ENTRY_ENGINE_FAULT (R75). -/
  | serviceEntryEngineFault
  /-- DEADLINE_TRAP (R122). -/
  | deadlineTrap
  /-- LATE_BAND_ENTRY (R111). -/
  | lateBandEntry
  /-- QUEUE_RING_REFILL (R108). -/
  | queueRingRefill
  /-- SPILL_TO_RING (R110). -/
  | spillToRing
  /-- CORE_POP (R112). -/
  | corePop
  /-- TASK_START (R115). -/
  | taskStart
  /-- RESTORE_COMPLETE (R141). -/
  | restoreComplete
  /-- SAVE_WRITTEN (R140). -/
  | saveWritten
  /-- PACKAGE_QUEUE_MOVE (R114). -/
  | packageQueueMove
  /-- WAIT_YIELD_TIMEOUT (R34). -/
  | waitYieldTimeout
  /-- NEXT_KERNEL_PREFETCH (R143). -/
  | nextKernelPrefetch
  /-- PREEMPT_DRAIN_EXPIRY (R139). -/
  | preemptDrainExpiry
  /-- PASS_QUEUE_TAKE (R132). -/
  | passQueueTake
  /-- CL_ENTRY_RESUME (R135). -/
  | clEntryResume
  /-- CLCTL_START (R415). -/
  | clctlStart
  /-- CLCTL_CLEAR (R415). -/
  | clctlClear
  /-- TIMER_INTERRUPT (R461). -/
  | timerInterrupt
  /-- SOFTWARE_INTERRUPT (R461). -/
  | softwareInterrupt
  /-- EXTERNAL_INTERRUPT (R461). -/
  | externalInterrupt
  /-- BANK_APPLY (R225). -/
  | bankApply
  /-- VSLEEP_EFFECT (R245). -/
  | vsleepEffect
  /-- SWAITB_PASS (R217). -/
  | swaitbPass
  /-- SWAITB_STALL_DETECT (R217). -/
  | swaitbStallDetect
  /-- SREL_RELEASE (R217). -/
  | srelRelease
  /-- DBARS_RELEASE (R307). -/
  | dbarsRelease
  /-- DBARS_STALL_DETECT (R307). -/
  | dbarsStallDetect
  /-- XFLUSH_APPLIED (R235). -/
  | xflushApplied
  /-- KVAPP_APPLY (R383). -/
  | kvappApply
  /-- COPY_TILE (R351). -/
  | copyTile
  /-- COLLECTIVE_COMPLETE (R408). -/
  | collectiveComplete
  /-- COLLECTIVE_TIMEOUT (R408). -/
  | collectiveTimeout
  /-- RDV_COMPLETE (R81). -/
  | rdvComplete
  /-- ABORTE_RETIRE (R82). -/
  | aborteRetire
  /-- TEXIT_COMPLETE (R120). -/
  | texitComplete
  /-- OSUB_COMPLETE (R163). -/
  | osubComplete
  /-- FLACQ_COMPLETE (R168). -/
  | flacqComplete
  /-- TBAR_COMPLETE (R129). -/
  | tbarComplete
  /-- OCLAIM_DECIDE (R161). -/
  | oclaimDecide
  /-- OPUB_PUBLISH_POINT (R162). -/
  | opubPublishPoint
  /-- KVHAND_EVENT (R389). -/
  | kvhandEvent
  /-- KVTAKE_COMPLETE (R391). -/
  | kvtakeComplete
  /-- CWAIT_COMPLETE (R362). -/
  | cwaitComplete
  /-- CWAIT_STALL_DETECT (R362). -/
  | cwaitStallDetect
  /-- CLWAIT_COMPLETE (R409). -/
  | clwaitComplete
  /-- YLOCK_RELEASE_DONE (R420). -/
  | ylockReleaseDone
  /-- YSWITCH_COMMIT_DONE (R428). -/
  | yswitchCommitDone
  /-- ECALL (R71). -/
  | ecall
  /-- EBREAK (R71). -/
  | ebreak
  /-- SRET (R77). -/
  | sret
  /-- WFI (R71). -/
  | wfi
  /-- RDV (R81). -/
  | rdv
  /-- ABORTE (R82). -/
  | aborte
  /-- TEXIT (R120). -/
  | texit
  /-- TTRIG (R121). -/
  | ttrig
  /-- TYIELD (R125). -/
  | tyield
  /-- DISCARD_STOPPED (R139). -/
  | discardStopped
  /-- CXL_LINK_TRAINED (R450). -/
  | cxlLinkTrained
deriving DecidableEq, Repr

end Sys2Proof
end

