-- ==== Sys2Proof/WellFormed.lean ====
section
/-!
DEFINITION. The shape an instruction of the model must have to stand for words of the hardware: what the fields of its
constructor cannot say by themselves.  The range checks of R47 and the forms of each chapter are checks of ISSUE,
with faults of their own: they stand beside the meanings.
-/

namespace Sys2Proof

/-- The shifts of the low word, whose amount has 5 bits. -/
def ShOp.wordForm : ShOp → Bool
  | .slliw | .srliw | .sraiw | .roriw => true
  | _ => false

/-- A CSR instruction has funct3 1, 2, 3, 5, 6 or 7. -/
def csrOpOk (op : BitVec 3) : Bool := op != 0#3 && op != 4#3

/-- A shift by an immediate in a word form has an amount below 32. -/
def RvOp.wf : RvOp → Bool
  | .sh o _ _ k => !o.wordForm || !k.getLsbD 5
  | _ => true

/-- A command-list entry of the row carries the row's TYPE (R134). -/
def ClEntry.typ (e : ClEntry) : BitVec 8 := e.w0.extractLsb' 0 8

/-- Is the instruction's shape one that its words can have?  The two rejecting rows stand for what is no instruction. -/
def Instr.wf : Instr → Bool
  | .csrAccess op _ _ _ => csrOpOk op
  | .rv64IntegerInstruction o => o.wf
  | .moctl _ f => f.sub != 1#4
  | .moctlRd _ f => f.sub == 1#4
  | .dbarsFull _ f => f.sub != 1#4
  | .dbarsWait _ f => f.sub == 1#4
  | .launch e => e.typ == 0x01#8
  | .waitev e => e.typ == 0x02#8
  | .skipif e => e.typ == 0x03#8
  | .jump e => e.typ == 0x04#8
  | .call e => e.typ == 0x05#8
  | .ret e => e.typ == 0x06#8
  | .signal e => e.typ == 0x07#8
  | .publish e => e.typ == 0x08#8
  | .preempt e => e.typ == 0x09#8
  | .pass e => e.typ == 0x0A#8
  | .endList e => e.typ == 0x0B#8
  | .unassignedCtEncoding _ => false
  | .unassignedEngineOpcode _ => false
  | _ => true

end Sys2Proof
end

