-- ==== Sys2Proof/Decode.lean ====
section
/-!
DEFINITION. Decoding and encoding, from the encoding tables of the spec: the 32-bit encodings of R56, R57 and R70 (RV64I,
M, Zicsr, Zba, Zbb, Zicond) and the 96-bit words of R46 to R53 and R60 to R63.  Decoding is total: what a map does
not assign decodes to the rejecting rows UNASSIGNED_CT_ENCODING and UNASSIGNED_ENGINE_OPCODE.
-/

namespace Sys2Proof

/-! ## 32-bit encodings -/

namespace Rv

/-- The R-type layout (R56). -/
def rType (f7 : BitVec 7) (rs2 rs1 : BitVec 5) (f3 : BitVec 3) (rd : BitVec 5) (opc : BitVec 7) : BitVec 32 :=
  f7 ++ rs2 ++ rs1 ++ f3 ++ rd ++ opc

/-- The I-type layout: `imm` in place of funct7 and rs2 (R56). -/
def iType (imm : BitVec 12) (rs1 : BitVec 5) (f3 : BitVec 3) (rd : BitVec 5) (opc : BitVec 7) : BitVec 32 :=
  imm ++ rs1 ++ f3 ++ rd ++ opc

/-- The U-type layout of the RISC-V base. -/
def uType (imm : BitVec 20) (rd : BitVec 5) (opc : BitVec 7) : BitVec 32 := imm ++ rd ++ opc

def opcOf (w : BitVec 32) : BitVec 7 := w.extractLsb' 0 7
def rdOf (w : BitVec 32) : BitVec 5 := w.extractLsb' 7 5
def f3Of (w : BitVec 32) : BitVec 3 := w.extractLsb' 12 3
def rs1Of (w : BitVec 32) : BitVec 5 := w.extractLsb' 15 5
def rs2Of (w : BitVec 32) : BitVec 5 := w.extractLsb' 20 5
def f7Of (w : BitVec 32) : BitVec 7 := w.extractLsb' 25 7
def immOf (w : BitVec 32) : BitVec 12 := w.extractLsb' 20 12

end Rv

/-- What a 32-bit encoding is: an instruction, an encoding that breaks R56 in fields its form does not name, or
no encoding of the tables. -/
inductive Decoded where
  | ok (i : Instr)
  | breaks
  | none
deriving DecidableEq, Repr

namespace Decoded

/-- The instruction if the fields that its form does not name are zero (R56). -/
def zeroed (c : Bool) (i : Instr) : Decoded := if c then .ok i else .breaks

end Decoded

/-- The encodings of custom-0 (R57). -/
def custom0 (f7 : BitVec 7) (rs2 rs1 : BitVec 5) (f3 : BitVec 3) (rd : BitVec 5) : Decoded :=
  if f3 = 0#3 then
    if f7 = 0x00#7 then .zeroed (decide (rs2 = 0#5) && decide (rd = 0#5)) (.fork rs1)
    else if f7 = 0x01#7 then .zeroed (decide (rs2 = 0#5) && decide (rs1 = 0#5) && decide (rd = 0#5)) (.rdv)
    else if f7 = 0x02#7 then .zeroed (decide (rs2 = 0#5) && decide (rs1 = 0#5) && decide (rd = 0#5)) (.aborte)
    else if f7 = 0x03#7 then .zeroed (decide (rs2 = 0#5)) (.pleave rs1 rd)
    else .none
  else if f3 = 1#3 then
    .zeroed (decide ((f7 ++ rs2).extractLsb' 2 10 = 0#10) && decide (rs1 = 0#5)) (.secq ((f7 ++ rs2).extractLsb' 0 2) rd)
  else if f3 = 2#3 then
    .zeroed (decide ((f7 ++ rs2).extractLsb' 4 8 = 0#8) && decide (rd = 0#5)) (.gset ((f7 ++ rs2).extractLsb' 0 4) rs1)
  else if f3 = 3#3 then
    .zeroed (decide ((f7 ++ rs2).extractLsb' 4 8 = 0#8) && decide (rs1 = 0#5) && decide (rd = 0#5)) (.gclr ((f7 ++ rs2).extractLsb' 0 4))
  else if f3 = 4#3 then
    .zeroed (decide ((f7 ++ rs2).extractLsb' 4 8 = 0#8) && decide (rs1 = 0#5)) (.grd ((f7 ++ rs2).extractLsb' 0 4) rd)
  else if f3 = 5#3 then
    .zeroed (decide ((f7 ++ rs2).extractLsb' 3 9 = 0#9) && decide (rs1 = 0#5)) (.faultrd ((f7 ++ rs2).extractLsb' 2 1) ((f7 ++ rs2).extractLsb' 0 2) rd)
  else if f3 = 6#3 then
    .zeroed (decide ((f7 ++ rs2).extractLsb' 2 10 = 0#10) && decide (rs1 = 0#5) && decide (rd = 0#5)) (.resume ((f7 ++ rs2).extractLsb' 0 2))
  else if f3 = 7#3 then
    .zeroed (decide (rs1 = 0#5) && decide (rd = 0#5)) (.svc ((f7 ++ rs2).extractLsb' 0 12))
  else .none

/-- The encodings of custom-1 (R57). -/
def custom1 (f7 : BitVec 7) (rs2 rs1 : BitVec 5) (f3 : BitVec 3) (rd : BitVec 5) : Decoded :=
  if f3 = 0#3 then
    if f7 = 0x00#7 then .zeroed (true) (.tspawn rs2 rs1 rd)
    else if f7 = 0x01#7 then .zeroed (decide (rs2 = 0#5) && decide (rd = 0#5)) (.tcont rs1)
    else if f7 = 0x02#7 then .zeroed (decide (rs2 = 0#5) && decide (rs1 = 0#5) && decide (rd = 0#5)) (.texit)
    else if f7 = 0x03#7 then .zeroed (decide (rs2 = 0#5) && decide (rs1 = 0#5) && decide (rd = 0#5)) (.ttrig)
    else if f7 = 0x04#7 then .zeroed (true) (.tjoin rs2 rs1 rd)
    else if f7 = 0x05#7 then .zeroed (decide (rs2 = 0#5) && decide (rs1 = 0#5)) (.tleave rd)
    else if f7 = 0x06#7 then .zeroed (decide (rs2 = 0#5) && decide (rs1 = 0#5)) (.tbar rd)
    else if f7 = 0x07#7 then .zeroed (decide (rs2 = 0#5)) (.tinfo rs1 rd)
    else if f7 = 0x08#7 then .zeroed (decide (rs2 = 0#5) && decide (rd = 0#5)) (.tdln rs1)
    else if f7 = 0x09#7 then .zeroed (decide (rs2 = 0#5) && decide (rs1 = 0#5) && decide (rd = 0#5)) (.tyield)
    else .none
  else if f3 = 1#3 then
    if f7 = 0x00#7 then .zeroed (true) (.kvhand rs2 rs1 rd)
    else if f7 = 0x01#7 then .zeroed (true) (.kvtake rs2 rs1 rd)
    else .none
  else .none

/-- The encodings of custom-2 (R57). -/
def custom2 (f7 : BitVec 7) (rs2 rs1 : BitVec 5) (f3 : BitVec 3) (rd : BitVec 5) : Decoded :=
  if f3 = 0#3 then
    if f7 = 0x00#7 then .zeroed (true) (.oclaim rs2 rs1 rd)
    else if f7 = 0x01#7 then .zeroed (decide (rs2 = 0#5)) (.opub rs1 rd)
    else if f7 = 0x02#7 then .zeroed (true) (.osub rs2 rs1 rd)
    else if f7 = 0x03#7 then .zeroed (true) (.opin rs2 rs1 rd)
    else if f7 = 0x04#7 then .zeroed (decide (rd = 0#5)) (.ounpin rs2 rs1)
    else if f7 = 0x05#7 then .zeroed (true) (.oview rs2 rs1 rd)
    else if f7 = 0x06#7 then .zeroed (decide (rs2 = 0#5) && decide (rd = 0#5)) (.ounview rs1)
    else if f7 = 0x07#7 then .zeroed (decide (rs2 = 0#5)) (.over rs1 rd)
    else if f7 = 0x08#7 then .zeroed (true) (.oinfo rs2 rs1 rd)
    else if f7 = 0x09#7 then .zeroed (decide (rd = 0#5)) (.flrel rs2 rs1)
    else if f7 = 0x0A#7 then .zeroed (true) (.flacq rs2 rs1 rd)
    else if f7 = 0x0B#7 then .zeroed (true) (.fltest rs2 rs1 rd)
    else .none
  else if f3 = 1#3 then
    .zeroed (true) (.lq ((f7 ++ rs2).extractLsb' 0 12) rs1 rd)
  else if f3 = 2#3 then
    .zeroed (true) (.sq ((f7 ++ rs2).extractLsb' 0 12) rs1 rd)
  else .none

/-- The encodings of custom-3 (R57). -/
def custom3 (f7 : BitVec 7) (rs2 rs1 : BitVec 5) (f3 : BitVec 3) (rd : BitVec 5) : Decoded :=
  if f3 = 0#3 then
    if f7 = 0x00#7 then .zeroed (true) (.cjob rs2 rs1 rd)
    else if f7 = 0x01#7 then .zeroed (decide (rs2 = 0#5)) (.cwait rs1 rd)
    else if f7 = 0x02#7 then .zeroed (decide (rs2 = 0#5)) (.cstat rs1 rd)
    else if f7 = 0x03#7 then .zeroed (true) (.cbinit rs2 rs1 rd)
    else if f7 = 0x04#7 then .zeroed (decide (rs2 = 0#5)) (.cbq rs1 rd)
    else .none
  else if f3 = 1#3 then
    if f7 = 0x00#7 then .zeroed (true) (.clar rs2 rs1 rd)
    else if f7 = 0x01#7 then .zeroed (true) (.clmrg rs2 rs1 rd)
    else if f7 = 0x02#7 then .zeroed (true) (.clbc rs2 rs1 rd)
    else if f7 = 0x03#7 then .zeroed (true) (.clgath rs2 rs1 rd)
    else if f7 = 0x04#7 then .zeroed (decide (rs2 = 0#5)) (.clwait rs1 rd)
    else .none
  else if f3 = 7#3 then
    if f7 = 0x00#7 then .zeroed (decide (rs2 = 0#5)) (.yrd rs1 rd)
    else if f7 = 0x01#7 then .zeroed (decide (rd = 0#5)) (.ywr rs2 rs1)
    else if f7 = 0x02#7 then .zeroed (decide (rs2 = 0#5)) (.ylock rs1 rd)
    else if f7 = 0x03#7 then .zeroed (true) (.yswitch rs2 rs1 rd)
    else if f7 = 0x04#7 then .zeroed (decide (rs2 = 0#5) && decide (rd = 0#5)) (.hhinv rs1)
    else if f7 = 0x05#7 then .zeroed (decide (rd = 0#5)) (.pghash rs2 rs1)
    else .none
  else .none

/-- funct7, funct3 and opcode of a register-register operation (RISC-V I, M, Zba, Zbb, Zicond). -/
def ROp.code : ROp → BitVec 7 × BitVec 3 × BitVec 7
  | .add => (0x00#7, 0#3, 0x33#7)
  | .sub => (0x20#7, 0#3, 0x33#7)
  | .sll => (0x00#7, 1#3, 0x33#7)
  | .slt => (0x00#7, 2#3, 0x33#7)
  | .sltu => (0x00#7, 3#3, 0x33#7)
  | .xor => (0x00#7, 4#3, 0x33#7)
  | .srl => (0x00#7, 5#3, 0x33#7)
  | .sra => (0x20#7, 5#3, 0x33#7)
  | .or => (0x00#7, 6#3, 0x33#7)
  | .and => (0x00#7, 7#3, 0x33#7)
  | .addw => (0x00#7, 0#3, 0x3B#7)
  | .subw => (0x20#7, 0#3, 0x3B#7)
  | .sllw => (0x00#7, 1#3, 0x3B#7)
  | .srlw => (0x00#7, 5#3, 0x3B#7)
  | .sraw => (0x20#7, 5#3, 0x3B#7)
  | .mul => (0x01#7, 0#3, 0x33#7)
  | .mulh => (0x01#7, 1#3, 0x33#7)
  | .mulhsu => (0x01#7, 2#3, 0x33#7)
  | .mulhu => (0x01#7, 3#3, 0x33#7)
  | .div => (0x01#7, 4#3, 0x33#7)
  | .divu => (0x01#7, 5#3, 0x33#7)
  | .rem => (0x01#7, 6#3, 0x33#7)
  | .remu => (0x01#7, 7#3, 0x33#7)
  | .mulw => (0x01#7, 0#3, 0x3B#7)
  | .divw => (0x01#7, 4#3, 0x3B#7)
  | .divuw => (0x01#7, 5#3, 0x3B#7)
  | .remw => (0x01#7, 6#3, 0x3B#7)
  | .remuw => (0x01#7, 7#3, 0x3B#7)
  | .addUw => (0x04#7, 0#3, 0x3B#7)
  | .sh1add => (0x10#7, 2#3, 0x33#7)
  | .sh2add => (0x10#7, 4#3, 0x33#7)
  | .sh3add => (0x10#7, 6#3, 0x33#7)
  | .sh1addUw => (0x10#7, 2#3, 0x3B#7)
  | .sh2addUw => (0x10#7, 4#3, 0x3B#7)
  | .sh3addUw => (0x10#7, 6#3, 0x3B#7)
  | .andn => (0x20#7, 7#3, 0x33#7)
  | .orn => (0x20#7, 6#3, 0x33#7)
  | .xnor => (0x20#7, 4#3, 0x33#7)
  | .max => (0x05#7, 6#3, 0x33#7)
  | .maxu => (0x05#7, 7#3, 0x33#7)
  | .min => (0x05#7, 4#3, 0x33#7)
  | .minu => (0x05#7, 5#3, 0x33#7)
  | .rol => (0x30#7, 1#3, 0x33#7)
  | .ror => (0x30#7, 5#3, 0x33#7)
  | .rolw => (0x30#7, 1#3, 0x3B#7)
  | .rorw => (0x30#7, 5#3, 0x3B#7)
  | .czeroEqz => (0x07#7, 5#3, 0x33#7)
  | .czeroNez => (0x07#7, 7#3, 0x33#7)

/-- Every register-register operation. -/
def ROp.all : List ROp :=
  [.add, .sub, .sll, .slt, .sltu, .xor, .srl, .sra, .or, .and, .addw, .subw, .sllw, .srlw, .sraw, .mul, .mulh, .mulhsu, .mulhu, .div, .divu, .rem,
   .remu, .mulw, .divw, .divuw, .remw, .remuw, .addUw, .sh1add, .sh2add, .sh3add, .sh1addUw, .sh2addUw, .sh3addUw, .andn, .orn, .xnor, .max, .maxu, .min, .minu, .rol, .ror, .rolw, .rorw, .czeroEqz, .czeroNez]

/-- The operation of a funct7, a funct3 and an opcode. -/
def ROp.ofCode (f7 : BitVec 7) (f3 : BitVec 3) (opc : BitVec 7) : Option ROp :=
  ROp.all.find? fun o => o.code = (f7, f3, opc)

/-- funct3 and opcode of an operation with a 12-bit immediate. -/
def IOp.code : IOp → BitVec 3 × BitVec 7
  | .addi => (0#3, 0x13#7)
  | .slti => (2#3, 0x13#7)
  | .sltiu => (3#3, 0x13#7)
  | .xori => (4#3, 0x13#7)
  | .ori => (6#3, 0x13#7)
  | .andi => (7#3, 0x13#7)
  | .addiw => (0#3, 0x1B#7)

def IOp.ofCode (f3 : BitVec 3) (opc : BitVec 7) : Option IOp :=
  [IOp.addi, .slti, .sltiu, .xori, .ori, .andi, .addiw].find? fun o => o.code = (f3, opc)

/-- funct6 (bits 31:26), funct3 and opcode of a shift by an immediate; the word forms have bit 25 zero. -/
def ShOp.code : ShOp → BitVec 6 × BitVec 3 × BitVec 7
  | .slli => (0x00#6, 1#3, 0x13#7)
  | .srli => (0x00#6, 5#3, 0x13#7)
  | .srai => (0x10#6, 5#3, 0x13#7)
  | .rori => (0x18#6, 5#3, 0x13#7)
  | .slliUw => (0x02#6, 1#3, 0x1B#7)
  | .slliw => (0x00#6, 1#3, 0x1B#7)
  | .srliw => (0x00#6, 5#3, 0x1B#7)
  | .sraiw => (0x10#6, 5#3, 0x1B#7)
  | .roriw => (0x18#6, 5#3, 0x1B#7)

def ShOp.ofCode (f6 : BitVec 6) (f3 : BitVec 3) (opc : BitVec 7) (bit25 : Bool) : Option ShOp :=
  [ShOp.slli, .srli, .srai, .rori, .slliUw, .slliw, .srliw, .sraiw, .roriw].find? fun o =>
    o.code = (f6, f3, opc) && (!o.wordForm || !bit25)

/-- imm, funct3 and opcode of an operation of one operand (Zbb; ZEXT.H is an OP-32 with rs2 zero). -/
def UnOp.code : UnOp → BitVec 12 × BitVec 3 × BitVec 7
  | .clz => (0x600#12, 1#3, 0x13#7)
  | .ctz => (0x601#12, 1#3, 0x13#7)
  | .cpop => (0x602#12, 1#3, 0x13#7)
  | .clzw => (0x600#12, 1#3, 0x1B#7)
  | .ctzw => (0x601#12, 1#3, 0x1B#7)
  | .cpopw => (0x602#12, 1#3, 0x1B#7)
  | .sextB => (0x604#12, 1#3, 0x13#7)
  | .sextH => (0x605#12, 1#3, 0x13#7)
  | .zextH => (0x080#12, 4#3, 0x3B#7)
  | .orcB => (0x287#12, 5#3, 0x13#7)
  | .rev8 => (0x6B8#12, 5#3, 0x13#7)

def UnOp.ofCode (imm : BitVec 12) (f3 : BitVec 3) (opc : BitVec 7) : Option UnOp :=
  [UnOp.clz, .ctz, .cpop, .clzw, .ctzw, .cpopw, .sextB, .sextH, .zextH, .orcB, .rev8].find? fun o =>
    o.code = (imm, f3, opc)

def BrOp.code : BrOp → BitVec 3
  | .beq => 0#3
  | .bne => 1#3
  | .blt => 4#3
  | .bge => 5#3
  | .bltu => 6#3
  | .bgeu => 7#3

def BrOp.ofCode (f3 : BitVec 3) : Option BrOp :=
  [BrOp.beq, .bne, .blt, .bge, .bltu, .bgeu].find? fun o => o.code = f3

def LdOp.code : LdOp → BitVec 3
  | .lb => 0#3
  | .lh => 1#3
  | .lw => 2#3
  | .ld => 3#3
  | .lbu => 4#3
  | .lhu => 5#3
  | .lwu => 6#3

def LdOp.ofCode (f3 : BitVec 3) : Option LdOp :=
  [LdOp.lb, .lh, .lw, .ld, .lbu, .lhu, .lwu].find? fun o => o.code = f3

def StOp.code : StOp → BitVec 3
  | .sb => 0#3
  | .sh => 1#3
  | .sw => 2#3
  | .sd => 3#3

def StOp.ofCode (f3 : BitVec 3) : Option StOp :=
  [StOp.sb, .sh, .sw, .sd].find? fun o => o.code = f3

/-- The arithmetic encodings of OP, OP-32, OP-IMM and OP-IMM-32 (R70). -/
def decodeArith (imm : BitVec 12) (rs1 : BitVec 5) (f3 : BitVec 3) (rd : BitVec 5) (opc : BitVec 7) :
    Option RvOp :=
  match UnOp.ofCode imm f3 opc with
  | some o => some (.un o rd rs1)
  | none =>
    if opc = 0x33#7 ∨ opc = 0x3B#7 then
      (ROp.ofCode (imm.extractLsb' 5 7) f3 opc).map fun o => .r o rd rs1 (imm.extractLsb' 0 5)
    else if f3 = 1#3 ∨ f3 = 5#3 then
      (ShOp.ofCode (imm.extractLsb' 6 6) f3 opc (imm.getLsbD 5)).map fun o =>
        .sh o rd rs1 (imm.extractLsb' 0 6)
    else (IOp.ofCode f3 opc).map fun o => .i o rd rs1 imm

/-- The offset bits 20:1 of a JAL from bits 31:12. -/
def jalOff (u : BitVec 20) : BitVec 20 :=
  u.extractLsb' 19 1 ++ u.extractLsb' 0 8 ++ u.extractLsb' 8 1 ++ u.extractLsb' 9 10

/-- Bits 31:12 of a JAL from its offset bits 20:1. -/
def jalImm (o : BitVec 20) : BitVec 20 :=
  o.extractLsb' 19 1 ++ o.extractLsb' 0 10 ++ o.extractLsb' 10 1 ++ o.extractLsb' 11 8

/-- The offset bits 12:1 of a branch from its bits 31:25 and 11:7. -/
def brOff (f7 : BitVec 7) (rd : BitVec 5) : BitVec 12 :=
  f7.extractLsb' 6 1 ++ rd.extractLsb' 0 1 ++ f7.extractLsb' 0 6 ++ rd.extractLsb' 1 4

/-- The standard encodings of the profile (R70 to R72). -/
def decodeStd (f7 : BitVec 7) (rs2 rs1 : BitVec 5) (f3 : BitVec 3) (rd : BitVec 5) (opc : BitVec 7) : Decoded :=
  let imm : BitVec 12 := f7 ++ rs2
  if opc = 0x33#7 ∨ opc = 0x3B#7 ∨ opc = 0x13#7 ∨ opc = 0x1B#7 then
    match decodeArith imm rs1 f3 rd opc with
    | some o => .ok (.rv64IntegerInstruction o)
    | none => .none
  else if opc = 0x37#7 then .ok (.rv64IntegerInstruction (.lui rd (imm ++ rs1 ++ f3)))
  else if opc = 0x17#7 then .ok (.rv64IntegerInstruction (.auipc rd (imm ++ rs1 ++ f3)))
  else if opc = 0x6F#7 then .ok (.rv64IntegerInstruction (.jal rd (jalOff (imm ++ rs1 ++ f3))))
  else if opc = 0x63#7 then
    match BrOp.ofCode f3 with
    | some o => .ok (.rv64IntegerInstruction (.br o rs1 rs2 (brOff f7 rd)))
    | none => .none
  else if opc = 0x67#7 then (if f3 = 0#3 then .ok (.jalr imm rs1 rd) else .none)
  else if opc = 0x03#7 then
    match LdOp.ofCode f3 with
    | some o => .ok (.viewLoad o imm rs1 rd)
    | none => .none
  else if opc = 0x23#7 then
    match StOp.ofCode f3 with
    | some o => .ok (.viewStore o (f7 ++ rd) rs1 rs2)
    | none => .none
  else if opc = 0x0F#7 then (if f3 = 0#3 then .ok (.fence imm rs1 rd) else .none)
  else if opc = 0x73#7 then
    if f3 = 0#3 then
      if rs1 = 0#5 ∧ rd = 0#5 then
        if imm = 0x000#12 then .ok .ecall
        else if imm = 0x001#12 then .ok .ebreak
        else if imm = 0x102#12 then .ok .sret
        else if imm = 0x105#12 then .ok .wfi
        else .none
      else .none
    else if f3 = 4#3 then .none
    else .ok (.csrAccess f3 imm rs1 rd)
  else .none

/-- Is the opcode one of the four custom major opcodes (R56)? -/
def customOpc (opc : BitVec 7) : Bool := opc = 0x0B#7 || opc = 0x2B#7 || opc = 0x5B#7 || opc = 0x7B#7

/-- A 32-bit encoding by its fields. -/
def decodeFields (f7 : BitVec 7) (rs2 rs1 : BitVec 5) (f3 : BitVec 3) (rd : BitVec 5) (opc : BitVec 7) : Decoded :=
  if opc = 0x0B#7 then custom0 f7 rs2 rs1 f3 rd
  else if opc = 0x2B#7 then custom1 f7 rs2 rs1 f3 rd
  else if opc = 0x5B#7 then custom2 f7 rs2 rs1 f3 rd
  else if opc = 0x7B#7 then custom3 f7 rs2 rs1 f3 rd
  else decodeStd f7 rs2 rs1 f3 rd opc

/-- What a 32-bit encoding is. -/
def classify32 (w : BitVec 32) : Decoded :=
  decodeFields (Rv.f7Of w) (Rv.rs2Of w) (Rv.rs1Of w) (Rv.f3Of w) (Rv.rdOf w) (Rv.opcOf w)

/-- The instruction of a 32-bit encoding; what the tables do not assign is the row UNASSIGNED_CT_ENCODING (R58). -/
def decode32 (w : BitVec 32) : Instr :=
  match classify32 w with
  | .ok i => i
  | .breaks => .unassignedCtEncoding w
  | .none => .unassignedCtEncoding w

/-- The detail with which a control sequencer rejects an unassigned encoding (R58, R71).  An encoding of YRD, YWR, YLOCK, YSWITCH, HHINV or
PGHASH that also breaks R56 gives 0x0022, where R58 gives no order of its two details (log entry 43). -/
def unassignedDetail (w : BitVec 32) : BitVec 16 :=
  match classify32 w with
  | .breaks => 0x0022#16
  | _ => if customOpc (Rv.opcOf w) then 0x0020#16 else 0x0023#16

/-- The 32-bit encoding of an instruction that has one. -/
def encode32 : Instr → Option (BitVec 32)
  | .fork a => some (Rv.rType 0x00#7 0#5 a 0#3 0#5 0x0B#7)
  | .rdv => some (Rv.rType 0x01#7 0#5 0#5 0#3 0#5 0x0B#7)
  | .aborte => some (Rv.rType 0x02#7 0#5 0#5 0#3 0#5 0x0B#7)
  | .pleave a d => some (Rv.rType 0x03#7 0#5 a 0#3 d 0x0B#7)
  | .secq e d => some (Rv.iType (0#10 ++ e) 0#5 1#3 d 0x0B#7)
  | .gset g a => some (Rv.iType (0#8 ++ g) a 2#3 0#5 0x0B#7)
  | .gclr g => some (Rv.iType (0#8 ++ g) 0#5 3#3 0#5 0x0B#7)
  | .grd g d => some (Rv.iType (0#8 ++ g) 0#5 4#3 d 0x0B#7)
  | .faultrd h e d => some (Rv.iType (0#9 ++ h ++ e) 0#5 5#3 d 0x0B#7)
  | .resume e => some (Rv.iType (0#10 ++ e) 0#5 6#3 0#5 0x0B#7)
  | .svc n => some (Rv.iType n 0#5 7#3 0#5 0x0B#7)
  | .tspawn b a d => some (Rv.rType 0x00#7 b a 0#3 d 0x2B#7)
  | .tcont a => some (Rv.rType 0x01#7 0#5 a 0#3 0#5 0x2B#7)
  | .texit => some (Rv.rType 0x02#7 0#5 0#5 0#3 0#5 0x2B#7)
  | .ttrig => some (Rv.rType 0x03#7 0#5 0#5 0#3 0#5 0x2B#7)
  | .tjoin b a d => some (Rv.rType 0x04#7 b a 0#3 d 0x2B#7)
  | .tleave d => some (Rv.rType 0x05#7 0#5 0#5 0#3 d 0x2B#7)
  | .tbar d => some (Rv.rType 0x06#7 0#5 0#5 0#3 d 0x2B#7)
  | .tinfo a d => some (Rv.rType 0x07#7 0#5 a 0#3 d 0x2B#7)
  | .tdln a => some (Rv.rType 0x08#7 0#5 a 0#3 0#5 0x2B#7)
  | .tyield => some (Rv.rType 0x09#7 0#5 0#5 0#3 0#5 0x2B#7)
  | .kvhand b a d => some (Rv.rType 0x00#7 b a 1#3 d 0x2B#7)
  | .kvtake b a d => some (Rv.rType 0x01#7 b a 1#3 d 0x2B#7)
  | .oclaim b a d => some (Rv.rType 0x00#7 b a 0#3 d 0x5B#7)
  | .opub a d => some (Rv.rType 0x01#7 0#5 a 0#3 d 0x5B#7)
  | .osub b a d => some (Rv.rType 0x02#7 b a 0#3 d 0x5B#7)
  | .opin b a d => some (Rv.rType 0x03#7 b a 0#3 d 0x5B#7)
  | .ounpin b a => some (Rv.rType 0x04#7 b a 0#3 0#5 0x5B#7)
  | .oview b a d => some (Rv.rType 0x05#7 b a 0#3 d 0x5B#7)
  | .ounview a => some (Rv.rType 0x06#7 0#5 a 0#3 0#5 0x5B#7)
  | .over a d => some (Rv.rType 0x07#7 0#5 a 0#3 d 0x5B#7)
  | .oinfo b a d => some (Rv.rType 0x08#7 b a 0#3 d 0x5B#7)
  | .flrel b a => some (Rv.rType 0x09#7 b a 0#3 0#5 0x5B#7)
  | .flacq b a d => some (Rv.rType 0x0A#7 b a 0#3 d 0x5B#7)
  | .fltest b a d => some (Rv.rType 0x0B#7 b a 0#3 d 0x5B#7)
  | .lq i a d => some (Rv.iType i a 1#3 d 0x5B#7)
  | .sq i a s => some (Rv.iType i a 2#3 s 0x5B#7)
  | .cjob b a d => some (Rv.rType 0x00#7 b a 0#3 d 0x7B#7)
  | .cwait a d => some (Rv.rType 0x01#7 0#5 a 0#3 d 0x7B#7)
  | .cstat a d => some (Rv.rType 0x02#7 0#5 a 0#3 d 0x7B#7)
  | .cbinit b a d => some (Rv.rType 0x03#7 b a 0#3 d 0x7B#7)
  | .cbq a d => some (Rv.rType 0x04#7 0#5 a 0#3 d 0x7B#7)
  | .clar b a d => some (Rv.rType 0x00#7 b a 1#3 d 0x7B#7)
  | .clmrg b a d => some (Rv.rType 0x01#7 b a 1#3 d 0x7B#7)
  | .clbc b a d => some (Rv.rType 0x02#7 b a 1#3 d 0x7B#7)
  | .clgath b a d => some (Rv.rType 0x03#7 b a 1#3 d 0x7B#7)
  | .clwait a d => some (Rv.rType 0x04#7 0#5 a 1#3 d 0x7B#7)
  | .yrd a d => some (Rv.rType 0x00#7 0#5 a 7#3 d 0x7B#7)
  | .ywr b a => some (Rv.rType 0x01#7 b a 7#3 0#5 0x7B#7)
  | .ylock a d => some (Rv.rType 0x02#7 0#5 a 7#3 d 0x7B#7)
  | .yswitch b a d => some (Rv.rType 0x03#7 b a 7#3 d 0x7B#7)
  | .hhinv a => some (Rv.rType 0x04#7 0#5 a 7#3 0#5 0x7B#7)
  | .pghash b a => some (Rv.rType 0x05#7 b a 7#3 0#5 0x7B#7)
  | .rv64IntegerInstruction (.r o rd rs1 rs2) => some (Rv.rType o.code.1 rs2 rs1 o.code.2.1 rd o.code.2.2)
  | .rv64IntegerInstruction (.i o rd rs1 imm) => some (Rv.iType imm rs1 o.code.1 rd o.code.2)
  | .rv64IntegerInstruction (.sh o rd rs1 sh) => some (Rv.iType (o.code.1 ++ sh) rs1 o.code.2.1 rd o.code.2.2)
  | .rv64IntegerInstruction (.un o rd rs1) => some (Rv.iType o.code.1 rs1 o.code.2.1 rd o.code.2.2)
  | .rv64IntegerInstruction (.lui rd imm) => some (Rv.uType imm rd 0x37#7)
  | .rv64IntegerInstruction (.auipc rd imm) => some (Rv.uType imm rd 0x17#7)
  | .rv64IntegerInstruction (.jal rd off) => some (Rv.uType (jalImm off) rd 0x6F#7)
  | .rv64IntegerInstruction (.br o rs1 rs2 off) =>
    some (Rv.rType (off.extractLsb' 11 1 ++ off.extractLsb' 4 6) rs2 rs1 o.code
      (off.extractLsb' 0 4 ++ off.extractLsb' 10 1) 0x63#7)
  | .jalr imm rs1 rd => some (Rv.iType imm rs1 0#3 rd 0x67#7)
  | .viewLoad o imm rs1 rd => some (Rv.iType imm rs1 o.code rd 0x03#7)
  | .viewStore o imm rs1 rs2 => some (Rv.rType (imm.extractLsb' 5 7) rs2 rs1 o.code (imm.extractLsb' 0 5) 0x23#7)
  | .fence imm rs1 rd => some (Rv.iType imm rs1 0#3 rd 0x0F#7)
  | .csrAccess op csr rs1 rd => some (Rv.iType csr rs1 op rd 0x73#7)
  | .ecall => some 0x00000073#32
  | .ebreak => some 0x00100073#32
  | .sret => some 0x10200073#32
  | .wfi => some 0x10500073#32
  | .unassignedCtEncoding w => some w
  | _ => none

/-! ## Engine words -/

/-- Bits 87:80 (R46). -/
def Guard.ofBits (w : BitVec 96) : Guard where
  ge := w.getLsbD 87
  gn := w.getLsbD 86
  gs := w.extractLsb' 82 4
  z80 := w.extractLsb' 80 2

def Guard.bits (g : Guard) : BitVec 8 := BitVec.ofBool g.ge ++ BitVec.ofBool g.gn ++ g.gs ++ g.z80

/-- Bits 79:0 as a word of the VR family (R48). -/
def VrWord.ofBits (w : BitVec 96) : VrWord where
  d := w.extractLsb' 75 5
  a := w.extractLsb' 70 5
  b := w.extractLsb' 65 5
  c := w.extractLsb' 60 5
  pm := w.extractLsb' 56 4
  me := w.getLsbD 55
  zm := w.getLsbD 54
  sub := w.extractLsb' 50 4
  bi := w.getLsbD 49
  z48 := w.extractLsb' 48 1
  imm := w.extractLsb' 16 32
  z0 := w.extractLsb' 0 16

def VrWord.bits (f : VrWord) : BitVec 80 :=
  f.d ++ f.a ++ f.b ++ f.c ++ f.pm ++ BitVec.ofBool f.me ++ BitVec.ofBool f.zm ++ f.sub ++ BitVec.ofBool f.bi ++ f.z48 ++ f.imm ++ f.z0

/-- Bits 79:0 as a word of the ST family (R49). -/
def StWord.ofBits (w : BitVec 96) : StWord where
  sd := w.extractLsb' 76 4
  slot := w.extractLsb' 70 6
  vd := w.extractLsb' 65 5
  vi := w.extractLsb' 60 5
  pm := w.extractLsb' 56 4
  me := w.getLsbD 55
  cb := w.extractLsb' 51 4
  sub := w.extractLsb' 47 4
  z32 := w.extractLsb' 32 15
  imm := w.extractLsb' 0 32

def StWord.bits (f : StWord) : BitVec 80 :=
  f.sd ++ f.slot ++ f.vd ++ f.vi ++ f.pm ++ BitVec.ofBool f.me ++ f.cb ++ f.sub ++ f.z32 ++ f.imm

/-- Bits 79:0 as a word of the MM family (R50). -/
def MmWord.ofBits (w : BitVec 96) : MmWord where
  stamp := w.extractLsb' 64 16
  arr := w.extractLsb' 62 2
  acc := w.extractLsb' 54 8
  sa := w.extractLsb' 48 6
  sb := w.extractLsb' 42 6
  pl := w.extractLsb' 37 5
  sub := w.extractLsb' 33 4
  imm := w.extractLsb' 17 16
  z0 := w.extractLsb' 0 17

def MmWord.bits (f : MmWord) : BitVec 80 :=
  f.stamp ++ f.arr ++ f.acc ++ f.sa ++ f.sb ++ f.pl ++ f.sub ++ f.imm ++ f.z0

/-- Bits 79:0 as a word of the LP family (R51). -/
def LpWord.ofBits (w : BitVec 96) : LpWord where
  lvl := w.extractLsb' 78 2
  body := w.extractLsb' 64 14
  cnt := w.extractLsb' 32 32
  imm := w.extractLsb' 0 32

def LpWord.bits (f : LpWord) : BitVec 80 :=
  f.lvl ++ f.body ++ f.cnt ++ f.imm

/-- Bits 79:0 as a word of the DX family (R52). -/
def DxWord.ofBits (w : BitVec 96) : DxWord where
  acc := w.extractLsb' 72 8
  slot := w.extractLsb' 66 6
  sd := w.extractLsb' 62 4
  rm := w.extractLsb' 59 3
  fmt := w.extractLsb' 51 8
  cb := w.extractLsb' 47 4
  vi := w.extractLsb' 42 5
  sub := w.extractLsb' 38 4
  z32 := w.extractLsb' 32 6
  imm := w.extractLsb' 0 32

def DxWord.bits (f : DxWord) : BitVec 80 :=
  f.acc ++ f.slot ++ f.sd ++ f.rm ++ f.fmt ++ f.cb ++ f.vi ++ f.sub ++ f.z32 ++ f.imm

/-- Word 0 of a VNEST, with the two words that follow (R53). -/
def NestWord.ofBits (w w1 w2 : BitVec 96) : NestWord where
  op := w.extractLsb' 72 8
  d := w.extractLsb' 67 5
  a := w.extractLsb' 62 5
  b := w.extractLsb' 57 5
  pm := w.extractLsb' 53 4
  me := w.getLsbD 52
  nl := w.extractLsb' 49 3
  rd := w.getLsbD 48
  e0 := w.extractLsb' 36 12
  e1 := w.extractLsb' 24 12
  e2 := w.extractLsb' 12 12
  e3 := w.extractLsb' 0 12
  w1 := w1
  w2 := w2

def NestWord.bits (f : NestWord) : BitVec 80 :=
  f.op ++ f.d ++ f.a ++ f.b ++ f.pm ++ BitVec.ofBool f.me ++ f.nl ++ BitVec.ofBool f.rd ++ f.e0 ++ f.e1 ++ f.e2 ++ f.e3

/-- The opcode of an engine word (R46). -/
def opcodeOf (w : BitVec 96) : BitVec 8 := w.extractLsb' 88 8

/-- The common words of every engine's map (R60); `loopr` stands in MA only. -/
def decodeCommon (e : Eng) (opc : BitVec 8) (g : Guard) (f : LpWord) : Option Instr :=
  if opc = 0x00#8 then some (.nop g f)
  else if opc = 0x01#8 then some (.loop g f)
  else if opc = 0x02#8 ∧ e = .ma then some (.loopr g f)
  else if opc = 0x03#8 then some (.lbrk g f)
  else if opc = 0x04#8 then some (.gwait g f)
  else if opc = 0x05#8 then some (.mark g f)
  else if opc = 0x06#8 then some (.estop g f)
  else none

/-- The words of the FE map alone (R61). -/
def decodeFe (w : BitVec 96) : Option Instr :=
  let opc := opcodeOf w
  let g := Guard.ofBits w
  if opc = 0x10#8 then some (.sbind g (.ofBits w))
  else if opc = 0x11#8 then some (.sload g (.ofBits w))
  else if opc = 0x12#8 then some (.sloadv g (.ofBits w))
  else if opc = 0x13#8 then some (.sgath g (.ofBits w))
  else if opc = 0x14#8 then some (.sgathf g (.ofBits w))
  else if opc = 0x15#8 then some (.sadv g (.ofBits w))
  else if opc = 0x16#8 then some (.sscale g (.ofBits w))
  else if opc = 0x17#8 then some (.spref g (.ofBits w))
  else if opc = 0x18#8 then some (.swaitb g (.ofBits w))
  else if opc = 0x19#8 then some (.srel g (.ofBits w))
  else none

/-- The words of the MA map alone (R62). MOCTL with SUB = 1 is MOCTL.RD (R326). -/
def decodeMa (w w1 w2 : BitVec 96) : Option Instr :=
  let opc := opcodeOf w
  let g := Guard.ofBits w
  if opc = 0x10#8 then some (.vadd g (.ofBits w))
  else if opc = 0x11#8 then some (.vsub g (.ofBits w))
  else if opc = 0x12#8 then some (.vmul g (.ofBits w))
  else if opc = 0x13#8 then some (.vfma g (.ofBits w))
  else if opc = 0x14#8 then some (.vfms g (.ofBits w))
  else if opc = 0x15#8 then some (.vmax g (.ofBits w))
  else if opc = 0x16#8 then some (.vmin g (.ofBits w))
  else if opc = 0x17#8 then some (.vabs g (.ofBits w))
  else if opc = 0x18#8 then some (.vneg g (.ofBits w))
  else if opc = 0x19#8 then some (.vcmp g (.ofBits w))
  else if opc = 0x1A#8 then some (.vsel g (.ofBits w))
  else if opc = 0x20#8 then some (.viadd g (.ofBits w))
  else if opc = 0x21#8 then some (.visub g (.ofBits w))
  else if opc = 0x22#8 then some (.vimul g (.ofBits w))
  else if opc = 0x23#8 then some (.vimad g (.ofBits w))
  else if opc = 0x24#8 then some (.vand g (.ofBits w))
  else if opc = 0x25#8 then some (.vor g (.ofBits w))
  else if opc = 0x26#8 then some (.vxor g (.ofBits w))
  else if opc = 0x27#8 then some (.vnot g (.ofBits w))
  else if opc = 0x28#8 then some (.vshl g (.ofBits w))
  else if opc = 0x29#8 then some (.vshr g (.ofBits w))
  else if opc = 0x2A#8 then some (.vsra g (.ofBits w))
  else if opc = 0x2B#8 then some (.vicmp g (.ofBits w))
  else if opc = 0x2C#8 then some (.vimin g (.ofBits w))
  else if opc = 0x2D#8 then some (.vimax g (.ofBits w))
  else if opc = 0x30#8 then some (.vadd64 g (.ofBits w))
  else if opc = 0x31#8 then some (.vsub64 g (.ofBits w))
  else if opc = 0x32#8 then some (.vshl64 g (.ofBits w))
  else if opc = 0x33#8 then some (.vshr64 g (.ofBits w))
  else if opc = 0x34#8 then some (.vcmp64 g (.ofBits w))
  else if opc = 0x38#8 then some (.vcvt g (.ofBits w))
  else if opc = 0x39#8 then some (.vrnd g (.ofBits w))
  else if opc = 0x3A#8 then some (.vpack g (.ofBits w))
  else if opc = 0x3B#8 then some (.vunpk g (.ofBits w))
  else if opc = 0x3C#8 then some (.vrsqa g (.ofBits w))
  else if opc = 0x3D#8 then some (.vrcpa g (.ofBits w))
  else if opc = 0x3E#8 then some (.vexp2 g (.ofBits w))
  else if opc = 0x3F#8 then some (.vlog2 g (.ofBits w))
  else if opc = 0x40#8 then some (.vrotr g (.ofBits w))
  else if opc = 0x41#8 then some (.vrotc g (.ofBits w))
  else if opc = 0x42#8 then some (.vbcr g (.ofBits w))
  else if opc = 0x43#8 then some (.vbcc g (.ofBits w))
  else if opc = 0x44#8 then some (.vredr g (.ofBits w))
  else if opc = 0x45#8 then some (.vredc g (.ofBits w))
  else if opc = 0x46#8 then some (.vscanr g (.ofBits w))
  else if opc = 0x47#8 then some (.vtrn g (.ofBits w))
  else if opc = 0x48#8 then some (.vmov g (.ofBits w))
  else if opc = 0x49#8 then some (.vli g (.ofBits w))
  else if opc = 0x4A#8 then some (.viota g (.ofBits w))
  else if opc = 0x4B#8 then some (.vxg g (.ofBits w))
  else if opc = 0x4C#8 then some (.vxs g (.ofBits w))
  else if opc = 0x4D#8 then some (.vpart g (.ofBits w))
  else if opc = 0x50#8 then some (.pand g (.ofBits w))
  else if opc = 0x51#8 then some (.por g (.ofBits w))
  else if opc = 0x52#8 then some (.pxor g (.ofBits w))
  else if opc = 0x53#8 then some (.pnot g (.ofBits w))
  else if opc = 0x54#8 then some (.pfx g (.ofBits w))
  else if opc = 0x55#8 then some (.pcnt g (.ofBits w))
  else if opc = 0x56#8 then some (.pmov g (.ofBits w))
  else if opc = 0x58#8 then some (.vnest g (.ofBits w w1 w2))
  else if opc = 0x59#8 then some (.vsleep g (.ofBits w))
  else if opc = 0x5A#8 then some (.vwake g (.ofBits w))
  else if opc = 0x5B#8 then some (.vlive g (.ofBits w))
  else if opc = 0x60#8 then some (.moset g (.ofBits w))
  else if opc = 0x61#8 then some (.moadd g (.ofBits w))
  else if opc = 0x62#8 then some (.mosub g (.ofBits w))
  else if opc = 0x63#8 then some (.momul g (.ofBits w))
  else if opc = 0x64#8 then some (.moscl g (.ofBits w))
  else if opc = 0x65#8 then some (.moaxpy g (.ofBits w))
  else if opc = 0x66#8 then some (.mosq g (.ofBits w))
  else if opc = 0x67#8 then some (.morelu g (.ofBits w))
  else if opc = 0x68#8 then some (.molrelu g (.ofBits w))
  else if opc = 0x69#8 then some (.moexp g (.ofBits w))
  else if opc = 0x6A#8 then some (.mosigm g (.ofBits w))
  else if opc = 0x6B#8 then some (.mocoll g (.ofBits w))
  else if opc = 0x6C#8 then some (if w.extractLsb' 50 4 = 1#4 then .moctlRd g (.ofBits w) else .moctl g (.ofBits w))
  else if opc = 0x6D#8 then some (.mozv g (.ofBits w))
  else if opc = 0x80#8 then some (.mmac g (.ofBits w))
  else if opc = 0x81#8 then some (.mmacz g (.ofBits w))
  else if opc = 0x82#8 then some (.mmom g (.ofBits w))
  else if opc = 0x83#8 then some (.mmhad g (.ofBits w))
  else if opc = 0x84#8 then some (.mmanc g (.ofBits w))
  else if opc = 0x85#8 then some (.mmclr g (.ofBits w))
  else if opc = 0x86#8 then some (.mmcopy g (.ofBits w))
  else if opc = 0x88#8 then some (.atsc g (.ofBits w))
  else if opc = 0x89#8 then some (.atsm g (.ofBits w))
  else if opc = 0x8A#8 then some (.atpv g (.ofBits w))
  else if opc = 0x8B#8 then some (.atfuse g (.ofBits w))
  else if opc = 0x8C#8 then some (.attri g (.ofBits w))
  else none

/-- The words of the DR map alone (R63). DBARS with SUB = 1 is DBARS.wait (R307). -/
def decodeDr (w : BitVec 96) : Option Instr :=
  let opc := opcodeOf w
  let g := Guard.ofBits w
  if opc = 0x10#8 then some (.drain g (.ofBits w))
  else if opc = 0x11#8 then some (.drainmx g (.ofBits w))
  else if opc = 0x12#8 then some (.drainm g (.ofBits w))
  else if opc = 0x13#8 then some (.dcmpr g (.ofBits w))
  else if opc = 0x14#8 then some (.dstore g (.ofBits w))
  else if opc = 0x15#8 then some (.dstsc g (.ofBits w))
  else if opc = 0x16#8 then some (if w.extractLsb' 38 4 = 1#4 then .dbarsWait g (.ofBits w) else .dbarsFull g (.ofBits w))
  else if opc = 0x20#8 then some (.bkupd g (.ofBits w))
  else if opc = 0x21#8 then some (.xwin g (.ofBits w))
  else if opc = 0x22#8 then some (.xacc g (.ofBits w))
  else if opc = 0x23#8 then some (.xflush g (.ofBits w))
  else if opc = 0x30#8 then some (.kvapp g (.ofBits w))
  else none

/-- The instruction of an engine word; `w1` and `w2` are the two slots that follow, read by VNEST only.  What the
engine's map does not assign, and an NXC standing alone, is the row UNASSIGNED_ENGINE_OPCODE (R64). -/
def decodeEngine (e : Eng) (w w1 w2 : BitVec 96) : Instr :=
  match decodeCommon e (opcodeOf w) (.ofBits w) (.ofBits w) with
  | some i => i
  | none =>
    match (match e with
      | .fe => decodeFe w
      | .ma => decodeMa w w1 w2
      | .dr => decodeDr w) with
    | some i => i
    | none => .unassignedEngineOpcode w

/-- An engine word from its opcode, guard and body (R46). -/
def engineWord (opc : BitVec 8) (g : Guard) (b : BitVec 80) : BitVec 96 := opc ++ g.bits ++ b

/-- The first 96-bit word of an instruction that has one (the only one but for VNEST). -/
def encode96 : Instr → Option (BitVec 96)
  | .nop g f => some (engineWord 0x00#8 g f.bits)
  | .loop g f => some (engineWord 0x01#8 g f.bits)
  | .loopr g f => some (engineWord 0x02#8 g f.bits)
  | .lbrk g f => some (engineWord 0x03#8 g f.bits)
  | .gwait g f => some (engineWord 0x04#8 g f.bits)
  | .mark g f => some (engineWord 0x05#8 g f.bits)
  | .estop g f => some (engineWord 0x06#8 g f.bits)
  | .sbind g f => some (engineWord 0x10#8 g f.bits)
  | .sload g f => some (engineWord 0x11#8 g f.bits)
  | .sloadv g f => some (engineWord 0x12#8 g f.bits)
  | .sgath g f => some (engineWord 0x13#8 g f.bits)
  | .sgathf g f => some (engineWord 0x14#8 g f.bits)
  | .sadv g f => some (engineWord 0x15#8 g f.bits)
  | .sscale g f => some (engineWord 0x16#8 g f.bits)
  | .spref g f => some (engineWord 0x17#8 g f.bits)
  | .swaitb g f => some (engineWord 0x18#8 g f.bits)
  | .srel g f => some (engineWord 0x19#8 g f.bits)
  | .vadd g f => some (engineWord 0x10#8 g f.bits)
  | .vsub g f => some (engineWord 0x11#8 g f.bits)
  | .vmul g f => some (engineWord 0x12#8 g f.bits)
  | .vfma g f => some (engineWord 0x13#8 g f.bits)
  | .vfms g f => some (engineWord 0x14#8 g f.bits)
  | .vmax g f => some (engineWord 0x15#8 g f.bits)
  | .vmin g f => some (engineWord 0x16#8 g f.bits)
  | .vabs g f => some (engineWord 0x17#8 g f.bits)
  | .vneg g f => some (engineWord 0x18#8 g f.bits)
  | .vcmp g f => some (engineWord 0x19#8 g f.bits)
  | .vsel g f => some (engineWord 0x1A#8 g f.bits)
  | .viadd g f => some (engineWord 0x20#8 g f.bits)
  | .visub g f => some (engineWord 0x21#8 g f.bits)
  | .vimul g f => some (engineWord 0x22#8 g f.bits)
  | .vimad g f => some (engineWord 0x23#8 g f.bits)
  | .vand g f => some (engineWord 0x24#8 g f.bits)
  | .vor g f => some (engineWord 0x25#8 g f.bits)
  | .vxor g f => some (engineWord 0x26#8 g f.bits)
  | .vnot g f => some (engineWord 0x27#8 g f.bits)
  | .vshl g f => some (engineWord 0x28#8 g f.bits)
  | .vshr g f => some (engineWord 0x29#8 g f.bits)
  | .vsra g f => some (engineWord 0x2A#8 g f.bits)
  | .vicmp g f => some (engineWord 0x2B#8 g f.bits)
  | .vimin g f => some (engineWord 0x2C#8 g f.bits)
  | .vimax g f => some (engineWord 0x2D#8 g f.bits)
  | .vadd64 g f => some (engineWord 0x30#8 g f.bits)
  | .vsub64 g f => some (engineWord 0x31#8 g f.bits)
  | .vshl64 g f => some (engineWord 0x32#8 g f.bits)
  | .vshr64 g f => some (engineWord 0x33#8 g f.bits)
  | .vcmp64 g f => some (engineWord 0x34#8 g f.bits)
  | .vcvt g f => some (engineWord 0x38#8 g f.bits)
  | .vrnd g f => some (engineWord 0x39#8 g f.bits)
  | .vpack g f => some (engineWord 0x3A#8 g f.bits)
  | .vunpk g f => some (engineWord 0x3B#8 g f.bits)
  | .vrsqa g f => some (engineWord 0x3C#8 g f.bits)
  | .vrcpa g f => some (engineWord 0x3D#8 g f.bits)
  | .vexp2 g f => some (engineWord 0x3E#8 g f.bits)
  | .vlog2 g f => some (engineWord 0x3F#8 g f.bits)
  | .vrotr g f => some (engineWord 0x40#8 g f.bits)
  | .vrotc g f => some (engineWord 0x41#8 g f.bits)
  | .vbcr g f => some (engineWord 0x42#8 g f.bits)
  | .vbcc g f => some (engineWord 0x43#8 g f.bits)
  | .vredr g f => some (engineWord 0x44#8 g f.bits)
  | .vredc g f => some (engineWord 0x45#8 g f.bits)
  | .vscanr g f => some (engineWord 0x46#8 g f.bits)
  | .vtrn g f => some (engineWord 0x47#8 g f.bits)
  | .vmov g f => some (engineWord 0x48#8 g f.bits)
  | .vli g f => some (engineWord 0x49#8 g f.bits)
  | .viota g f => some (engineWord 0x4A#8 g f.bits)
  | .vxg g f => some (engineWord 0x4B#8 g f.bits)
  | .vxs g f => some (engineWord 0x4C#8 g f.bits)
  | .vpart g f => some (engineWord 0x4D#8 g f.bits)
  | .pand g f => some (engineWord 0x50#8 g f.bits)
  | .por g f => some (engineWord 0x51#8 g f.bits)
  | .pxor g f => some (engineWord 0x52#8 g f.bits)
  | .pnot g f => some (engineWord 0x53#8 g f.bits)
  | .pfx g f => some (engineWord 0x54#8 g f.bits)
  | .pcnt g f => some (engineWord 0x55#8 g f.bits)
  | .pmov g f => some (engineWord 0x56#8 g f.bits)
  | .vnest g f => some (engineWord 0x58#8 g f.bits)
  | .vsleep g f => some (engineWord 0x59#8 g f.bits)
  | .vwake g f => some (engineWord 0x5A#8 g f.bits)
  | .vlive g f => some (engineWord 0x5B#8 g f.bits)
  | .moset g f => some (engineWord 0x60#8 g f.bits)
  | .moadd g f => some (engineWord 0x61#8 g f.bits)
  | .mosub g f => some (engineWord 0x62#8 g f.bits)
  | .momul g f => some (engineWord 0x63#8 g f.bits)
  | .moscl g f => some (engineWord 0x64#8 g f.bits)
  | .moaxpy g f => some (engineWord 0x65#8 g f.bits)
  | .mosq g f => some (engineWord 0x66#8 g f.bits)
  | .morelu g f => some (engineWord 0x67#8 g f.bits)
  | .molrelu g f => some (engineWord 0x68#8 g f.bits)
  | .moexp g f => some (engineWord 0x69#8 g f.bits)
  | .mosigm g f => some (engineWord 0x6A#8 g f.bits)
  | .mocoll g f => some (engineWord 0x6B#8 g f.bits)
  | .moctl g f => some (engineWord 0x6C#8 g f.bits)
  | .moctlRd g f => some (engineWord 0x6C#8 g f.bits)
  | .mozv g f => some (engineWord 0x6D#8 g f.bits)
  | .mmac g f => some (engineWord 0x80#8 g f.bits)
  | .mmacz g f => some (engineWord 0x81#8 g f.bits)
  | .mmom g f => some (engineWord 0x82#8 g f.bits)
  | .mmhad g f => some (engineWord 0x83#8 g f.bits)
  | .mmanc g f => some (engineWord 0x84#8 g f.bits)
  | .mmclr g f => some (engineWord 0x85#8 g f.bits)
  | .mmcopy g f => some (engineWord 0x86#8 g f.bits)
  | .atsc g f => some (engineWord 0x88#8 g f.bits)
  | .atsm g f => some (engineWord 0x89#8 g f.bits)
  | .atpv g f => some (engineWord 0x8A#8 g f.bits)
  | .atfuse g f => some (engineWord 0x8B#8 g f.bits)
  | .attri g f => some (engineWord 0x8C#8 g f.bits)
  | .drain g f => some (engineWord 0x10#8 g f.bits)
  | .drainmx g f => some (engineWord 0x11#8 g f.bits)
  | .drainm g f => some (engineWord 0x12#8 g f.bits)
  | .dcmpr g f => some (engineWord 0x13#8 g f.bits)
  | .dstore g f => some (engineWord 0x14#8 g f.bits)
  | .dstsc g f => some (engineWord 0x15#8 g f.bits)
  | .dbarsFull g f => some (engineWord 0x16#8 g f.bits)
  | .dbarsWait g f => some (engineWord 0x16#8 g f.bits)
  | .bkupd g f => some (engineWord 0x20#8 g f.bits)
  | .xwin g f => some (engineWord 0x21#8 g f.bits)
  | .xacc g f => some (engineWord 0x22#8 g f.bits)
  | .xflush g f => some (engineWord 0x23#8 g f.bits)
  | .kvapp g f => some (engineWord 0x30#8 g f.bits)
  | .unassignedEngineOpcode w => some w
  | _ => none

/-- The engine in whose map a word is looked up when no engine is known: MA, then FE, then DR. -/
def engineOf (w : BitVec 96) : Eng :=
  if (decodeCommon .ma (opcodeOf w) (.ofBits w) (.ofBits w)).isSome then .ma
  else if (decodeMa w 0#96 0#96).isSome then .ma
  else if (decodeFe w).isSome then .fe
  else if (decodeDr w).isSome then .dr
  else .ma

/-- Does the engine's map hold the instruction (R60 to R63)? -/
def inMap (e : Eng) : Instr → Bool
  | .nop _ _ | .loop _ _ | .lbrk _ _ | .gwait _ _ | .mark _ _ | .estop _ _ => true
  | .sbind _ _ | .sload _ _ | .sloadv _ _ | .sgath _ _ | .sgathf _ _ | .sadv _ _ | .sscale _ _ | .spref _ _
  | .swaitb _ _ | .srel _ _ => e = .fe
  | .loopr _ _ | .vadd _ _ | .vsub _ _ | .vmul _ _ | .vfma _ _ | .vfms _ _ | .vmax _ _ | .vmin _ _
  | .vabs _ _ | .vneg _ _ | .vcmp _ _ | .vsel _ _ | .viadd _ _ | .visub _ _ | .vimul _ _ | .vimad _ _
  | .vand _ _ | .vor _ _ | .vxor _ _ | .vnot _ _ | .vshl _ _ | .vshr _ _ | .vsra _ _ | .vicmp _ _
  | .vimin _ _ | .vimax _ _ | .vadd64 _ _ | .vsub64 _ _ | .vshl64 _ _ | .vshr64 _ _ | .vcmp64 _ _ | .vcvt _ _
  | .vrnd _ _ | .vpack _ _ | .vunpk _ _ | .vrsqa _ _ | .vrcpa _ _ | .vexp2 _ _ | .vlog2 _ _ | .vrotr _ _
  | .vrotc _ _ | .vbcr _ _ | .vbcc _ _ | .vredr _ _ | .vredc _ _ | .vscanr _ _ | .vtrn _ _ | .vmov _ _
  | .vli _ _ | .viota _ _ | .vxg _ _ | .vxs _ _ | .vpart _ _ | .pand _ _ | .por _ _ | .pxor _ _ | .pnot _ _
  | .pfx _ _ | .pcnt _ _ | .pmov _ _ | .vnest _ _ | .vsleep _ _ | .vwake _ _ | .vlive _ _ | .moset _ _
  | .moadd _ _ | .mosub _ _ | .momul _ _ | .moscl _ _ | .moaxpy _ _ | .mosq _ _ | .morelu _ _ | .molrelu _ _
  | .moexp _ _ | .mosigm _ _ | .mocoll _ _ | .moctl _ _ | .moctlRd _ _ | .mozv _ _ | .mmac _ _ | .mmacz _ _
  | .mmom _ _ | .mmhad _ _ | .mmanc _ _ | .mmclr _ _ | .mmcopy _ _ | .atsc _ _ | .atsm _ _ | .atpv _ _
  | .atfuse _ _ | .attri _ _ => e = .ma
  | .drain _ _ | .drainmx _ _ | .drainm _ _ | .dcmpr _ _ | .dstore _ _ | .dstsc _ _ | .dbarsFull _ _
  | .dbarsWait _ _ | .bkupd _ _ | .xwin _ _ | .xacc _ _ | .xflush _ _ | .kvapp _ _ => e = .dr
  | _ => false

/-! ## Command-list entries -/

/-- The instruction of a command-list entry by its TYPE (R134); none for an unassigned TYPE. -/
def decodeEntry (e : ClEntry) : Option Instr :=
  let t := e.typ
  if t = 0x01#8 then some (.launch e)
  else if t = 0x02#8 then some (.waitev e)
  else if t = 0x03#8 then some (.skipif e)
  else if t = 0x04#8 then some (.jump e)
  else if t = 0x05#8 then some (.call e)
  else if t = 0x06#8 then some (.ret e)
  else if t = 0x07#8 then some (.signal e)
  else if t = 0x08#8 then some (.publish e)
  else if t = 0x09#8 then some (.preempt e)
  else if t = 0x0A#8 then some (.pass e)
  else if t = 0x0B#8 then some (.endList e)
  else none

/-- The entry of a command-list instruction. -/
def encodeEntry : Instr → Option ClEntry
 | .launch e => some e
  | .waitev e => some e
  | .skipif e => some e
  | .jump e => some e
  | .call e => some e
  | .ret e => some e
  | .signal e => some e
  | .publish e => some e
  | .preempt e => some e
  | .pass e => some e
  | .endList e => some e
  | _ => none

/-! ## Bytes and table words -/

/-- The little-endian number of a list of bytes (R4). -/
def bytesToNat : List (BitVec 8) → Nat
  | [] => 0
  | b :: t => b.toNat + 256 * bytesToNat t

/-- The `n` low bytes of a number, little-endian. -/
def natToBytes : Nat → Nat → List (BitVec 8)
  | 0, _ => []
  | n + 1, w => BitVec.ofNat 8 w :: natToBytes n (w / 256)

/-- The words of a well-formed instruction as the hardware stores them (R46, R53, R56, R134). -/
def encode (i : Instr) : Option (List (BitVec 8)) :=
  match i with
  | .vnest _ f =>
    (encode96 i).map fun w => natToBytes 12 w.toNat ++ natToBytes 12 f.w1.toNat ++ natToBytes 12 f.w2.toNat
  | _ =>
    match encode32 i, encode96 i, encodeEntry i with
    | some w, _, _ => some (natToBytes 4 w.toNat)
    | none, some w, _ => some (natToBytes 12 w.toNat)
    | none, none, some e =>
      some (natToBytes 8 e.w0.toNat ++ natToBytes 8 e.w1.toNat ++ natToBytes 8 e.w2.toNat ++ natToBytes 8 e.w3.toNat)
    | none, none, none => none

/-- The instruction of a byte sequence for the control sequencer or a system core. -/
def decodeBytes32 (bs : List (BitVec 8)) : Instr := decode32 (BitVec.ofNat 32 (bytesToNat (bs.take 4)))

/-- The instruction of a byte sequence for an engine. -/
def decodeBytes96 (e : Eng) (bs : List (BitVec 8)) : Instr :=
  decodeEngine e (BitVec.ofNat 96 (bytesToNat (bs.take 12))) (BitVec.ofNat 96 (bytesToNat ((bs.drop 12).take 12)))
    (BitVec.ofNat 96 (bytesToNat ((bs.drop 24).take 12)))

/-- The command-list entry of 32 bytes. -/
def entryOfBytes (bs : List (BitVec 8)) : ClEntry where
  w0 := BitVec.ofNat 64 (bytesToNat (bs.take 8))
  w1 := BitVec.ofNat 64 (bytesToNat ((bs.drop 8).take 8))
  w2 := BitVec.ofNat 64 (bytesToNat ((bs.drop 16).take 8))
  w3 := BitVec.ofNat 64 (bytesToNat ((bs.drop 24).take 8))

/-- The instruction the decoder reads from bits `w`: an engine word where the row has 96 bits, a command-list entry where it has
256, otherwise a 32-bit encoding; every bit above `nbits` is zero. -/
def decodeTableWord (nbits w : Nat) : Option Instr :=
  let v := w % 2 ^ nbits
  if nbits = 96 then some (decodeBytes96 (engineOf (BitVec.ofNat 96 v)) (natToBytes 36 v))
  else if nbits = 256 then decodeEntry (entryOfBytes (natToBytes 32 v))
  else
    match classify32 (BitVec.ofNat 32 v) with
    | .ok i => some i
    | _ => none

end Sys2Proof
end

