-- ==== Sys2Proof/Machine/Table.lean ====
section
/-!
DEFINITION. Sparse tables keyed by numbers: plain lists of (key, value), keys strictly rising.  `Tbl.put` lists every
value; `Tbl.set` keeps the canonical form in which a key whose value is the default is not listed, so that equal
tables are equal data.
-/

namespace Sys2Proof

/-- A table keyed by natural numbers, keys strictly rising. -/
abbrev Tbl (α : Type) := List (Nat × α)

namespace Tbl

/-- The value listed under a key. -/
def find {α : Type} : Tbl α → Nat → Option α
  | [], _ => none
  | (k, v) :: t, n => if k = n then some v else find t n

/-- The value of a key; `d` where none is listed. -/
def get {α : Type} (d : α) : Tbl α → Nat → α
  | [], _ => d
  | (k, v) :: t, n => if k = n then v else get d t n

/-- Lists `v` under the key `n`. -/
def put {α : Type} : Tbl α → Nat → α → Tbl α
  | [], n, v => [(n, v)]
  | (k, w) :: t, n, v =>
    if n < k then (n, v) :: (k, w) :: t
    else if n = k then (n, v) :: t
    else (k, w) :: put t n v

/-- Lists nothing under the key `n`. -/
def erase {α : Type} : Tbl α → Nat → Tbl α
  | [], _ => []
  | (k, w) :: t, n => if k = n then t else (k, w) :: erase t n

/-- Writes `v` under `n`, listing no entry equal to the default `d`. -/
def set {α : Type} [DecidableEq α] (d : α) (t : Tbl α) (n : Nat) (v : α) : Tbl α :=
  if v = d then erase t n else put t n v

/-- The least key not listed at or above `n`, within `fuel` tries. -/
def freeKey {α : Type} (t : Tbl α) : Nat → Nat → Nat
  | 0, n => n
  | f + 1, n => if (find t n).isSome then freeKey t f (n + 1) else n

/-- Keys strictly rise. -/
def sorted {α : Type} : Tbl α → Bool
  | [] => true
  | (k, _) :: t => t.all (fun e => decide (k < e.1)) && sorted t

end Tbl

/-- Replaces element `n` of a list. -/
def setAt {α : Type} : List α → Nat → α → List α
  | [], _, _ => []
  | _ :: t, 0, v => v :: t
  | a :: t, n + 1, v => a :: setAt t n v

/-- Writes element `n` of a list whose elements beyond its end are `d`, as `nth d` reads them. -/
def fillAt {α : Type} (d : α) : List α → Nat → α → List α
  | [], 0, v => [v]
  | [], n + 1, v => d :: fillAt d [] n v
  | _ :: t, 0, v => v :: t
  | a :: t, n + 1, v => a :: fillAt d t n v

/-- Applies `f` to element `n` of a list. -/
def modAt {α : Type} (f : α → α) : List α → Nat → List α
  | [], _ => []
  | a :: t, 0 => f a :: t
  | a :: t, n + 1 => a :: modAt f t n

/-- Element `n` of a list; `d` beyond its end. -/
def nth {α : Type} (d : α) : List α → Nat → α
  | [], _ => d
  | a :: _, 0 => a
  | _ :: t, n + 1 => nth d t n

/-- The list of `f 0` to `f (n - 1)`. -/
def tab {α : Type} (n : Nat) (f : Nat → α) : List α := (List.range n).map f

end Sys2Proof
end

