-- ==== Sys2Proof/Machine/Bits.lean ====
section
/-!
DEFINITION. Fields of words, bytes, sign extension and the integer helpers of R69.
-/

namespace Sys2Proof

/-- Bits `lo + n - 1` to `lo` of a number. -/
def bitsOf (x lo n : Nat) : Nat := x / 2 ^ lo % 2 ^ n

/-- Bit `i` of a number. -/
def bitOf (x i : Nat) : Bool := x / 2 ^ i % 2 = 1

/-- Bits `lo + n - 1` to `lo` of a word, as a number. -/
def fld {w : Nat} (x : BitVec w) (lo n : Nat) : Nat := bitsOf x.toNat lo n

/-- The bits `lo + n - 1` to `lo` of a word replaced by `v`. -/
def setFld {w : Nat} (x : BitVec w) (lo n v : Nat) : BitVec w :=
  BitVec.ofNat w (x.toNat - bitsOf x.toNat lo n * 2 ^ lo + v % 2 ^ n * 2 ^ lo)

def b2n (b : Bool) : Nat := if b then 1 else 0

/-- sign_extend(x, n) of R69. -/
def signExt (x n : Nat) : Int :=
  let y := x % 2 ^ n
  if bitOf y (n - 1) then (y : Int) - 2 ^ n else y

/-- mod(a, m) of R69. -/
def imod (a : Int) (m : Nat) : Nat := (a % (m : Int)).toNat

/-- sat(x, lo, hi) of R69. -/
def isat (x lo hi : Int) : Int := if x < lo then lo else if x > hi then hi else x

/-- Little-endian value of bytes. -/
def leNat : List Byte → Nat
  | [] => 0
  | b :: t => b.toNat + 256 * leNat t

/-- The `n` low bytes of a number, little-endian. -/
def leBytes : Nat → Nat → List Byte
  | 0, _ => []
  | n + 1, x => BitVec.ofNat 8 x :: leBytes n (x / 256)

/-- A list cut into pieces of `n`, within `fuel` pieces. -/
def chunks {α : Type} (n : Nat) : Nat → List α → List (List α)
  | 0, _ => []
  | _, [] => []
  | f + 1, l => l.take n :: chunks n f (l.drop n)

/-- A list padded with `d`, or cut, to length `n`. -/
def fit {α : Type} (d : α) : Nat → List α → List α
  | 0, _ => []
  | n + 1, [] => d :: fit d n []
  | n + 1, a :: t => a :: fit d n t

/-- The words of 64 bits that bytes hold. -/
def words64 (n : Nat) (bs : List Byte) : List Word := (chunks 8 n bs).map fun c => BitVec.ofNat 64 (leNat c)

/-- `a` rounded up to a multiple of `m`. -/
def roundUp (a m : Nat) : Nat := (a + m - 1) / m * m

/-- Number of bits set in the low `n` bits. -/
def popCount : Nat → Nat → Nat
  | 0, _ => 0
  | n + 1, x => x % 2 + popCount n (x / 2)

/-- Number of leading zeros of an `n`-bit number. -/
def clzNat (n x : Nat) : Nat := if x % 2 ^ n = 0 then n else n - 1 - Nat.log2 (x % 2 ^ n)

/-- Number of trailing zeros of an `n`-bit number. -/
def ctzNat : Nat → Nat → Nat
  | 0, _ => 0
  | n + 1, x => if x % 2 = 1 then 0 else 1 + ctzNat n (x / 2)

end Sys2Proof
end

