-- ==== Sys2Proof/Machine/Num.lean ====
section
/-!
DEFINITION. Exact numbers and the rounding of R69.  `Q` is a rational number with a positive denominator; a value of a
floating-point format is a NaN, a signed infinity or a signed finite magnitude, so that the sign of a zero is
carried (R69).
-/

namespace Sys2Proof

/-- An exact rational number `num / den`, `den` positive. -/
structure Q where
  num : Int
  den : Nat
deriving DecidableEq, Repr

namespace Q

/-- `n / d` in lowest terms. -/
def mk' (n : Int) (d : Nat) : Q :=
  let g := Nat.gcd n.natAbs d
  if g = 0 then ⟨0, 1⟩ else ⟨n / (g : Int), d / g⟩

def ofInt (n : Int) : Q := ⟨n, 1⟩
def zero : Q := ⟨0, 1⟩
def one : Q := ⟨1, 1⟩
def add (a b : Q) : Q := mk' (a.num * b.den + b.num * a.den) (a.den * b.den)
def neg (a : Q) : Q := ⟨-a.num, a.den⟩
def sub (a b : Q) : Q := add a (neg b)
def mul (a b : Q) : Q := mk' (a.num * b.num) (a.den * b.den)
/-- `a / b` for `b` not zero. -/
def div (a b : Q) : Q :=
  if b.num < 0 then mk' (-(a.num * b.den)) (a.den * b.num.natAbs) else mk' (a.num * b.den) (a.den * b.num.natAbs)
def abs (a : Q) : Q := ⟨(a.num.natAbs : Int), a.den⟩
def lt (a b : Q) : Bool := decide (a.num * b.den < b.num * a.den)
def le (a b : Q) : Bool := decide (a.num * b.den ≤ b.num * a.den)
def eq (a b : Q) : Bool := decide (a.num * b.den = b.num * a.den)
def isZero (a : Q) : Bool := decide (a.num = 0)
def isNeg (a : Q) : Bool := decide (a.num < 0)
def max (a b : Q) : Q := if lt a b then b else a
/-- 2 to an integer power. -/
def pow2 (e : Int) : Q := if e < 0 then ⟨1, 2 ^ e.natAbs⟩ else ⟨(2 ^ e.natAbs : Nat), 1⟩
def floor (a : Q) : Int := a.num / (a.den : Int)

/-- floor(log2 |a|) for `a` not zero. -/
def log2 (a : Q) : Int :=
  let n := a.num.natAbs
  let e : Int := (Nat.log2 n : Int) - (Nat.log2 a.den : Int)
  -- n / d lies in (2^(e-1), 2^(e+1))
  if le (pow2 e) (abs a) then e else e - 1

end Q

/-- A rounding mode of R52.  STOCH carries the draw `u` (R298). -/
inductive RMode where
  | rne | rtz | rup | rdn | rna | rto
  | stoch (u : Nat)
deriving DecidableEq, Repr

/-- The mode of an RM field and a draw; 7 is no mode (R52). -/
def RMode.ofNat (rm u : Nat) : Option RMode :=
  match rm with
  | 0 => some .rne
  | 1 => some .rtz
  | 2 => some .rup
  | 3 => some .rdn
  | 4 => some .rna
  | 5 => some .rto
  | 6 => some (.stoch u)
  | _ => none

/-- Is the neighbour of larger magnitude taken?  `n` is the magnitude's integer part and `f` its fraction (not zero), `neg`
the sign (R69, R298). -/
def RMode.up (m : RMode) (neg : Bool) (n : Nat) (f : Q) : Bool :=
  let half : Q := ⟨1, 2⟩
  match m with
  | .rne => if Q.lt half f then true else if Q.lt f half then false else n % 2 = 1
  | .rna => Q.le half f
  | .rtz => false
  | .rup => !neg
  | .rdn => neg
  | .rto => n % 2 = 0
  | .stoch u =>
    -- hi is the larger real neighbour: taken when u < (x - lo) * 2^32 / (hi - lo)
    if neg then !(Q.lt (Q.ofInt u) (Q.mul (Q.sub Q.one f) (Q.pow2 32)))
    else Q.lt (Q.ofInt u) (Q.mul f (Q.pow2 32))

/-- The magnitude rounded to an integer (an exact one is returned unchanged). -/
def roundMag (m : RMode) (neg : Bool) (a : Q) : Nat :=
  let n := (Q.floor a).toNat
  let f := Q.sub a (Q.ofInt n)
  if Q.isZero f then n else if m.up neg n f then n + 1 else n

/-- round to an integer: the neighbour that the mode selects (R69). -/
def roundInt (m : RMode) (a : Q) : Int :=
  let n := roundMag m a.isNeg (Q.abs a)
  if a.isNeg then -(n : Int) else n

/-- A value of a floating-point format, or of a real with the sign of its zero. -/
inductive FVal where
  | nan
  | inf (neg : Bool)
  | fin (neg : Bool) (mag : Q)
deriving DecidableEq, Repr

/-- A binary floating-point format: exponent bits, stored significand bits, whether it has infinities, its largest finite
magnitude, and the code of its NaN (none for the MX element formats).  `topInf` says that a code of the top exponent is read
as infinity or NaN (R194), `hasInf` that rounding gives infinities (R69). -/
structure FFmt where
  eb : Nat
  mb : Nat
  hasInf : Bool
  topInf : Bool
  maxFin : Q
  nanCode : Option Nat
deriving DecidableEq, Repr

namespace FFmt

def width (f : FFmt) : Nat := 1 + f.eb + f.mb
def bias (f : FFmt) : Int := 2 ^ (f.eb - 1) - 1

def ieee (eb mb : Nat) : FFmt :=
  { eb := eb, mb := mb, hasInf := true, topInf := true,
    maxFin := Q.mul ⟨2 ^ (mb + 1) - 1, 1⟩ (Q.pow2 ((2 ^ (eb - 1) - 1 : Int) - mb)),
    nanCode := some ((2 ^ eb - 1) * 2 ^ mb + 2 ^ (mb - 1)) }

def fp32 : FFmt := ieee 8 23
def bf16 : FFmt := ieee 8 7
def fp16 : FFmt := ieee 5 10
def e5m2 : FFmt := ieee 5 2
/-- FP8E4M3: no infinities, 448 the largest, NaN 0x7F (R69). -/
def e4m3 : FFmt := { eb := 4, mb := 3, hasInf := false, topInf := false, maxFin := ⟨448, 1⟩, nanCode := some 0x7F }
/-- The MX element formats: no infinities and no NaN but where R69 says so. -/
def mxE5m2 : FFmt := { eb := 5, mb := 2, hasInf := false, topInf := true, maxFin := ⟨57344, 1⟩, nanCode := none }
def mxE4m3 : FFmt := { eb := 4, mb := 3, hasInf := false, topInf := false, maxFin := ⟨448, 1⟩, nanCode := none }
def mxE3m2 : FFmt := { eb := 3, mb := 2, hasInf := false, topInf := false, maxFin := ⟨28, 1⟩, nanCode := none }
def mxE2m3 : FFmt := { eb := 2, mb := 3, hasInf := false, topInf := false, maxFin := ⟨15, 2⟩, nanCode := none }
def mxE2m1 : FFmt := { eb := 2, mb := 1, hasInf := false, topInf := false, maxFin := ⟨6, 1⟩, nanCode := none }

/-- The value of a code.  A format with infinities reads its top exponent as infinity or NaN; FP8E4M3 reads
S.1111.111 as NaN; every other code is a number. -/
def decode (f : FFmt) (code : Nat) : FVal :=
  let m := bitsOf code 0 f.mb
  let e := bitsOf code f.mb f.eb
  let s := bitOf code (f.eb + f.mb)
  if f.topInf && e == 2 ^ f.eb - 1 then (if m = 0 then .inf s else .nan)
  else if f.eb == 4 && f.mb == 3 && e == 15 && m == 7 then .nan
  else if e = 0 then .fin s (Q.mul ⟨m, 1⟩ (Q.pow2 (1 - f.bias - f.mb)))
  else .fin s (Q.mul ⟨(2 ^ f.mb + m : Nat), 1⟩ (Q.pow2 ((e : Int) - f.bias - f.mb)))

/-- The code of a sign and an exact magnitude of the format. -/
def encodeFin (f : FFmt) (neg : Bool) (a : Q) : Nat :=
  let s := b2n neg * 2 ^ (f.eb + f.mb)
  if a.isZero then s
  else
    let e := Q.log2 a
    let emin : Int := 1 - f.bias
    if e < emin then s + (Q.floor (Q.mul a (Q.pow2 (f.mb - emin)))).toNat
    else
      let n := (Q.floor (Q.mul a (Q.pow2 ((f.mb : Int) - e)))).toNat
      s + (e + f.bias).toNat * 2 ^ f.mb + (n - 2 ^ f.mb)

def infCode (f : FFmt) (neg : Bool) : Nat := b2n neg * 2 ^ (f.eb + f.mb) + (2 ^ f.eb - 1) * 2 ^ f.mb

def nan (f : FFmt) : Nat := f.nanCode.getD 0

/-- The code of overflow under a mode (R69). -/
def overflow (f : FFmt) (m : RMode) (neg : Bool) : Nat :=
  let mx := f.encodeFin neg f.maxFin
  if !f.hasInf then mx
  else
    match m with
    | .rne | .rna => f.infCode neg
    | .rtz | .rto => mx
    | .rup => if neg then mx else f.infCode neg
    | .rdn => if neg then f.infCode neg else mx
    | .stoch _ => mx

/-- The magnitude rounded to the format's spacing, before overflow is looked at. -/
def roundMagTo (f : FFmt) (m : RMode) (neg : Bool) (a : Q) : Q :=
  if a.isZero then a
  else
    let e := Q.log2 a
    let emin : Int := 1 - f.bias
    let q : Int := (if e < emin then emin else e) - f.mb
    Q.mul (Q.ofInt (roundMag m neg (Q.mul a (Q.pow2 (-q))))) (Q.pow2 q)

/-- round(x, f, mode) of R69, as a code. -/
def round (f : FFmt) (m : RMode) : FVal → Nat
  | .nan => f.nan
  | .inf s => if f.hasInf then f.infCode s else f.encodeFin s f.maxFin
  | .fin s a =>
    let r := f.roundMagTo m s a
    if Q.lt f.maxFin r then f.overflow m s else f.encodeFin s r

end FFmt

/-- An exact signed real as a value; an exact zero is +0. -/
def FVal.ofQ (a : Q) : FVal := .fin a.isNeg (Q.abs a)

/-- The real of a finite value; 0 for others. -/
def FVal.toQ : FVal → Q
  | .fin s a => if s then Q.neg a else a
  | _ => Q.zero

def FVal.isFin : FVal → Bool
  | .fin _ _ => true
  | _ => false

def FVal.isNan : FVal → Bool
  | .nan => true
  | _ => false

def FVal.isZero : FVal → Bool
  | .fin _ a => a.isZero
  | _ => false

def FVal.sign : FVal → Bool
  | .nan => false
  | .inf s => s
  | .fin s _ => s

def FVal.setSign (n : Bool) : FVal → FVal
  | .nan => .nan
  | .inf _ => .inf n
  | .fin _ a => .fin n a

def FVal.negate : FVal → FVal
  | .nan => .nan
  | .inf s => .inf !s
  | .fin s a => .fin (!s) a

/-- fp32(b) of R69. -/
def fp32 (b : Elem32) : FVal := FFmt.fp32.decode b.toNat

/-- rne to FP32, as an element. -/
def rne32 (x : FVal) : Elem32 := BitVec.ofNat 32 (FFmt.fp32.round .rne x)

/-- The default NaN of FP32 (R69). -/
def nan32 : Elem32 := 0x7FC00000#32

/-- Exact sum; two zeros of unlike sign give +0, and infinities of unlike sign give NaN (the IEEE rule under RNE). -/
def FVal.add : FVal → FVal → FVal
  | .nan, _ => .nan
  | _, .nan => .nan
  | .inf s, .inf t => if s = t then .inf s else .nan
  | .inf s, _ => .inf s
  | _, .inf t => .inf t
  | .fin s a, .fin t b =>
    if a.isZero && b.isZero then .fin (s && t) Q.zero
    else .ofQ (Q.add (FVal.toQ (.fin s a)) (FVal.toQ (.fin t b)))

def FVal.sub (x y : FVal) : FVal := x.add y.negate

/-- Exact product; zero times infinity is NaN. -/
def FVal.mul : FVal → FVal → FVal
  | .nan, _ => .nan
  | _, .nan => .nan
  | .inf s, .inf t => .inf (s != t)
  | .inf s, .fin t b => if b.isZero then .nan else .inf (s != t)
  | .fin s a, .inf t => if a.isZero then .nan else .inf (s != t)
  | .fin s a, .fin t b => .fin (s != t) (Q.mul a b)

/-- Numeric comparison of two values neither of which is NaN: -1, 0 or 1. -/
def FVal.cmp : FVal → FVal → Int
  | .inf s, .inf t => if s = t then 0 else if s then -1 else 1
  | .inf s, _ => if s then -1 else 1
  | _, .inf t => if t then 1 else -1
  | x, y => if Q.lt x.toQ y.toQ then -1 else if Q.lt y.toQ x.toQ then 1 else 0

end Sys2Proof
end

