-- ==== Sys2Proof/Machine/State.lean ====
section
/-!
DEFINITION. The machine state: plain data holding everything the spec gives the package (INVENTORY.md, ## State), the reasons a
step can stop, and the state after reset.
-/

namespace Sys2Proof.Machine

/-! ## Faults and refusals -/

/-- Why a step stops with a fault.  Architectural faults are no stops: they are next states. -/
inductive Fault where
  /-- Raised by a step of an agent that the spec gives no step (a held hart): safe, the model goes no further. -/
  | noAgent
deriving DecidableEq, Repr

/-- Why an instruction is refused. -/
inductive Refusal where
  /-- Raised by an arm of exec whose instruction has no meaning yet: safe. -/
  | notModelled (mnemonic : String)
deriving DecidableEq, Repr

/-! ## Agents -/

/-- A sequencer of a core (R14). -/
inductive Seq where
  | ct
  | eng (e : Eng)
deriving DecidableEq, Repr

/-- Who takes the present step: a sequencer of a core, a hart, a command-list interpreter, the unit at which a happening of the
agenda takes place, or the package clock. -/
inductive Agent where
  | clock
  /-- The matrix units of a core, at the end of a clk (R282). -/
  | arrays (core : Nat)
  | seq (core : Nat) (q : Seq)
  | hart (h : Nat)
  | interp (i : Nat)
  | unit (n : Nat)
deriving DecidableEq, Repr

/-! ## Fault records -/

/-- A 128-bit fault record (R37) without its ENG field, which the sequencer that holds it fixes once a
fault has written the record. -/
structure FaultRec where
  v : Bool := false
  more : Bool := false
  code : BitVec 8 := 0#8
  detail : Half := 0#16
  elem : BitVec 32 := 0#32
  sec : Half := 0#16
  widx : BitVec 14 := 0#14
  late : Bool := false
  nsec : Half := 0#16
  nwidx : BitVec 14 := 0#14
deriving DecidableEq, Repr

/-! ## The control sequencer -/

/-- What a view maps (R169): a published version or a draft of an object, or a span of physical memory that the loader placed
(a code image or the service image). -/
inductive Backing where
  | version (key : Nat) (handle : Word) (ver : Nat)
  | draft (key : Nat) (handle : Word)
  | live (key : Nat) (handle : Word)
  | phys (pa : Nat)
deriving DecidableEq, Repr

/-- Who made a view: the loader (code), the dispatcher (frame, and the view of the service image), or OVIEW. -/
inductive ViewKind where
  | code | frame | service | made
deriving DecidableEq, Repr

/-- An entry of a task's view table (R169). -/
structure View where
  base : Nat
  size : Nat
  back : Backing
  r : Bool
  w : Bool
  x : Bool
  kind : ViewKind
deriving DecidableEq, Repr

/-- The instructions of the control sequencer that wait (R140). -/
inductive WaitKind where
  | rdv | aborte | texit | osub | flacq | tbar | oclaim | opub | kvhand | kvtake | cwait | clwait
deriving DecidableEq, Repr

/-- A hand-over list as read: the flag, the team, the pages (R387). -/
structure HandList where
  flag : Word
  team : Nat
  pages : List Word
deriving DecidableEq, Repr

/-- A waiting instruction: its kind, its register fields, the PCC at which it began to wait. -/
structure Waiting where
  kind : WaitKind
  a : BitVec 5
  b : BitVec 5
  d : BitVec 5
  since : Nat
  /-- The list that a KVHAND or KVTAKE read at its issue (R389, R391). -/
  list : Option HandList := none
deriving DecidableEq, Repr

/-- The control sequencer of a core (R42, R70 to R77). -/
structure Ct where
  x : List Word := List.replicate 32 0#64
  pc : Word := 0#64
  sup : Bool := false
  spp : Bool := false
  stvec : Word := 0#64
  sscratch : Word := 0#64
  sepc : Word := 0#64
  scause : Word := 0#64
  stval : Word := 0#64
  instret : Word := 0#64
  fault : FaultRec := {}
  wait : Option Waiting := none
deriving DecidableEq, Repr

/-! ## Engines -/

/-- A hardware loop level (R90 to R93). -/
structure LoopLv where
  active : Bool := false
  rot : Bool := false
  ls : Nat := 0
  le : Nat := 0
  lc : Nat := 0
  cnt : Nat := 0
  started : Nat := 0
deriving DecidableEq, Repr

/-- An engine word with its place, for the words an engine keeps and issues again (R36, R84). -/
structure Kept where
  sec : Half
  widx : Nat
  w0 : BitVec 96
  w1 : BitVec 96
  w2 : BitVec 96
  /-- Of a load, the descriptor state with which it is executed again (R219). -/
  desc : Option (List Word) := none
deriving DecidableEq, Repr

/-- A section that has started and not retired: its number, whether its last word has issued, the words in flight, whether a word
of it faulted and has not retired, whether it holds power leave by token. -/
structure Track where
  num : Half
  issued : Bool := false
  flight : Nat := 0
  stuck : Nat := 0
  token : Bool := false
deriving DecidableEq, Repr

/-- What holds the word at the head of an engine. -/
inductive Hold where
  | none | guard | gwait | swaitb | srel | dbarsFull | dbarsWait | xflush | estop
  /-- VSLEEP; the clk in which it takes effect, once its conditions have held (R245). -/
  | vsleep (at_ : Option Nat)
deriving DecidableEq, Repr

/-- FE, MA or DR of a core. -/
structure EngSt where
  /-- Address of the next section header, or of the header of the section being issued. -/
  hdrPc : Word := 0#64
  /-- The stream has ended, by ESTOP or an empty entry point (R83). -/
  ended : Bool := false
  inSec : Bool := false
  /-- Header of the section being issued. -/
  hdr : Word := 0#64
  /-- Section number that R16 requires at the next header, or of the section being issued. -/
  secNum : Half := 1#16
  /-- Index of the next word slot within the section. -/
  slot : Nat := 0
  /-- Indexes of the matrix and attention commands that have entered the queue from this section (R283). -/
  cmds : List Nat := []
  waMet : Bool := false
  wbMet : Bool := false
  /-- PCC of the request for power leave, while one stands (R31). -/
  leaveReq : Option Nat := none
  leaveOk : Bool := false
  /-- The section being issued must ask for leave again before its next word (R140). -/
  reLeave : Bool := false
  stampBase : Nat := 0
  retired : Half := 0#16
  /-- The count that the other engines see (R16). -/
  retiredVis : Half := 0#16
  mkv : BitVec 32 := 0#32
  loops : List LoopLv := List.replicate 4 {}
  /-- Held at the watermark (R78). -/
  held : Bool := false
  /-- Word slots left before the watermark, from service entry (R78). -/
  wmLeft : Option Nat := none
  hold : Hold := .none
  fault : FaultRec := {}
  kept : List Kept := []
  /-- Words that a RESUME issues again before the engine goes on (R84). -/
  redo : List Kept := []
  tracks : List Track := []
  /-- Stopped by ABORTE, by a stop of the task, or faulted at the watermark's end. -/
  stopped : Bool := false
  /-- First clk in which the next word may issue. -/
  busyTo : Nat := 0
  /-- First clk in which the header at `hdrPc` may be examined: the engine has reached it then (R18, R80). -/
  hdrAt : Nat := 0
  /-- PCC at which V of the record was last set (R75). -/
  faultAt : Nat := 0
  /-- Sections of commands that missed their stamp since the last RESUME (R29, R36). -/
  missed : List Half := []
  /-- PCC since which a check of R26, R217 or R307 has found the engine unable to go on. -/
  stallSince : Option Nat := none
deriving DecidableEq, Repr

/-! ## Register files and stores of a core -/

/-- An accumulator tile (R42, R43): RA128 bits of each element (R272), poison causes, anchor and VALID. -/
structure Tile where
  els : Tbl (BitVec 128) := []
  poison : Tbl Nat := []
  anc : Half := 0#16
  valid : Bool := false
deriving DecidableEq, Repr

/-- A scratchpad slot: bytes, poisoned 64-bit words by their offsets (R457), VALID. -/
structure Slot where
  bytes : Tbl Byte := []
  poison : List Nat := []
  valid : Bool := false
deriving DecidableEq, Repr

/-- A register bank's state (R42, R245). -/
inductive BankSt where
  | awake | asleep | off
  /-- Awake from clk `at_` on; `kept` says whether the bank has slept with its contents (R246). -/
  | waking (at_ : Nat) (kept : Bool)
deriving DecidableEq, Repr

/-- What an MA word in flight writes to a physical vector, predicate or moment register: the elements written, none where an
element is not written; or MCTL (R311). -/
inductive MaDst where
  | v (r : Nat) (els : List (Option Elem32))
  | p (r : Nat) (mask bits : BitVec 1024)
  | m (r : Nat) (els : List (Option (Elem32 × Elem32)))
  | mctl (w : BitVec 32)
deriving DecidableEq, Repr

/-- An MA result in flight: the clk in which it is written (R32) and its section. -/
structure MaPend where
  due : Nat
  dst : List MaDst
  sec : Half
deriving DecidableEq, Repr

/-- A command in the matrix issue queue (R28): its word, opcode, place, stamped clk. -/
structure MqEntry where
  opc : BitVec 8
  w : MmWord
  sec : Half
  widx : Nat
  stamp : Nat
deriving DecidableEq, Repr

/-- A command running on its units (R280): the command, the number of its array, the clk of its start and of its write, the copies
of the slots it reads (R279). -/
structure MRun where
  cmd : MqEntry
  arr : Nat
  start : Nat
  due : Nat
  slots : List (Nat × Slot)
deriving DecidableEq, Repr

/-- An FE load or gather issued and not resolved (R218): 0 SLOAD, 1 SLOADV, 2 SGATH, 3 SGATHF; its word, and what it read at issue: the
descriptor, the indices, the mask. -/
structure FeLoad where
  op : Nat
  f : StWord
  w : BitVec 96
  sec : Half
  widx : Nat
  desc : List Word
  idx : List Nat
  mask : BitVec 1024
  /-- Of SGATHF, the lowest active element whose index is poisoned; 1,024 when there is none (R208). -/
  cut : Nat := 1024
  /-- Destination registers that were dead at issue or have become dead since (R242). -/
  drop : List Nat
deriving DecidableEq, Repr

/-- An element that a DR word writes: the number reported as ELEM, its index tuple, and the bits, none for an element that is only
checked (R301). -/
structure StEl where
  elem : Nat
  t : List Nat
  val : Option Nat
deriving DecidableEq, Repr

/-- What a DR word in flight does when it is accepted: a store into an object, with MX scales of the blocks of the elements given; a
slot write; Bench updates (operation, format, comparands for CAS, the slot that takes old values with its tile shape); entries
for the merge window; a KVAPP of one token, with its rounding mode and the FP32 codes of its key and value channels; a word of whose
elements one has been found at issue to resolve to a fault, which it raises (CODE, DETAIL, element), with whether it updates the Bench. -/
inductive DrWork where
  | store (els : List StEl) (scales : List (List Nat × Nat))
  | slots (ws : List (Nat × Slot))
  | update (op : Nat) (els : List StEl) (cmp : List Nat) (ret : Option (Nat × Nat × Nat))
  | entries (els : List StEl)
  | token (rm : Nat) (vals : List Nat)
  | lost (upd : Bool) (code detail elem : Nat)
deriving DecidableEq, Repr

/-- A DR word issued and not retired (R294). -/
structure DrStore where
  w : BitVec 96
  sec : Half
  widx : Nat
  desc : List Word
  work : DrWork
deriving DecidableEq, Repr

/-- An entry of a core's merge window (R232): target element and value. -/
structure WinEntry where
  lin : Nat
  val : Elem32
deriving DecidableEq, Repr

/-- The merge-window binding (R237). -/
structure WinBind where
  handle : Word
  l0 : Nat
  op : Nat
  fmt : Nat
deriving DecidableEq, Repr

/-- A request on its way to a Bench bank (R225): the task (0 once it is gone), object key and GEN, PA of the element, element bytes,
operation, format, source value, comparand. -/
structure BankReq where
  core : Nat
  crid : Nat
  key : Nat
  gen : Nat
  pa : Nat
  size : Nat
  op : Nat
  fmt : Nat
  x : Nat
  cmp : Nat
  /-- It left the merge window. -/
  win : Bool
deriving DecidableEq, Repr

/-- A booking of power leave (R87, R452). -/
structure Booking where
  grant : Nat
  dur : Nat
deriving DecidableEq, Repr

/-- What a core is doing for the dispatcher. -/
inductive Phase where
  | idle
  /-- Popped; restoring until the clk given, its first instruction in the clk given. -/
  | starting (restoreTo : Nat) (first : Nat)
  | running
  /-- Stopping by save (requeue as the flag of the stop says) or by discard. -/
  | stopping (discard : Bool)
  /-- Everything has retired; the save is written until the clk given. -/
  | saving (until_ : Nat)
  /-- Reserved for a gang entry (R130). -/
  | reserved (team : Nat)
deriving DecidableEq, Repr

/-- One core: its sequencers, its registers, and the running task's place in the dispatcher. -/
structure Core where
  ct : Ct := {}
  fe : EngSt := {}
  ma : EngSt := {}
  dr : EngSt := {}
  forkOut : Bool := false
  forks : Half := 0#16
  v : Tbl (List Elem32) := []
  p : Tbl (BitVec 1024) := []
  m : Tbl (List (Elem32 × Elem32)) := []
  /-- Poisoned 64-bit words of the vector file (512 * register + pair of elements) and of the moment file (1024 * register +
  element) (R251, R457). -/
  vPois : List Nat := []
  mPois : List Nat := []
  tiles : Tbl Tile := []
  slots : Tbl Slot := []
  sd : Tbl (List Word) := []
  /-- Guard slots as committed now, as of the last clk, and as the engines see them (R24). -/
  gNow : List (BitVec 2) := List.replicate 16 0#2
  gPrev : List (BitVec 2) := List.replicate 16 0#2
  gSeen : List (BitVec 2) := List.replicate 16 0#2
  /-- Copy barriers, FULL or not, with the job that owns each. -/
  cb : List Bool := List.replicate 16 false
  cbOwner : Tbl Nat := []
  /-- Values that are set and not seen yet: (clk from which they are seen, barrier, value, JID of the job that has set it and then owns it
  no longer; 0 for CBQ) (R355, R365). -/
  cbPend : List (Nat × Nat × Bool × Nat) := []
  vrb : BitVec 4 := 0#4
  prb : BitVec 3 := 0#3
  live : BitVec 5 := 16#5
  /-- The live depth that a VLIVE of this clk sets from the next one on (R243). -/
  livePend : Option (BitVec 5) := none
  mctl : BitVec 32 := 0#32
  bankV : List BankSt := List.replicate 4 .awake
  bankM : List BankSt := List.replicate 2 .awake
  bankA : List BankSt := List.replicate 16 .awake
  vPend : List MaPend := []
  unitBusy : Tbl Nat := []
  mq : List MqEntry := []
  mrun : List MRun := []
  /-- First clk in which a matrix unit is free: arrays 0 to 3, stages 4 and 5. -/
  arrBusy : Tbl Nat := []
  loads : List FeLoad := []
  stores : List DrStore := []
  win : List WinEntry := []
  winBind : Option WinBind := none
  scFail : Bool := false
  views : List View := []
  /-- OPIN pins of the task: (object key, version, count) (R164). -/
  opins : List (Nat × Nat × Nat) := []
  crid : Nat := 0
  j : Nat := 0
  cont : Nat := 0
  exposed : Bool := false
  dlArmed : Bool := true
  popQ : Nat := 0
  /-- A POOL notice has been posted for the store or claim that waits for frames (R161, R426). -/
  poolNote : Bool := false
  /-- The clk in which a store of the control sequencer last had to wait (R157, R158, R420, R428). -/
  storeHeld : Option Nat := none
  /-- PCC since which the condition of R23 has held. -/
  forkStall : Option Nat := none
  /-- CODE and DETAIL of a failed task whose engines' words still complete (R76). -/
  failed : Option (Nat × Nat) := none
  frameSup : Option Nat := none
  /-- Pages of the frame object when its view was last fitted to it (R98). -/
  framePages : Nat := 0
  placed : Nat := 0
  phase : Phase := .idle
deriving DecidableEq, Repr

/-! ## Harts -/

/-- A system core (R411): its integer and floating-point registers, fcsr (fflags and frm), the count of retired instructions, its
other CSRs by number. -/
structure Hart where
  x : List Word := List.replicate 32 0#64
  f : List Word := List.replicate 32 0#64
  fcsr : BitVec 8 := 0#8
  instret : Word := 0#64
  pc : Word := 0#64
  /-- Privilege mode: 0 U, 1 S, 3 M. -/
  mode : Nat := 3
  csr : Tbl Word := []
  ydet : Word := 0#64
  held : Bool := true
  /-- A YLOCK release or YSWITCH COMMIT that waits: the instruction's register fields. -/
  wait : Option (Bool × BitVec 5 × BitVec 5 × BitVec 5) := none
  /-- The PTE that a YSWITCH COMMIT under way has replaced (R428). -/
  oldPte : Word := 0#64
deriving DecidableEq, Repr

/-- A reservation of LR (R411): the place and size of the bytes, and the bytes as they were loaded. -/
structure Resv where
  key : Nat
  n : Nat
  bytes : List Byte
deriving DecidableEq, Repr

/-! ## The dispatcher -/

/-- An entry of a queue (R108).  `gang` holds the CRIDs of a gang entry (R130); `late` the clk of entry into the late band. -/
structure QEntry where
  crid : Nat
  deadline : Nat
  kind : Nat
  cls : Nat
  seq : Nat
  gang : List Nat := []
  late : Option Nat := none
deriving DecidableEq, Repr

/-- A queue: on-chip head, ring, spill list, sequence count (R108, R110). -/
structure Queue where
  head : List QEntry := []
  ring : List QEntry := []
  spill : List QEntry := []
  seq : Nat := 0
  /-- Entries that have entered the ring: the next one stands in it at this count modulo QSIZE. -/
  put : Nat := 0
deriving DecidableEq, Repr

/-- What has changed in this clk and reaches its place in memory at the end of it (log entry 41): a word of a record (R105) or of a Yard
entry (R418), by its key; an entry of a queue's ring, by its position (R108), and the spilled entry of a record (R110); a sector of a
peer (R398). -/
inductive Dirty where
  | record (key : Nat)
  | yard (key : Nat)
  | ring (q pos : Nat)
  | spill (crid : Nat)
  /-- A sector of a peer's storage that has been written here: it goes out as a WRREQ (R398). -/
  | sector (key : Nat)
  /-- A sector of this package's storage to which an agent has stored: records that stand there change with it (R104). -/
  | stored (key : Nat)
deriving DecidableEq, Repr

/-- Who reads storage of another package: a control sequencer, an engine or the oldest load or DR word of a core, a copy job by its unit, a
collective by its CID, a hart, an interpreter. -/
inductive Reader where
  | ct (c : Nat)
  | eng (c : Nat) (e : Eng)
  | load (c : Nat)
  | drain (c : Nat)
  | job (n : Nat)
  | coll (cid : Nat)
  | hart (h : Nat)
  | interp (i : Nat)
deriving DecidableEq, Repr

/-- A sector of another package that a reader has asked for (R398): the TID of its RDREQ once that has left, and whether the RDRSP is here. -/
structure SecRead where
  reader : Reader
  key : Nat
  tid : Option Nat := none
  here : Bool := false
deriving DecidableEq, Repr

/-- A member of a team (R126). -/
structure Member where
  crid : Nat
  rank : Nat
  arrived : Bool := false
  /-- The member's save is written, and it waits for the rest of its gang. -/
  saved : Bool := false
  /-- The member has exited into a continuation. -/
  left : Bool := false
deriving DecidableEq, Repr

/-- A team (R126). -/
structure Team where
  id : Nat
  size : Nat
  joined : Nat
  phase : Nat := 0
  members : List Member := []
  byLaunch : Bool := false
  exposed : Bool := false
  bench : List Nat := []
  conts : List (Nat × Nat) := []
deriving DecidableEq, Repr

/-- A pre-emption under way (R138, R139): its number, the victim's members, its team (0 for a lone task), the clk at which DRAIN
expires. -/
structure Preempt where
  num : Nat
  team : Nat
  crids : List Nat
  /-- The members that have not stopped or exited since. -/
  left : List Nat
  /-- 0 DRAIN, 1 DISCARD, 2 SAVE. -/
  method : Nat
  expiry : Nat
  die : Nat
deriving DecidableEq, Repr

/-- A code object the loader has issued (R99 to R103). -/
structure CodeObj where
  id : Nat
  base : Nat
  pa : Nat
  isize : Nat
  kind : Nat
  live : Nat
  frame : Nat
  entries : List Nat
  nfe : Nat
  nma : Nat
  ndr : Nat
deriving DecidableEq, Repr

/-- A command-list entry that holds (R135): the entry, the PCC at its start, and of a LAUNCH the template once read, the records
created and the team; `note` says that a POOL notice has been posted for it. -/
structure ClHold where
  entry : ClEntry
  start : Nat
  img : List Word := []
  made : List Nat := []
  team : Nat := 0
  note : Bool := false
deriving DecidableEq, Repr

/-- A command-list interpreter (R132). -/
structure Interp where
  clh : Word := 0#64
  cli : Word := 0#64
  /-- 0 IDLE, 1 RUN, 2 ERR. -/
  st : Nat := 0
  err : Nat := 0
  errFault : Nat := 0
  errIdx : Nat := 0
  stack : List (Word × Word) := []
  /-- Launch slots: untriggered tasks of the latest launch. -/
  slots : List Nat := List.replicate 16 0
  pass : List (Word × Word) := []
  hold : Option ClHold := none
  busyTo : Nat := 0
deriving DecidableEq, Repr

/-! ## Copy jobs and collectives -/

/-- A tile-shape object (R336), as its twelve doublewords, with its owner: a team, or the task itself. -/
structure Shape where
  owner : Nat
  isTeam : Bool
  id : Nat
  w : List Word
deriving DecidableEq, Repr

/-- The footprint of a region (R349): the object, the version or draft number it resolves to, whether it counts as written, the least and
greatest index at each position. -/
structure Foot where
  key : Nat
  ver : Nat
  w : Bool
  lo : List Nat
  hi : List Nat
deriving DecidableEq, Repr

/-- A copy job (R331, R332). -/
structure Job where
  jid : Nat
  /-- Place in the order of acceptance of jobs and collectives (R177). -/
  ord : Nat
  crid : Nat
  team : Nat
  cls : Nat
  code : Nat
  core : Nat
  die : Nat
  card : List Word
  /-- Shapes copied at acceptance, one for each region. -/
  shapes : List (List Word)
  /-- Versions bound at acceptance, one for each region: 0 a draft or a Bench object, 2^32 a draft that has gone since. -/
  vers : List Nat
  foot : List Foot
  tdone : Nat
  st : Nat
  fcode : Nat := 0
  fdetail : Nat := 0
  felem : Nat := 0
  freg : Nat := 0
  /-- A POOL notice has been posted for the tile that waits for frames (R161, R426). -/
  poolNote : Bool := false
  /-- The task has exited, been discarded, or stands saved. -/
  orphan : Bool := false
deriving DecidableEq, Repr

/-- A collective of a local participant (R400 to R410). -/
structure Coll where
  cid : Nat
  /-- Place in the order of acceptance of jobs and collectives (R177). -/
  ord : Nat
  crid : Nat
  team : Nat
  cls : Nat
  code : Nat
  die : Nat
  /-- 0 CLAR, 1 CLMRG, 2 CLBC, 3 CLGATH. -/
  instr : Nat
  tag : Nat
  grp : Word
  grpVer : Nat
  src : Word
  /-- Version bound at acceptance: 0 the draft, 2^32 a draft that has gone since. -/
  srcVer : Nat
  dst : Word
  /-- The draft of the destination has gone since acceptance. -/
  dstGone : Bool := false
  root : Nat
  op : Nat
  rank : Nat
  /-- Package numbers of the members, in rank order. -/
  members : List Nat
  start : Nat
  foot : List Foot
  /-- The member's own contribution once it has been read and sent. -/
  own : Option (List Byte) := none
  /-- A notice has been posted for the access that waits. -/
  noted : Bool := false
  /-- The destination has been written, with what the status word is to say of it (R409); sectors of a peer may still be on their way. -/
  put : Option Nat := none
  /-- The status word once the collective has ended. -/
  status : Option Word := none
  /-- The task has exited. -/
  orphan : Bool := false
deriving DecidableEq, Repr

/-- What has arrived of a member's contribution to a collective (R401, R408): the group (GEN, HOME, LOCAL), the tag, the instruction, the
source package, the pieces by number. -/
structure Contrib where
  grp : Nat
  tag : Nat
  instr : Nat
  src : Nat
  pcs : Tbl (List Byte)
deriving DecidableEq, Repr

/-! ## Links, clusters, boot -/

/-- A Dilas port (R394 to R397). -/
structure Port where
  /-- 0 DOWN, 1 TRAINING, 2 LIVE, 3 DEAD. -/
  st : Nat := 1
  fails : Nat := 0
  seqTx : Nat := 0
  seqRx : Nat := 0
  naked : Bool := false
  unacked : List (List Byte) := []
  /-- Flits of a replay that have yet to leave again (R395). -/
  resend : List (List Byte) := []
  /-- DATA payloads that wait for a window place or an XON: (VC, payload) (R395). -/
  waitq : List (Nat × List Byte) := []
  rx : List (Nat × List Byte) := []
  xoffTx : List Bool := List.replicate 4 false
  xoffRx : List Bool := List.replicate 4 false
  replays : Nat := 0
  lastAck : Nat := 0
  lastGood : Nat := 0
  /-- The training of package reset is the last one that has begun (R397). -/
  first : Bool := true
  out : List (List Byte) := []
deriving DecidableEq, Repr

/-- A die governor (R451 to R454). -/
structure Gov where
  gtok : Nat := 0
  gbook : Nat := 0
  /-- Sections that hold a token: (core, engine). -/
  held : List (Nat × Nat) := []
  /-- Tokens that are free from the clk given. -/
  freed : List Nat := []
  /-- Requests: (clk, core, engine). -/
  reqs : List (Nat × Nat × Nat) := []
  books : List (Nat × Booking) := []
deriving DecidableEq, Repr

/-- A cluster's supply and ageing state (R455). -/
structure Cluster where
  margin : BitVec 16 := 0#16
  degr : Bool := false
  /-- The next sequence number of the cluster queue when DEGR was set: entries below it stood there before (R456). -/
  degrSeq : Nat := 0
  /-- What ways 6 and 7 of the instruction caches of the cluster hold: the record, the PA of the first byte and the bytes (R143). -/
  ways : List (Nat × Nat × Nat) := []
  /-- The protection words of those ways that failed when they were filled (R143). -/
  wayBad : List Nat := []
  /-- Fetch errors of prefetch (R143). -/
  fetchErrs : Nat := 0
  vcode : Nat := 100
  target : Nat := 100
deriving DecidableEq, Repr

/-- The boot ROM (R440 to R447). -/
structure Boot where
  step : Nat := 1
  running : Bool := true
  /-- PCC at which the ROM restarts after a failure. -/
  retryAt : Option Nat := none
  seq : Nat := 1
  tries : Nat := 0
  since : Nat := 0
  /-- TYPE of the request that is outstanding, 0 before the first DISCOVER has been sent, and the request itself. -/
  req : Nat := 0
  msg : List Byte := []
  /-- The source MAC address of discovery frames, made at the first of them (R442). -/
  mac : List Byte := []
  /-- The port of IO-A on which the OFFER came, which the session uses (R441). -/
  port : Nat := 0
  server : List Byte := []
  device : List Byte := []
  nonce : List Byte := []
  seed : List Byte := []
  pub : List Byte := []
  priv : List Byte := []
  ident : List Byte := []
  token : List Byte := []
  image : List Byte := []
  total : Option Nat := none
deriving DecidableEq, Repr

/-- What the responder says that it can do (R449): certificates, measurements with a signature, sessions, and a public key provisioned out of
band. -/
structure SpdmCaps where
  cert : Bool
  measSigned : Bool
  sessions : Bool
  keyOutOfBand : Bool
deriving DecidableEq, Repr

/-- Answers of the attestation responder (R449). -/
inductive SpdmAnswer where
  /-- The version supported, major and minor. -/
  | version (major minor : Nat)
  | capabilities (caps : SpdmCaps)
  /-- The extended algorithm entries, asymmetric and hash: the vendor's identifier and the algorithm. -/
  | algorithms (asym hash : List (BitVec 16 × Nat))
  | measurements (blocks : List (List Byte)) (signature : List Byte)
  /-- ERROR with its code. -/
  | error (code : Nat)
deriving DecidableEq, Repr

/-- A place whose stored bits can be upset (R457): a sector or word by its address, or in a sector whose store is on its way (R159); a word of
an L2; a 64-bit word of the vector file (512 * register + pair) or of the moment file (1024 * register + element), a word of a slot, a tile element. -/
inductive UpsetAt where
  | pa (pa : Nat) (way : Bool)
  /-- The word of the L2 of a die that holds the eight bytes at a PA. -/
  | l2 (die pa : Nat)
  | vec (core word : Nat)
  | mom (core word : Nat)
  | slot (core n off : Nat)
  | tile (core t el : Nat)
deriving DecidableEq, Repr

/-- Bits upset in storage: corrected, or beyond correction (R457). -/
structure Upset where
  at_ : UpsetAt
  fixed : Bool
deriving DecidableEq, Repr

/-- The whole package with what it sees of its domain. -/
structure State where
  /-- Happenings to take next, each with the number of its unit (log entry 1). -/
  agenda : List (Nat × Instr) := []
  /-- Agents still to move in this clk. -/
  turns : List Agent := []
  /-- The agent that takes the present step. -/
  agent : Agent := .clock
  /-- Counter of free values (log entry 2). -/
  fresh : Nat := 0
  pcc : Nat := 0
  mem : List Host.Cell := []
  /-- Addresses of poisoned 32-byte sectors (8-byte words of a Bench) (R457). -/
  poison : List Nat := []
  /-- Words of eight bytes that an L2 holds poisoned, as base addresses (R457). -/
  l2Poison : List Nat := []
  /-- Upsets of words of banks in Bivouac, met when their bank wakes (R457). -/
  sleepUps : List Upset := []
  /-- Yard words: (2^29 * home + local) * 16 + word. -/
  yard : Tbl Word := []
  flags : Tbl Word := []
  /-- Entry locks: key to hart. -/
  ylocks : Tbl Nat := []
  /-- The words of locked entries as they stood when the lock was taken (R421). -/
  seen : Tbl (List Word) := []
  /-- HHINVs not yet acknowledged: (hart, 64 where it did not hold the lock; key; clusters still to acknowledge, and 128 + p for package p
  of the domain) (R420, R422). -/
  invs : List (Nat × Nat × List Nat) := []
  /-- Page locks: address of the PTE, hart, old frame (R428). -/
  plocks : List (Nat × Nat × Nat) := []
  /-- Handle-cache lines: 128 * key + cluster to the sixteen words cached (R149). -/
  hcache : Tbl (List Word) := []
  /-- The lines of the handle caches in the order of their last use, the least recently used first (R149). -/
  hused : List Nat := []
  /-- Packages of the load-store domain. -/
  domain : List Nat := [0]
  /-- Upsets of stored bits that the hardware meets in the next clk: an input from outside (R457; log entry 46). -/
  upsets : List Upset := []
  /-- 2^16 * UNIT + INDEX to the PCC of the corrected error recorded last (R458). -/
  corrected : Tbl Nat := []
  cores : Tbl Core := []
  harts : Tbl Hart := []
  /-- Reservations of LR, by hart (R411). -/
  resvs : Tbl Resv := []
  /-- Continuation-record words: 8 * CRID + word (R105). -/
  crs : Tbl Word := []
  /-- Words and entries that have yet to reach memory (R105, R108, R110, R418). -/
  dirty : List Dirty := []
  saved : Tbl Core := []
  /-- The die on which a stopped task last ran. -/
  lastDie : Tbl Nat := []
  /-- Queue named when a WAITING record becomes runnable. -/
  target : Tbl Nat := []
  queues : Tbl Queue := []
  teams : Tbl Team := []
  preempts : List Preempt := []
  /-- Records of discarded teams made by LAUNCH that wait for a team index: (die, CRIDs) (R139). -/
  reteam : List (Nat × List Nat) := []
  codes : List CodeObj := []
  /-- The service image the Foreman installs: its address in view space (stvec), its PA, its size (R75). -/
  svcVec : Word := 0#64
  svcPa : Nat := 0
  svcSize : Nat := 0
  interps : Tbl Interp := []
  /-- Device registers without a behaviour of their own, by offset (R414). -/
  regs : Tbl Word := []
  /-- Device registers of the other packages of the domain, by 2^21 * package + offset (R412, R414; log entry 45). -/
  peerRegs : Tbl Word := []
  /-- By stack, and under 12 for all of them: clks in which sources whose accesses an L2 may serve could reach a channel (R439; log entry
19). -/
  noise : Tbl Nat := []
  /-- Granules of HBM4E that system cores have stored to through their caches since an uncached access last recalled them (R412, R439). -/
  dirtyGran : List Nat := []
  /-- Messages that have yet to leave: KIND, destination, second word, data (R398). -/
  outbox : List (Nat × Nat × Nat × List Byte) := []
  /-- Messages that wait for a live route, with the I/O die that is to send them (R399). -/
  unrouted : List (Nat × List Byte) := []
  /-- Merge slots of ABSENT notices: slot to (GEN, key, shard, version) (R432). -/
  merges : Tbl (Nat × Nat × Nat × Nat) := []
  ports : Tbl Port := []
  /-- Open transactions of the package: TID to (destination, sector address) (R398). -/
  trans : Tbl (Nat × Nat) := []
  /-- Sectors of other packages that are being read (R398). -/
  reads : List SecRead := []
  /-- (SRC, TID) already applied (R399). -/
  applied : List (Nat × Nat) := []
  /-- Sectors of pages whose PTE names no frame that a collective could not write: the PTE's place and the sector's number (R408). -/
  lostSecs : List (Nat × Nat) := []
  /-- Sectors whose stores were lost: 1 on a dead link, 2 by an uncorrectable error on the way (R159, R399). -/
  linkFail : Tbl Nat := []
  govs : Tbl Gov := []
  therm : Nat := 0
  /-- PCC since which every reading has been below THOT, and below TWARM (R453). -/
  belowHot : Option Nat := none
  belowWarm : Option Nat := none
  twarm : Nat := 65535
  thot : Nat := 65535
  ttrip : Nat := 65535
  /-- The package is held in reset (R440, R453). -/
  inReset : Bool := false
  clusters : Tbl Cluster := []
  shapes : List (Nat × Shape) := []
  jobs : List Job := []
  colls : List Coll := []
  contribs : List Contrib := []
  /-- Count of jobs and collectives accepted, and of link transactions begun. -/
  order : Nat := 0
  tids : Nat := 0
  bankq : List BankReq := []
  boot : Boot := {}
  /-- Frames and messages that the boot ROM has sent, with their port of IO-A (R441, R442). -/
  eth : List (Nat × List Byte) := []
  spdm : List SpdmAnswer := []
  cxlUp : Bool := false
  cxlBox : Tbl Word := []
  cxlBase : Nat := 0
  cxlSize : Nat := 0
  /-- Base and size of the HDM range that the Foreman has set and that come into force at the end of the clk (R450). -/
  hdmSet : Option (Nat × Nat) := none
  /-- Doublewords of the mailbox that the Foreman has written and that are seen from the end of the clk on (R450; log entry 9). -/
  boxSet : List (Nat × Word) := []
  /-- Memory of the host behind CXL.cache, as this package reads it (R450; log entry 9). -/
  hostMem : List Host.Cell := []
  /-- Pages of host memory that the Foreman fetches: address at the host, and place of the frame here (R433, R450; log entry 9). -/
  hostReqs : List (Nat × Nat) := []
  /-- Fetches that have ended: place of the frame, and 0 or the code LINKDEAD. -/
  hostDone : List (Nat × Nat) := []
  /-- Answers given to the host over CXL. -/
  cxlOut : List (List Byte) := []
  /-- WRREQs that a page lock holds: the place that each writes, the port and the message (R428). -/
  linkHeld : List (Nat × Nat × List Byte) := []
  /-- Host writes that a page lock holds (R428). -/
  cxlHeld : List (Nat × List Byte) := []
deriving DecidableEq, Repr

namespace State

def core (s : State) (c : Nat) : Core := Tbl.get {} s.cores c
def setCore (s : State) (c : Nat) (k : Core) : State := { s with cores := Tbl.put s.cores c k }
def modCore (s : State) (c : Nat) (f : Core → Core) : State := s.setCore c (f (s.core c))
def hart (s : State) (h : Nat) : Hart := Tbl.get {} s.harts h
def setHart (s : State) (h : Nat) (k : Hart) : State := { s with harts := Tbl.put s.harts h k }
def modHart (s : State) (h : Nat) (f : Hart → Hart) : State := s.setHart h (f (s.hart h))
def queue (s : State) (q : Nat) : Queue := Tbl.get {} s.queues q
def setQueue (s : State) (q : Nat) (k : Queue) : State := { s with queues := Tbl.put s.queues q k }
def interp (s : State) (i : Nat) : Interp := Tbl.get {} s.interps i
def setInterp (s : State) (i : Nat) (k : Interp) : State := { s with interps := Tbl.put s.interps i k }
def modInterp (s : State) (i : Nat) (f : Interp → Interp) : State := s.setInterp i (f (s.interp i))
def port (s : State) (p : Nat) : Port := Tbl.get {} s.ports p
def setPort (s : State) (p : Nat) (k : Port) : State := { s with ports := Tbl.put s.ports p k }
def gov (s : State) (d : Nat) : Gov := Tbl.get {} s.govs d
def setGov (s : State) (d : Nat) (k : Gov) : State := { s with govs := Tbl.put s.govs d k }
def cluster (s : State) (c : Nat) : Cluster := Tbl.get {} s.clusters c
def setCluster (s : State) (c : Nat) (k : Cluster) : State := { s with clusters := Tbl.put s.clusters c k }

/-- The number of the unit at which the present step takes place. -/
def unit (s : State) : Nat :=
  match s.agent with
  | .clock => 0
  | .arrays c => c
  | .seq c _ => c
  | .hart h => h
  | .interp i => i
  | .unit n => n

/-- The machine right after package reset (R42, R414, R440): the PCC 0, every port training, hart 0 of IO-A in the boot ROM
at step 1, every other hart held, nothing listed in memory. -/
def reset : State := { harts := [(0, { held := false })] }

end State

end Sys2Proof.Machine
end

