-- ==== Sys2Proof/Machine/Mem.lean ====
section
/-!
DEFINITION. Physical memory: the address map of R412, bytes and poison (R457), device-register storage (R414), link routes (R399),
frames and free rings (R425, R426), notices (R431, R432) and error records (R458).
-/

namespace Sys2Proof.Machine

/-! ## Device-register storage -/

/-- Reset values of the device registers that are not 0 (R107, R109, R414). -/
def regReset (off : Nat) : Word :=
  if 0x100 ≤ off ∧ off < 0x180 then 0x4000000#64
  else if 0x1000 ≤ off ∧ off < 0x1000 + 32 * 137 ∧ off % 32 = 16 then 0x100000#64
  else if off = 0x7000 ∨ off = 0x7008 then 0x40000000#64
  else if 0xE000 ≤ off ∧ off < 0xE200 then BitVec.allOnes 64
  else 0#64

namespace State

/-- The stored value of a device register. -/
def reg (s : State) (off : Nat) : Word := Tbl.get (regReset off) s.regs off

def regN (s : State) (off : Nat) : Nat := (s.reg off).toNat

def setReg (s : State) (off : Nat) (w : Word) : State := { s with regs := Tbl.put s.regs off w }

def bumpReg (s : State) (off : Nat) : State := s.setReg off (s.reg off + 1#64)

/-- PKGNUM (R414). -/
def pkg (s : State) : Nat := s.regN 0

/-- A device register of a package of the domain. -/
def preg (s : State) (p off : Nat) : Word := if p = s.pkg then s.reg off else Tbl.get (regReset off) s.peerRegs (2 ^ 21 * p + off)

def pregN (s : State) (p off : Nat) : Nat := (s.preg p off).toNat

def setPreg (s : State) (p off : Nat) (w : Word) : State :=
  if p = s.pkg then s.setReg off w else { s with peerRegs := Tbl.put s.peerRegs (2 ^ 21 * p + off) w }

def bumpPreg (s : State) (p off : Nat) : State := s.setPreg p off (s.preg p off + 1#64)

/-- A message is to leave for a package (R398). -/
def post (s : State) (kind dst second : Nat) (data : List Byte) : State := { s with outbox := s.outbox ++ [(kind, dst, second, data)] }

/-- A free Boolean; the counter advances (log entry 2). -/
def flip (s : State) : Bool × State := (Config.freeBool s.fresh, { s with fresh := s.fresh + 1 })

/-- A free word; the counter advances. -/
def draw (s : State) : Word × State := (Config.freeWord s.fresh, { s with fresh := s.fresh + 1 })

end State

/-! ## Physical addresses -/

/-- What a physical address names (R412). -/
inductive PaKind where
  | hbm | spoil
  | bench (die : Nat)
  | regs (off : Nat)
deriving DecidableEq, Repr

/-- A physical address read in the map: `pkg` is the peer package, none when the access is local; `key` is the place of its
bytes in memory. -/
structure PaRef where
  pkg : Option Nat
  kind : PaKind
  key : Nat
  uncached : Bool
deriving DecidableEq, Repr

/-- PA[43:0] read in the map of R412: the kind, the address with the alias bit removed, whether it is uncached. -/
def mapLow (low : Nat) : Option (PaKind × Nat × Bool) :=
  if low < 0x0C000000000 then some (.hbm, low, false)
  else if 0x10000000000 ≤ low ∧ low < 0x40000000000 then some (.spoil, low, false)
  else if 0x60000000000 ≤ low ∧ low < 0x60800000000 ∧ low % 2 ^ 32 < 2 ^ 25 then
    some (.bench ((low - 0x60000000000) / 2 ^ 32), low, true)
  else if 0x70000000000 ≤ low ∧ low < 0x70000040000 then some (.regs (low - 0x70000000000), low, true)
  else if 0x80000000000 ≤ low then
    let b := low - 0x80000000000
    if b < 0x0C000000000 then some (.hbm, b, true)
    else if 0x10000000000 ≤ b ∧ b < 0x40000000000 then some (.spoil, b, true)
    else none
  else none

/-- A 56-bit physical address (R412); none for any other PA. -/
def paRef (s : State) (pa : Nat) : Option PaRef :=
  let low := pa % 2 ^ 44
  let p := bitsOf pa 44 11
  if pa / 2 ^ 56 ≠ 0 then none
  else if !bitOf pa 55 && p != 0 then none
  else
    (mapLow low).map fun (k, a, u) =>
      if bitOf pa 55 && p != s.pkg then { pkg := some p, kind := k, key := 2 ^ 55 + p * 2 ^ 44 + a, uncached := true }
      else { pkg := none, kind := k, key := a, uncached := u }

/-- The key of a PA in the view of package `p` (tables of a peer hold the peer's own addresses). -/
def paKeyAt (s : State) (p pa : Nat) : Nat :=
  let pa := if bitOf pa 55 then pa else if p = s.pkg then pa else 2 ^ 55 + p * 2 ^ 44 + pa % 2 ^ 44
  let q := bitsOf pa 44 11
  if bitOf pa 55 && q = s.pkg then pa % 2 ^ 44 else pa % 2 ^ 56

/-- The package that holds a key, none when it is this package. -/
def keyPkg (key : Nat) : Option Nat := if bitOf key 55 then some (bitsOf key 44 11) else none

/-- Bytes of a protection word at a key (R457): 8 in a Bench, 32 elsewhere. -/
def protSize (key : Nat) : Nat :=
  let low := key % 2 ^ 44
  if 0x60000000000 ≤ low ∧ low < 0x60800000000 then 8 else 32

/-! ## Bytes -/

namespace State

def byte (s : State) (key : Nat) : Byte := Tbl.get 0#8 s.mem key

/-- `n` bytes from a key on. -/
def bytes (s : State) (key : Nat) : Nat → List Byte
  | 0 => []
  | n + 1 => s.byte key :: bytes s (key + 1) n

def num (s : State) (key n : Nat) : Nat := leNat (s.bytes key n)

end State

/-- Writes bytes into memory, keeping its canonical form. -/
def putBytes : List Host.Cell → Nat → List Byte → List Host.Cell
  | m, _, [] => m
  | m, key, b :: t => putBytes (Tbl.set 0#8 m key b) (key + 1) t

/-- The canonical form of memory: addresses strictly rise, and no byte equals what an unlisted address reads as. -/
def Memory.wf (m : List Host.Cell) : Bool := Tbl.sorted m && m.all fun e => e.2 != 0#8

/-- The protection words that `n` bytes at `key` touch, as base addresses. -/
def protWords (key n : Nat) : List Nat :=
  let z := protSize key
  if n = 0 then [] else (List.range ((key + n - 1) / z - key / z + 1)).map fun i => (key / z + i) * z

namespace State

/-- Is some byte of the span poisoned? -/
def poisoned (s : State) (key n : Nat) : Bool :=
  ((protWords key n).any fun p => s.poison.contains p) || s.l2Poison.any fun w => decide (w < key + n) && decide (key < w + 8)

/-- Writes bytes; a protection word wholly written loses its mark (R457). -/
def write (s : State) (key : Nat) (bs : List Byte) : State :=
  let n := bs.length
  let z := protSize key
  let poison :=
    if s.poison.isEmpty then s.poison
    else s.poison.filter fun p => !(decide (key ≤ p) && decide (p + z ≤ key + n))
  let l2 := s.l2Poison.filter fun w => !(decide (key ≤ w) && decide (w + 8 ≤ key + n))
  { s with mem := putBytes s.mem key bs, poison := poison, l2Poison := l2 }

def writeNum (s : State) (key n x : Nat) : State := s.write key (leBytes n x)

/-- Marks the protection words of a span. -/
def markPoison (s : State) (key n : Nat) : State :=
  { s with poison := (protWords key n).foldl (fun l p => if l.contains p then l else p :: l) s.poison }

/-- The sectors among the places of bytes stored: those of other packages go out as WRREQs at the end of the clk (R398); where a CR pool is
installed, records that stand in this package's change then (R104; log entry 41). -/
def noteRemote (s : State) (keys : List Nat) : State :=
  { s with dirty := keys.foldl (fun l k =>
      let d : Option Dirty := if bitOf k 55 then some (.sector (k / 32 * 32)) else if s.reg 0x20 != 0#64 then some (.stored (k / 32 * 32)) else none
      match d with
      | some d => if l.contains d then l else d :: l
      | none => l) s.dirty }

/-- Stores a run of bytes that reaches storage from outside the cores; a place of no frame takes nothing. -/
def storeSpan (s : State) (key : Nat) (bs : List Byte) : State :=
  if 2 ^ 56 ≤ key then s
  else (s.write key bs).noteRemote ((List.range ((key % 32 + bs.length + 31) / 32)).map fun i => key / 32 * 32 + 32 * i)

/-- The device has used its own tables in storage at a place: an access of its stack that an L2 may serve (R439; log entry 19). -/
def stir (s : State) (key : Nat) : State :=
  if key < 0x0C000000000 then { s with noise := Tbl.put s.noise (key / 2 ^ 36) (Tbl.get 0 s.noise (key / 2 ^ 36) + 1) } else s

/-! ## Routes -/

/-- The lowest-numbered live port through which package `p` is reached from I/O die `j` (R399). -/
def routePort (s : State) (j p : Nat) : Option Nat :=
  (List.range 32).find? fun k => bitOf (s.regN (0x20000 + 0x2000 * j + 4 * p)) k && (s.port k).st = 2

/-- Is there a live route to package `p`? -/
def liveRoute (s : State) (p : Nat) : Bool :=
  p = s.pkg || (s.routePort 0 p).isSome || (s.routePort 1 p).isSome

/-- Is there a live route to the storage of a key? -/
def keyLive (s : State) (key : Nat) : Bool :=
  match keyPkg key with
  | none => true
  | some p => s.liveRoute p

/-! ## Error records and notices -/

/-- Appends an error record, or drops it and counts (R458). -/
def postError (s : State) (typ un index addr : Nat) : State :=
  let size := s.regN 0xA008
  let head := s.regN 0xA010
  let tail := s.regN 0xA018
  if size = 0 ∨ (head + 2 ^ 64 - tail) % 2 ^ 64 ≥ size then s.bumpReg 0xA020
  else
    let key := paKeyAt s s.pkg (s.regN 0xA000 + 32 * (head % size))
    let rec_ := leBytes 8 s.pcc ++ leBytes 1 typ ++ leBytes 1 un ++ leBytes 2 index ++ leBytes 4 0 ++ leBytes 8 addr ++ leBytes 8 0
    ((s.write key rec_).stir key).bumpReg 0xA010

/-- A corrected error (R458): recorded, or counted when one of its UNIT and INDEX was recorded in the 2^20 clk before. -/
def noteCorrected (s : State) (un index addr : Nat) : State :=
  let k := un * 2 ^ 16 + index
  match Tbl.find s.corrected k with
  | some t =>
    if s.pcc < t + 2 ^ 20 then s.bumpReg (0xA100 + 8 * un)
    else { s.postError 1 un index addr with corrected := Tbl.put s.corrected k s.pcc }
  | none => { s.postError 1 un index addr with corrected := Tbl.put s.corrected k s.pcc }

/-- Posts a notice of two doublewords, or counts it in MRDROP (R431, R432). -/
def postNotice (s : State) (w0 w1 : Nat) : State :=
  let size := s.regN 0x6008
  let head := s.regN 0x6010
  let tail := s.regN 0x6018
  if size = 0 ∨ (head + 2 ^ 64 - tail) % 2 ^ 64 ≥ size then s.bumpReg 0x6028
  else
    let key := paKeyAt s s.pkg (s.regN 0x6000 + 16 * (head % size))
    ((s.write key (leBytes 8 w0 ++ leBytes 8 w1)).stir key).bumpReg 0x6010

/-- A copy or a table waits for a frame of package `p`: a POOL notice at that package (R426, R431; its message is log entry 16). -/
def postPool (s : State) (p : Nat) : State := if p = s.pkg then s.postNotice 2 0 else s.post 5 p 4 []

/-- Posts an ABSENT notice for (GEN, object, shard, version) unless a merge slot holds it (R432). -/
def postAbsent (s : State) (gen home loc shard ver : Nat) : State :=
  let e := (gen, home * 2 ^ 29 + loc, shard, ver)
  if s.merges.any fun m => m.2 = e then s
  else
    match (List.range 64).find? fun k => (Tbl.find s.merges k).isNone with
    | none => s.bumpReg 0x6028
    | some k =>
      let size := s.regN 0x6008
      let head := s.regN 0x6010
      if size = 0 ∨ (head + 2 ^ 64 - s.regN 0x6018) % 2 ^ 64 ≥ size then s.bumpReg 0x6028
      else
        let w0 := gen * 2 ^ 52 + home * 2 ^ 41 + loc * 2 ^ 12 + 1
        let w1 := shard % 2 ^ 16 * 2 ^ 48 + k * 2 ^ 40 + ver % 2 ^ 32
        { s with merges := Tbl.put s.merges k e }.postNotice w0 w1

/-- A MISSOBJ with detail 0x0002 posts its notice at the home: here, or by a YARD message there (R431; log entry 16). -/
def noteAt (s : State) (gen home loc shard ver : Nat) : State :=
  if home = s.pkg then s.postAbsent gen home loc shard ver
  else s.post 5 home 1 (leBytes 8 (gen * 2 ^ 52 + home * 2 ^ 41 + loc * 2 ^ 12 + 1) ++ leBytes 8 (shard % 2 ^ 16 * 2 ^ 48 + ver % 2 ^ 32))

/-! ## Frames -/

/-- First frame number of Spoil in the frame record table (R425). -/
def spoilFrame0 : Nat := 12582912

/-- PA[43:0] of an address that is local to package `p`: PA[55] = 0, or PA[55] = 1 with its own number (R412). -/
def localPa (p pa : Nat) : Option Nat :=
  if bitOf pa 55 then (if bitsOf pa 44 11 = p ∧ pa / 2 ^ 56 = 0 then some (pa % 2 ^ 44) else none)
  else if pa < 2 ^ 44 then some pa
  else none

/-- The package whose frame an address of package `p` names. -/
def paOwner (p pa : Nat) : Nat := if bitOf pa 55 then bitsOf pa 44 11 else p

/-- The index of a frame of package `p` in its frame record table; none for a PA that is no local frame there. -/
def frameIdx (p pa : Nat) : Option Nat :=
  match (localPa p pa).bind mapLow with
  | some (.hbm, a, false) => some (a / 65536)
  | some (.spoil, a, false) => some (spoilFrame0 + (a - 0x10000000000) / 65536)
  | _ => none

/-- The tier of a local frame of package `p`: 0 HBM4E, 1 Spoil. -/
def frameTier (p pa : Nat) : Option Nat :=
  match (localPa p pa).bind mapLow with
  | some (.hbm, _, false) => some 0
  | some (.spoil, _, false) => some 1
  | _ => none

/-- The head position of a free ring (log entry 6). -/
def ringHeadKey (t : Nat) : Nat := 0x100000 + t

/-- Appends a frame to the free ring of its tier at package `p`, or drops it and counts FDROP (R426). -/
def pushFrame (s : State) (p t pa : Nat) : State :=
  let b := 0x5000 + 64 * t
  let size := s.pregN p (b + 8)
  let cnt := s.pregN p (b + 24)
  if pa % 65536 ≠ 0 ∨ frameTier p pa ≠ some t ∨ size ≤ cnt then s.bumpPreg p (b + 32)
  else
    let pos := (s.pregN p (ringHeadKey t) + cnt) % size
    let k := paKeyAt s p (s.pregN p b + 8 * pos)
    ((s.writeNum k 8 pa).stir k).bumpPreg p (b + 24)

/-- Takes a frame from the head of a free ring of package `p` (R426). -/
def popFrame (s : State) (p t : Nat) : Option (Nat × State) :=
  let b := 0x5000 + 64 * t
  let size := s.pregN p (b + 8)
  let cnt := s.pregN p (b + 24)
  if size = 0 ∨ cnt = 0 then none
  else
    let h := s.pregN p (ringHeadKey t)
    let pa := s.num (paKeyAt s p (s.pregN p b + 8 * (h % size))) 8
    some (pa, (s.setPreg p (ringHeadKey t) (BitVec.ofNat 64 ((h + 1) % size))).setPreg p (b + 24) (BitVec.ofNat 64 (cnt - 1)))

/-- A frame of package `p` from its HBM4E ring, or from its Spoil ring when that is empty (R426). -/
def takeFrame (s : State) (p : Nat) : Option (Nat × State) :=
  match s.popFrame p 0 with
  | some r => some r
  | none => s.popFrame p 1

/-- The place of the record of the frame that an address of package `p` names, at the package that holds the frame (R425). -/
def refKey (s : State) (p pa : Nat) : Option Nat :=
  let q := paOwner p pa
  (frameIdx q pa).map fun f => paKeyAt s q (s.pregN q 0x18 + 8 * f)

/-- REF of a frame (R425). -/
def refOf (s : State) (p pa : Nat) : Nat :=
  match s.refKey p pa with
  | some k => s.num k 2
  | none => 0

/-- A PTE at package `p` comes to name the frame (R425). -/
def refAdd (s : State) (p pa : Nat) : State :=
  match s.refKey p pa with
  | none => s
  | some k =>
    let w := s.num k 8
    let s := s.stir k
    if bitsOf w 0 16 = 0xFFFF then s.writeNum k 8 (w - bitsOf w 16 1 * 65536 + 65536) else s.writeNum k 8 (w + 1)

/-- A PTE at package `p` stops naming the frame; a frame whose REF reaches 0 is freed to its tier's ring (R425). -/
def refSub (s : State) (p pa : Nat) : State :=
  let q := paOwner p pa
  match s.refKey p pa, frameTier q pa with
  | some k, some t =>
    let w := s.num k 8
    if bitOf w 16 ∨ bitsOf w 0 16 = 0 then s
    else
      let s' := (s.writeNum k 8 (w - 1)).stir k
      if bitsOf w 0 16 = 1 then s'.pushFrame q t (pa % 2 ^ 44 / 65536 * 65536) else s'
  | _, _ => s

end State

end Sys2Proof.Machine
end

