-- ==== Sys2Proof/Machine/Object.lean ====
section
/-!
DEFINITION. The handle unit (05): handles and Yard entries, layouts and placement (R146, R188 to R192), rights (R152 to R154),
versions, claims and pins (R155 to R157), page tables (R424) and the resolution of elements (R150).
-/

namespace Sys2Proof.Machine

/-! ## Fault codes (R39) -/

namespace FCode
def illop : Nat := 0x01
def regcold : Nat := 0x02
def wport : Nat := 0x03
def schedmiss : Nat := 0x04
def desync : Nat := 0x05
def negvar : Nat := 0x06
def missobj : Nat := 0x07
def rights : Nat := 0x08
def bounds : Nat := 0x09
def vergone : Nat := 0x0A
def align : Nat := 0x0B
def loopedit : Nat := 0x0C
def framefull : Nat := 0x0D
def resabsent : Nat := 0x0E
def accovf : Nat := 0x0F
def fmtbad : Nat := 0x10
def overlap : Nat := 0x11
def stagebad : Nat := 0x12
def linkdead : Nat := 0x13
def uncorr : Nat := 0x14
def fetcherr : Nat := 0x15
def teambad : Nat := 0x16
def deadline : Nat := 0x17
def preempt : Nat := 0x18
end FCode

/-- A fault found: code and detail. -/
structure Flt where
  code : Nat
  detail : Nat
deriving DecidableEq, Repr

/-- A result or a fault. -/
inductive Rs (α : Type) where
  | ok (a : α)
  | bad (f : Flt)
deriving Repr

/-! ## Handles (R144) -/

namespace Handle
def gen (h : Word) : Nat := fld h 52 12
def home (h : Word) : Nat := fld h 41 11
def loc (h : Word) : Nat := fld h 12 29
def att (h : Word) : Nat := fld h 8 4
/-- The key of the entry a handle names. -/
def key (h : Word) : Nat := home h * 2 ^ 29 + loc h
end Handle

/-! ## Yard entries (R146) -/

namespace State

def yw (s : State) (key w : Nat) : Word := Tbl.get 0#64 s.yard (16 * key + w)

def setYwRaw (s : State) (key w : Nat) (v : Word) : State :=
  { s with yard := Tbl.put s.yard (16 * key + w) v, dirty := .yard (16 * key + w) :: s.dirty }

/-- A word of an entry as the hardware sees it: what a YWR writes into a locked entry shows at the release, all together (R421). -/
def ew (s : State) (key w : Nat) : Word :=
  match Tbl.find s.seen key with
  | none => s.yw key w
  | some l => nth 0#64 l w

/-- A field of a locked entry as the hardware sees it, changed. -/
def showEw (s : State) (key w lo n v : Nat) : State :=
  match Tbl.find s.seen key with
  | none => s
  | some l => { s with seen := Tbl.put s.seen key (fillAt 0#64 l w (setFld (nth 0#64 l w) lo n v)) }

/-- The hardware changes a field of an entry: it shows at once. -/
def setEw (s : State) (key w lo n v : Nat) : State := (s.showEw key w lo n v).setYwRaw key w (setFld (s.yw key w) lo n v)

/-- The words of an entry as walks, translations and the steps at the home see them (R148, R149). -/
def entry (s : State) (key : Nat) : List Word := tab 16 fun w => s.ew key w

def curv (s : State) (key : Nat) : Nat := fld (s.ew key 4) 0 32
def pvs (s : State) (key : Nat) : List Nat := [fld (s.ew key 10) 0 32, fld (s.ew key 10) 32 32, fld (s.ew key 11) 0 32]
def hkind (s : State) (key : Nat) : Nat := fld (s.ew key 9) 30 2
def holder (s : State) (key : Nat) : Nat := fld (s.ew key 9) 32 32

/-- LIVEN: the number of live versions (R155, R421). -/
def liven (s : State) (key : Nat) : Nat :=
  ((s.curv key :: s.pvs key).filter (· != 0)).length + (if s.hkind key = 0 then 0 else 1)

/-- LIVEN of an entry as the release of its lock will show it. -/
def newLiven (s : State) (key : Nat) : Nat := ({ s with seen := Tbl.erase s.seen key } : State).liven key

/-- LIVEN written as hardware derives it (R421). -/
def fixLiven (s : State) (key : Nat) : State :=
  (s.showEw key 0 50 3 (s.liven key)).setYwRaw key 0 (setFld (s.yw key 0) 50 3 (s.newLiven key))

/-- LIVEN and OLDPIN written as hardware derives them when the versions or the claim have changed (R155, R421). -/
def fixEntry (s : State) (key : Nat) : State :=
  let s := s.fixLiven key
  let old := (s.pvs key).foldl (fun m v => if v != 0 && decide (v < m) then v else m) (s.curv key)
  s.setEw key 4 32 32 old

/-- The bits of a Yard word that are not reserved (R6, R146). -/
def ywFields (w : Nat) : Word :=
  match w with
  | 0 => 0xFFFFC0FF00000FFF#64
  | 3 => 0x00000000FFFFFFFF#64
  | 5 => 0xE000FFFF00000000#64
  | 8 => 0xFFFFFFFFFFFFF0FF#64
  | 9 => 0xFFFFFFFFC0000000#64
  | 11 => 0x00000000FFFFFFFF#64
  | _ => BitVec.allOnes 64

/-- Is a write of word 0 the creation of an object in the entry (R423)? -/
def creates (s : State) (key w : Nat) (v : Word) : Bool :=
  w == 0 && v.getLsbD 46 && (!(s.yw key 0).getLsbD 46 || fld (s.yw key 0) 0 12 != fld v 0 12)

/-- A YWR (R421): the word without its reserved bits; LIVEN stays derived, and the value of a flag that is created is 0 (R166). -/
def setYw (s : State) (key w : Nat) (v : Word) : State :=
  let s1 := if s.creates key w v then { s with flags := Tbl.erase s.flags key } else s
  (s1.setYwRaw key w (v &&& ywFields w)).fixLiven key

def setCurv (s : State) (key v : Nat) : State := s.setEw key 4 0 32 v

/-- Version in PV slot `i`. -/
def setPv (s : State) (key i v : Nat) : State :=
  if i < 2 then s.setEw key 10 (32 * i) 32 v else s.setEw key 11 0 32 v

/-- Pins of PV slot `i`, or of CURV for `i = 3` (word 12: PINC, PIN0; word 13: PIN1, PIN2). -/
def pinOf (s : State) (key i : Nat) : Nat :=
  if i = 3 then fld (s.ew key 12) 0 32
  else if i = 0 then fld (s.ew key 12) 32 32
  else if i = 1 then fld (s.ew key 13) 0 32
  else fld (s.ew key 13) 32 32

def setPin (s : State) (key i n : Nat) : State :=
  if i = 3 then s.setEw key 12 0 32 n
  else if i = 0 then s.setEw key 12 32 32 n
  else if i = 1 then s.setEw key 13 0 32 n
  else s.setEw key 13 32 32 n

/-- The place of a live published version: 3 for CURV, else its PV slot. -/
def verSlot (s : State) (key v : Nat) : Option Nat :=
  if v = 0 then none
  else if s.curv key = v then some 3
  else (List.range 3).find? fun i => nth 0 (s.pvs key) i = v

end State

/-! ## Layout -/

/-- The layout of an entry, from its words (R146). -/
structure Layout where
  fmt : Nat
  rank : Nat
  tord : Nat
  ext : List Nat
  saxis : Nat
  scount : Nat
  flg : Bool
  bench : Bool
  proot : Nat
  res : Nat
  smap : Word
  gen : Nat
  val : Bool
  home : Nat
deriving DecidableEq, Repr

/-- Element bits of a format code; 0 for a code that is no element format (R59). -/
def fmtBits (f : Nat) : Nat :=
  match f with
  | 0x00 | 0x01 | 0x02 => 8
  | 0x03 => 4
  | 0x04 => 16
  | 0x05 => 32
  | 0x06 => 64
  | 0x10 => 32
  | 0x11 | 0x12 => 16
  | 0x13 | 0x14 => 8
  | 0x20 | 0x21 => 8
  | 0x22 | 0x23 => 6
  | 0x24 => 4
  | 0x25 => 8
  | 0x30 => 64
  | 0x31 => 32
  | 0x40 => 128
  | 0x41 => 8
  | 0x42 => 16
  | _ => 0

def isMx (f : Nat) : Bool := 0x20 ≤ f && f ≤ 0x25
def isSmb (f : Nat) : Bool := f == 0x41 || f == 0x42
/-- Is the code listed in R59? -/
def fmtListed (f : Nat) : Bool := fmtBits f != 0 || f == 0x50 || f == 0x51

/-- The layout of an entry.  A flag has FLG = 1, FMT INT64, RANK 1 and E0 = 1 (R166); a Bench object has RES of shard 0 equal to 4,
SCOUNT = 1, REPL = 0 and DEDUP = 0 (R221). -/
def layoutOf (home : Nat) (e : List Word) : Layout :=
  let w := nth 0#64 e
  let rank := fld (w 0) 53 3
  { fmt := fld (w 0) 56 8, rank := rank, tord := fld (w 0) 32 8,
    ext := [fld (w 1) 0 32, fld (w 1) 32 32, fld (w 2) 0 32, fld (w 2) 32 32, fld (w 3) 0 32],
    saxis := fld (w 5) 61 3, scount := fld (w 5) 32 16
    flg := (w 0).getLsbD 47 && fld (w 0) 56 8 == 0x06 && rank == 1 && fld (w 1) 0 32 == 1
    bench := fld (w 7) 0 4 == 4 && fld (w 5) 32 16 == 1 && fld (w 8) 0 8 == 0 && !(w 0).getLsbD 48
    proot := fld (w 8) 12 52, res := (w 7).toNat, smap := w 6,
    gen := fld (w 0) 0 12, val := (w 0).getLsbD 46, home := home }

namespace Layout

def e (l : Layout) (p : Nat) : Nat := nth 0 l.ext p

/-- Do extents meet R189 to R191? -/
def extOk (l : Layout) (ext : List Nat) : Bool :=
  let e := nth 0 ext
  (if isMx l.fmt || isSmb l.fmt then l.tord == 3 || e (l.rank - 1) % 32 == 0 else true) &&
  (if l.tord == 1 || l.tord == 2 then 2 ≤ l.rank else true) &&
  (if l.tord == 3 then
    l.rank == 3 && e 0 == 2 && e 1 == 64 && (e 2 == 64 || e 2 == 128) && (l.fmt == 0x11 || l.fmt == 0x20 || l.fmt == 0x21)
   else true)

/-- Indices of one part of a sharded position (R147). -/
def part (l : Layout) : Nat := (l.e l.saxis + l.scount - 1) / l.scount

def sharded (l : Layout) : Bool := l.saxis < 5 && 1 < l.scount

/-- The shard that holds a tuple, and the tuple within it (R147, R192). -/
def shard (l : Layout) (t : List Nat) : Nat × List Nat :=
  if l.sharded then
    let i := nth 0 t l.saxis
    (i / l.part, setAt t l.saxis (i % l.part))
  else (0, t)

/-- The extents of a shard (R147, R192). -/
def shardExt (l : Layout) (sh : Nat) : List Nat :=
  if l.sharded then setAt l.ext l.saxis (min l.part (l.e l.saxis - sh * l.part)) else l.ext

/-- Is the layout usable (R146, R189 to R192)?  Where the whole object and its first shard meet R189 to R191, so does every shard. -/
def ok (l : Layout) : Bool :=
  fmtBits l.fmt != 0 && 1 ≤ l.rank && l.rank ≤ 5 && l.tord ≤ 3 &&
  (List.range 5).all (fun p => if p < l.rank then l.e p != 0 else l.e p == 0) && l.extOk l.ext && l.extOk (l.shardExt 0)

end Layout

/-- The linear index of a tuple for extents (R188). -/
def linear (rank : Nat) (ext t : List Nat) : Nat :=
  (List.range rank).foldl (fun n p => n * nth 0 ext p + nth 0 t p) 0

/-- The tuple of a linear index: the digits, the first position taking what overflows (R207). -/
def unlinear (rank : Nat) (ext : List Nat) (n : Nat) : List Nat :=
  let r := (List.range rank).foldl
    (fun (acc : List Nat × Nat) i =>
      let p := rank - 1 - i
      let e := nth 1 ext p
      if p = 0 then (setAt acc.1 0 acc.2, 0) else (setAt acc.1 p (acc.2 % e), acc.2 / e)) ([0, 0, 0, 0, 0], n)
  r.1

/-- The number of elements placed by an order, padding included (R190). -/
def placedCount (l : Layout) (ext : List Nat) : Nat :=
  let r := l.rank
  if l.tord = 1 ∨ l.tord = 2 then
    let h := if l.tord = 1 then 16 else 64
    let outer := (List.range (r - 2)).foldl (fun n p => n * nth 1 ext p) 1
    outer * roundUp (nth 0 ext (r - 2)) h * roundUp (nth 0 ext (r - 1)) 64
  else (List.range r).foldl (fun n p => n * nth 1 ext p) 1

/-- The index that placement counts: linear in NATURAL order, tile-ordered under R190. -/
def placeIndex (l : Layout) (ext t : List Nat) : Nat :=
  let r := l.rank
  if l.tord = 1 ∨ l.tord = 2 then
    let h := if l.tord = 1 then 16 else 64
    let outer := (List.range (r - 2)).foldl (fun n p => n * nth 1 ext p + nth 0 t p) 0
    let a := nth 0 t (r - 2)
    let b := nth 0 t (r - 1)
    let rows := roundUp (nth 0 ext (r - 2)) h / h
    let cols := roundUp (nth 0 ext (r - 1)) 64 / 64
    let tile := (outer * rows + a / h) * cols + b / 64
    64 * h * tile + (64 * (a % h) + b % 64)
  else linear r ext t

/-- Bytes of element data (R188, R189). -/
def dataBytes (l : Layout) (ext : List Nat) : Nat :=
  let n := placedCount l ext
  if l.fmt = 0x41 then (n + 31) / 32 * 16
  else if l.fmt = 0x42 then (n + 31) / 32 * 32
  else if fmtBits l.fmt = 6 then (n + 3) / 4 * 3
  else (n * fmtBits l.fmt + 7) / 8

/-- Bytes of a shard's storage, before rounding to pages (R188 to R191). -/
def shardBytes (l : Layout) (ext : List Nat) : Nat :=
  if l.tord = 3 ∧ isMx l.fmt then 130 * nth 0 ext 2 + nth 0 ext 2 / 32 * 64
  else if isMx l.fmt then roundUp (dataBytes l ext) 64 + placedCount l ext / 32
  else dataBytes l ext

/-- Bit offset of an element in its shard, and its bits (R188 to R191).  For an SMB object the offset of its block. -/
def elemBit (l : Layout) (ext t : List Nat) : Nat × Nat :=
  if l.tord = 3 ∧ isMx l.fmt then
    let d := nth 0 ext 2
    let off := (if nth 0 t 0 = 0 then 0 else 66 * d) + d * nth 0 t 1 + nth 0 t 2
    (8 * off, 8)
  else
    let n := placeIndex l ext t
    if l.fmt = 0x41 then (8 * (16 * (n / 32)), 128)
    else if l.fmt = 0x42 then (8 * (32 * (n / 32)), 256)
    else if fmtBits l.fmt = 6 then (24 * (n / 4) + 6 * (n % 4), 6)
    else (n * fmtBits l.fmt, fmtBits l.fmt)

/-- Byte offset of the E8M0 scale of an element in its shard (R189, R191). -/
def scaleByte (l : Layout) (ext t : List Nat) : Nat :=
  if l.tord = 3 then
    let d := nth 0 ext 2
    let tk := nth 0 t 1
    let c := nth 0 t 2
    if nth 0 t 0 = 0 then 64 * d + 2 * c + tk / 32 else 130 * d + d / 32 * tk + c / 32
  else roundUp (dataBytes l ext) 64 + placeIndex l ext t / 32

/-- Pages of one shard. -/
def shardPages (l : Layout) (sh : Nat) : Nat := (shardBytes l (l.shardExt sh) + 65535) / 65536

/-- Pages of the shards before `sh` (R192). -/
def pagesBefore (l : Layout) (sh : Nat) : Nat := (List.range sh).foldl (fun n i => n + shardPages l i) 0

/-- Pages of the whole object. -/
def objPages (l : Layout) : Nat := pagesBefore l (if l.sharded then l.scount else 1)

/-! ## Principals and rights (R152 to R154) -/

/-- Who makes an access. -/
structure Principal where
  crid : Nat
  team : Nat
  cls : Nat
  code : Nat
  /-- The die it runs on; none for a unit that no die limit binds. -/
  die : Option Nat
  /-- The cluster whose handle cache it uses. -/
  cluster : Option Nat
deriving DecidableEq, Repr

namespace Right
def read : Nat := 1
def write : Nat := 2
def publish : Nat := 4
def hand : Nat := 8
end Right

/-- Does a rights-list entry name the principal (R153)? -/
def rlMatch (pr : Principal) (e : Nat) : Bool :=
  bitOf e 31 &&
  (match bitsOf e 24 3 with
   | 0 => true
   | 1 => bitsOf e 0 24 == pr.cls
   | 2 => bitsOf e 0 24 == pr.code
   | 3 => pr.team != 0 && bitsOf e 0 24 == pr.team
   | _ => false)

/-- The four rights-list entries of a Yard entry. -/
def rightsList (e : List Word) : List Nat :=
  [fld (nth 0#64 e 14) 0 32, fld (nth 0#64 e 14) 32 32, fld (nth 0#64 e 15) 0 32, fld (nth 0#64 e 15) 32 32]

/-- The effective rights of a principal through a handle (R154). -/
def effRights (pr : Principal) (h : Word) (e : List Word) : Nat :=
  let granted := (rightsList e).foldl (fun r x => if rlMatch pr x then r ||| bitsOf x 27 4 else r) 0
  Handle.att h &&& granted

/-- The rights missing, as the detail of R150. -/
def missing (have_ need : Nat) : Nat := need - (have_ &&& need)

namespace State

/-- The line of the principal's handle cache for a handle (R149): a line of another GEN is no hit. -/
def cacheLine (s : State) (pr : Principal) (h : Word) : Option (List Word) :=
  match pr.cluster with
  | none => none
  | some c => (Tbl.find s.hcache (128 * Handle.key h + c)).filter fun l => fld (nth 0#64 l 0) 0 12 == Handle.gen h

/-- Does a handle cache hold the entry for the principal? -/
def cached (s : State) (pr : Principal) (h : Word) : Bool := (s.cacheLine pr h).isSome

/-- The words that resolution uses for layout and residency: the handle cache's copy, or the entry (R149). -/
def layoutWords (s : State) (pr : Principal) (h : Word) : List Word := (s.cacheLine pr h).getD (s.entry (Handle.key h))

/-- May a resolution begin: the entry is cached, or not locked (R149, R420)? -/
def walkReady (s : State) (pr : Principal) (h : Word) : Bool := (Tbl.find s.ylocks (Handle.key h)).isNone || s.cached pr h

/-- Is the handle well formed, its home a package of the domain, and its LOCAL below YCOUNT there (R145)? -/
def handleForm (s : State) (h : Word) : Bool :=
  fld h 0 8 == 0 && Handle.loc h != 0 && s.domain.contains (Handle.home h) && decide (Handle.loc h < s.pregN (Handle.home h) 0x10)

/-- The handle checks (R145, R149, R150): LINKDEAD for an entry that a walk cannot read, and the layout. -/
def lookup (s : State) (pr : Principal) (h : Word) : Rs Layout :=
  if !s.handleForm h then .bad ⟨FCode.missobj, 1⟩
  else if !s.liveRoute (Handle.home h) && !s.cached pr h then .bad ⟨FCode.linkdead, 0⟩
  else
    let l := layoutOf (Handle.home h) (s.layoutWords pr h)
    if !l.val || l.gen != Handle.gen h then .bad ⟨FCode.missobj, 1⟩
    else if l.ok then .ok l else .bad ⟨FCode.fmtbad, 3⟩

/-- The handle checks of an operation that reads or changes versions, pins or claims at the home: a cached copy does not serve where no live
route leads there (R149, R399). -/
def lookupHome (s : State) (pr : Principal) (h : Word) : Rs Layout :=
  match s.lookup pr h with
  | .bad f => .bad f
  | .ok l => if s.liveRoute (Handle.home h) then .ok l else .bad ⟨FCode.linkdead, 0⟩

/-- Is the entry that a handle names locked (R420)? -/
def entryLocked (s : State) (h : Word) : Bool := (Tbl.find s.ylocks (Handle.key h)).isSome

/-- Rights of the principal through the handle, read at the entry. -/
def rightsOf (s : State) (pr : Principal) (h : Word) : Nat := effRights pr h (s.entry (Handle.key h))

/-- The die of a Bench object (R221). -/
def benchDie (l : Layout) : Nat := l.proot * 4096 / 2 ^ 40

/-- Does a Bench object lie on the principal's own die (R224)? -/
def benchHere (s : State) (pr : Principal) (l : Layout) : Bool :=
  pr.die == none || (l.home == s.pkg && pr.die == some (benchDie l))

/-- The rights check of an access: flags (R166), then missing rights (R150, R154), then the Bench's die (R224), in the order of R356. -/
def checkRights (s : State) (pr : Principal) (h : Word) (l : Layout) (need : Nat) (flagOp : Bool) : Option Flt :=
  if l.flg != flagOp then some ⟨FCode.rights, 0x20⟩
  else
    let m := missing (s.rightsOf pr h) need
    if m != 0 then some ⟨FCode.rights, m⟩
    else if l.bench && !s.benchHere pr l then some ⟨FCode.rights, 0x42⟩
    else none

/-- Does the principal hold the claim: its task, or its team (R156, R157)? -/
def holds (s : State) (pr : Principal) (key : Nat) : Bool :=
  (s.hkind key == 1 && s.holder key == pr.crid) || (s.hkind key == 2 && pr.team != 0 && s.holder key == pr.team)

end State

/-- The version an access names. -/
inductive VSel where
  | ver (v : Nat)
  | draft
  | live
  /-- A draft that has been discarded (R187). -/
  | gone
deriving DecidableEq, Repr

namespace State

/-- The version check of an access (VERGONE details of R150). -/
def checkVer (s : State) (pr : Principal) (key : Nat) (l : Layout) (v : VSel) : Option Flt :=
  if l.bench then none
  else
    match v with
    | .live => none
    | .gone => some ⟨FCode.vergone, 2⟩
    | .draft => if s.holds pr key then none else some ⟨FCode.vergone, 2⟩
    | .ver n =>
      if (s.verSlot key n).isSome then none
      else if s.curv key < n then some ⟨FCode.vergone, 3⟩
      else some ⟨FCode.vergone, 1⟩

/-- The number under which a version's tables stand in the root block (R424). -/
def verNum (s : State) (key : Nat) (v : VSel) : Nat :=
  match v with
  | .ver n => n
  | .draft => s.curv key + 1
  | .live | .gone => s.curv key

/-! ## Page tables (R424) -/

/-- Does a PTE name a frame: TIER 1, 2 or 3 (R424)?  Of any other, bits [55:16] are not read. -/
def pteTier (pte : Nat) : Bool := bitsOf pte 0 4 == 1 || bitsOf pte 0 4 == 2 || bitsOf pte 0 4 == 3

/-- The 16-byte entry of a shard in the shard map's storage (R147): the map's home, its first page table, its version. -/
def mapEntry (s : State) (home base ver sh : Nat) : Nat :=
  let root := paKeyAt s home base
  match (List.range 4).find? fun k => s.num (root + 16 * k) 4 = ver with
  | none => 0
  | some k =>
    let dir := paKeyAt s home (s.num (root + 16 * k + 8) 8)
    let n := 16 * sh / 65536
    let leaf := paKeyAt s home (s.num (dir + 8 * (n / 8192)) 8)
    let pte := s.num (leaf + 8 * (n % 8192)) 8
    if pteTier pte then s.num (paKeyAt s home (bitsOf pte 16 40 * 65536) + 16 * sh % 65536) 16 else 5 * 2 ^ 76

/-- The key of the root block of a shard, with the package that holds it. -/
def rootKey (s : State) (l : Layout) (sh : Nat) : Nat × Nat :=
  if l.scount > 16 ∧ l.sharded then
    let sm := layoutOf (Handle.home l.smap) (s.entry (Handle.key l.smap))
    -- the shard map is an unsharded object of 16-byte entries (R147)
    let base := sm.proot * 4096
    let at_ := s.mapEntry sm.home base (s.curv (Handle.key l.smap)) sh
    (paKeyAt s (bitsOf at_ 64 11) (at_ % 2 ^ 64), bitsOf at_ 64 11)
  else (paKeyAt s l.home (l.proot * 4096), l.home)

/-- The page number within its root block: with a shard map each shard has its own root, otherwise pages are counted across
the shards (log entry 13). -/
def rootPage (l : Layout) (sh page : Nat) : Nat :=
  if l.scount > 16 ∧ l.sharded then page - pagesBefore l sh else page

/-- The shard of a page of the object. -/
def pageShard (l : Layout) (page : Nat) : Nat :=
  if l.sharded then ((List.range l.scount).find? fun i => decide (page < pagesBefore l (i + 1))).getD 0 else 0

/-- Slot of a version in a root block. -/
def rootSlot (s : State) (root ver : Nat) : Option Nat :=
  if ver = 0 then none else (List.range 4).find? fun k => s.num (root + 16 * k) 4 = ver

/-- The key of the PTE of a page in a version. -/
def pteKey (s : State) (l : Layout) (ver page : Nat) : Option (Nat × Nat) :=
  let sh := pageShard l page
  let (root, p) := s.rootKey l sh
  match s.rootSlot root ver with
  | none => none
  | some k =>
    let n := rootPage l sh page
    let dir := paKeyAt s p (s.num (root + 16 * k + 8) 8)
    let leaf := paKeyAt s p (s.num (dir + 8 * (n / 8192)) 8)
    some (leaf + 8 * (n % 8192), p)

/-- The residency code of a shard (R147, R427). -/
def shardRes (s : State) (l : Layout) (sh : Nat) : Nat :=
  if l.scount > 16 ∧ l.sharded then
    let sm := layoutOf (Handle.home l.smap) (s.entry (Handle.key l.smap))
    bitsOf (s.mapEntry sm.home (sm.proot * 4096) (s.curv (Handle.key l.smap)) sh) 76 4
  else bitsOf l.res (4 * sh) 4

/-- Where a page of an object stands: its key, or the fault that finds it absent or without a route (R427, R399). -/
def pageKey (s : State) (key : Nat) (l : Layout) (v : VSel) (page : Nat) : Rs Nat :=
  if l.bench then
    .ok (paKeyAt s l.home (0x60000000000 + benchDie l * 2 ^ 32 + l.proot * 4096 % 2 ^ 40 + 65536 * page))
  else
    match s.pteKey l (s.verNum key v) page with
    | none => .bad ⟨FCode.missobj, 2⟩
    | some (pk, p) =>
      let pte := s.num pk 8
      let tier := bitsOf pte 0 4
      if s.shardRes l (pageShard l page) = 5 then .bad ⟨FCode.missobj, 2⟩
      else if tier = 1 ∨ tier = 2 ∨ tier = 3 then
        let k := paKeyAt s p (bitsOf pte 16 40 * 65536)
        if s.keyLive k then .ok k else .bad ⟨FCode.linkdead, 0⟩
      else .bad ⟨FCode.missobj, 2⟩

/-- The place of a byte of the storage of an object, by the tables of its latest version; none where it is not there. -/
def storeKey (s : State) (h : Word) (off : Nat) : Option Nat :=
  let key := Handle.key h
  let l := layoutOf (Handle.home h) (s.entry key)
  if h = 0#64 ∨ !l.val then none
  else
    match s.pageKey key l .live (off / 65536) with
    | .ok k => some (k + off % 65536)
    | .bad _ => none

/-- The lowest index position at or beyond its extent (BOUNDS of R150). -/
def outOf (l : Layout) (t : List Nat) : Option Nat :=
  (List.range l.rank).find? fun p => decide (l.e p ≤ nth 0 t p)

/-- The place of an element: key of its first byte, bit within it, and bits. -/
structure Place where
  key : Nat
  bit : Nat
  bits : Nat
  page : Nat
deriving DecidableEq, Repr

/-- Is a page of a version ABSENT: its shard's RES is 5, or its PTE has TIER 5 (R427)? -/
def pageAbsent (s : State) (key : Nat) (l : Layout) (v : VSel) (page : Nat) : Bool :=
  !l.bench && (s.shardRes l (pageShard l page) == 5 ||
    (match s.pteKey l (s.verNum key v) page with
     | some (pk, _) => bitsOf (s.num pk 8) 0 4 == 5
     | none => false))

/-- The bit offset of an element in the storage of its object, and its bits (R188 to R192). -/
def elemOff (l : Layout) (t : List Nat) : Nat × Nat :=
  let (sh, t') := l.shard t
  let e := elemBit l (l.shardExt sh) t'
  (pagesBefore l sh * 65536 * 8 + e.1, e.2)

/-- resolve(h, idx, acc) of R69 for an entry already looked up: the checks of R150 in their order, then the place. An index
beyond an extent lies in no shard, so it is no access to an ABSENT one (log entry 47). -/
def resolve (s : State) (pr : Principal) (h : Word) (l : Layout) (t : List Nat) (need : Nat) (v : VSel) : Rs Place :=
  let key := Handle.key h
  let oob := outOf l t
  let (bo, bits) := elemOff l t
  let off := bo / 8
  if oob = none ∧ s.pageAbsent key l v (off / 65536) then .bad ⟨FCode.missobj, 2⟩
  else
    match s.checkRights pr h l need false with
    | some f => .bad f
    | none =>
      match oob with
      | some p => .bad ⟨FCode.bounds, p⟩
      | none =>
        match s.checkVer pr key l v with
        | some f => .bad f
        | none =>
          match s.pageKey key l v (off / 65536) with
          | .bad f => .bad f
          | .ok k => .ok { key := k + off % 65536, bit := bo % 8, bits := bits, page := off / 65536 }

/-- lookup for the access of an element, whose tuple `at_` gives from the layout: of an unusable layout too, MISSOBJ comes first where the
element's shard is ABSENT (R69, R150); an index beyond the extent has no shard of its own, and is in one where all are (log entry 47). -/
def lookupEl (s : State) (pr : Principal) (h : Word) (at_ : Layout → List Nat) : Rs Layout :=
  match s.lookup pr h with
  | .ok l => .ok l
  | .bad f =>
    let l := layoutOf (Handle.home h) (s.layoutWords pr h)
    let t := at_ l
    let own := decide (nth 0 t l.saxis < l.e l.saxis) && s.shardRes l (l.shard t).1 == 5
    if f.code = FCode.fmtbad ∧ !l.bench ∧ (own ∨ (List.range (max 1 l.scount)).all fun sh => s.shardRes l sh == 5) then .bad ⟨FCode.missobj, 2⟩
    else .bad f

/-- The place of the MX scale byte of an element whose place has been resolved. -/
def scalePlace (s : State) (key : Nat) (l : Layout) (t : List Nat) (v : VSel) : Rs Place :=
  let (sh, t') := l.shard t
  let off := pagesBefore l sh * 65536 + scaleByte l (l.shardExt sh) t'
  match s.pageKey key l v (off / 65536) with
  | .bad f => .bad f
  | .ok k => .ok { key := k + off % 65536, bit := 0, bits := 8, page := off / 65536 }

/-- The bits at a place. -/
def readPlace (s : State) (p : Place) : Nat := bitsOf (s.num p.key ((p.bit + p.bits + 7) / 8)) p.bit p.bits

/-- Is a byte of the place poisoned? -/
def placePoisoned (s : State) (p : Place) : Bool := s.poisoned p.key ((p.bit + p.bits + 7) / 8)

/-! ## Drafts: own pages (R157, R425) -/

/-- The home agent and hart that lock the frame of a PTE, if any (R428). -/
def pageLocked (s : State) (k : Nat) : Bool := s.plocks.any fun x => x.2.2 = k / 65536 * 65536

/-- Does the PTE of a draft's page name a frame that something else names too: by the frame's record, or because the current version's
PTE names it (R157, R425)? -/
def sharedPage (s : State) (key : Nat) (l : Layout) (page p fr : Nat) : Bool :=
  decide (1 < s.refOf p fr) ||
    (match s.pteKey l (s.curv key) page with
     | some (pk, _) => pteTier (s.num pk 8) && bitsOf (s.num pk 8) 16 40 * 65536 == fr
     | none => false)

/-- Gives the draft its own copy of a page that other versions share: none while a store must wait for a frame (a POOL notice is
posted by the caller) (R157, R425, R426).  The copy stands in a frame of the package that holds the page's table, and is
clean of poison (log entry 47). -/
def ownPage (s : State) (key : Nat) (l : Layout) (page : Nat) : Option State :=
  if l.bench then some s
  else
    match s.pteKey l (s.curv key + 1) page with
    | none => some s
    | some (pk, p) =>
      let fr := bitsOf (s.num pk 8) 16 40 * 65536
      if !s.sharedPage key l page p fr then some s
      else
        match s.takeFrame p with
        | none => none
        | some (nf, s1) =>
          let s2 := s1.write (paKeyAt s p nf) (s1.bytes (paKeyAt s p fr) 65536)
          let tier := if frameTier p nf = some 1 then 2 else 1
          some (((s2.writeNum pk 8 (nf / 65536 * 65536 + tier)).refAdd p nf).refSub p fr)

/-- Writes the bits of a place. -/
def writePlace (s : State) (p : Place) (x : Nat) : State :=
  if p.bit = 0 ∧ p.bits % 8 = 0 then s.writeNum p.key (p.bits / 8) x
  else
    let n := (p.bit + p.bits + 7) / 8
    let old := s.num p.key n
    s.writeNum p.key n (old - bitsOf old p.bit p.bits * 2 ^ p.bit + x % 2 ^ p.bits * 2 ^ p.bit)

/-- Stores the bits of a place; the sectors of a peer that it touches go out as messages (R398). -/
def storePlace (s : State) (p : Place) (x : Nat) : State :=
  (s.writePlace p x).noteRemote [p.key, p.key + (p.bit + p.bits + 7) / 8 - 1]

/-! ## Pins, retirement, claims -/

/-- The roots of an object's page tables (R424): of each, the first page of the object that it holds and the number of its pages.  With a
shard map each shard has its own root; otherwise shard 0's root holds every page (log entry 13). -/
def roots (l : Layout) : List (Nat × Nat) :=
  if l.scount > 16 ∧ l.sharded then (List.range l.scount).map fun sh => (pagesBefore l sh, shardPages l sh) else [(0, objPages l)]

/-- The pages of a root whose PTE of a version names a frame, with that frame, and the package that holds the root. -/
def rootFrames (s : State) (l : Layout) (ver : Nat) (r : Nat × Nat) : List (Nat × Nat) :=
  (List.range r.2).filterMap fun i =>
    match s.pteKey l ver (r.1 + i) with
    | none => none
    | some (pk, p) =>
      let pte := s.num pk 8
      let t := bitsOf pte 0 4
      if t = 1 ∨ t = 2 ∨ t = 3 then some (p, bitsOf pte 16 40 * 65536) else none

/-- Frees a table frame of package `p` to its tier's ring. -/
def freeTable (s : State) (p pa : Nat) : State :=
  let k := paKeyAt s p pa
  let s := { s with lostSecs := s.lostSecs.filter fun e => e.1 / 65536 != k / 65536 }
  match frameTier p pa with
  | some t => s.pushFrame p t pa
  | none => s

/-- Frees the tables of a version of one root, and REF of what they name (R155, R424, R425). -/
def freeRoot (s : State) (l : Layout) (ver : Nat) (r : Nat × Nat) : State :=
  let (root, p) := s.rootKey l (pageShard l r.1)
  match s.rootSlot root ver with
  | none => s
  | some k =>
    let s1 := (s.rootFrames l ver r).foldl (fun s f => s.refSub f.1 f.2) s
    let dirPa := s1.num (root + 16 * k + 8) 8
    let leaves := tab ((r.2 + 8191) / 8192) fun i => s1.num (paKeyAt s1 p dirPa + 8 * i) 8
    ((leaves.foldl (fun s pa => s.freeTable p pa) s1).freeTable p dirPa).writeNum (root + 16 * k) 16 0

/-- Frees the tables of a version of every root (R155, R424, R425). -/
def freeTables (s : State) (l : Layout) (ver : Nat) : State := (roots l).foldl (fun s r => s.freeRoot l ver r) s

/-- Retires a published version that is not CURV (R155). -/
def retire (s : State) (key ver : Nat) : State :=
  match (List.range 3).find? fun i => nth 0 (s.pvs key) i = ver with
  | none => s
  | some i =>
    let l := layoutOf (key / 2 ^ 29) (s.entry key)
    (((s.setPv key i 0).setPin key i 0).fixEntry key).freeTables l ver

/-- One more pin on a live version; none when it is not live or its count is full (R164). -/
def pin (s : State) (key ver : Nat) : Option State :=
  match s.verSlot key ver with
  | none => none
  | some i => if s.pinOf key i = 2 ^ 32 - 1 then none else some (s.setPin key i (s.pinOf key i + 1))

/-- One pin less; a version other than CURV whose count falls to 0 retires (R155).  A Bench object's pins have no effect
(R223). -/
def unpin (s : State) (key ver : Nat) : State :=
  match s.verSlot key ver with
  | none => s
  | some i =>
    let n := s.pinOf key i - 1
    let s1 := s.setPin key i n
    if n = 0 ∧ i ≠ 3 then s1.retire key ver else s1

/-- Takes `n` frames of package `p`. -/
def takeFrames (s : State) (p : Nat) : Nat → Option (List Nat × State)
  | 0 => some ([], s)
  | n + 1 =>
    match s.takeFrame p with
    | none => none
    | some (f, s1) => (takeFrames s1 p n).map fun r => (f :: r.1, r.2)

/-- Fills a slot of one root with a copy of CURV's tables for the draft CURV + 1: a directory and leaves in new frames; every frame named
gains one REF (R424, R425).  None when no frames are to be had.  A root block that holds no tables of CURV, or no free slot, is left as it
is (log entry 43). -/
def openRoot (s : State) (key : Nat) (l : Layout) (r : Nat × Nat) : Option State :=
  let (root, p) := s.rootKey l (pageShard l r.1)
  match s.rootSlot root (s.curv key), (List.range 4).find? fun k => s.num (root + 16 * k) 4 = 0 with
  | some k, some k' =>
    match s.takeFrames p (1 + (r.2 + 8191) / 8192) with
    | none => none
    | some (fs, s1) =>
      let dirPa := nth 0 fs 0
      let dir := paKeyAt s1 p dirPa
      let leaves := fs.drop 1
      let oldDir := paKeyAt s1 p (s1.num (root + 16 * k + 8) 8)
      let s2 := s1.write dir (List.replicate 65536 0#8)
      let s3 := (List.range leaves.length).foldl (fun s i =>
        let oldLeaf := paKeyAt s p (s.num (oldDir + 8 * i) 8)
        let nl := nth 0 leaves i
        (s.write (paKeyAt s p nl) (s.bytes oldLeaf 65536)).writeNum (dir + 8 * i) 8 nl) s2
      let s4 := (s3.writeNum (root + 16 * k') 8 (s.curv key + 1)).writeNum (root + 16 * k' + 8) 8 dirPa
      some ((s4.rootFrames l (s.curv key + 1) r).foldl (fun s f => s.refAdd f.1 f.2) s4)
  | _, _ => some s

/-- Opens the draft CURV + 1 in every root (R157, R424); none, with nothing opened, when no frames are to be had. -/
def openDraft (s : State) (key : Nat) (l : Layout) : Option State :=
  (roots l).foldl (fun o r => o.bind fun s => s.openRoot key l r) (some s)

/-- Clears the claim and discards its draft (R156). -/
def discardDraft (s : State) (key : Nat) : State :=
  let l := layoutOf (key / 2 ^ 29) (s.entry key)
  let s1 := s.freeTables l (s.curv key + 1)
  (s1.setEw key 9 0 64 0).fixEntry key

/-- The publish of a draft, one step at the home (R162): CURV retires or moves into an empty PV slot, and the claim is cleared.
Every view and descriptor of the draft is rebound by the callers. -/
def publish (s : State) (key : Nat) : State :=
  let l := layoutOf (key / 2 ^ 29) (s.entry key)
  let old := s.curv key
  let pins := s.pinOf key 3
  let s1 :=
    if pins = 0 then s.freeTables l old
    else
      match (List.range 3).find? fun i => nth 0 (s.pvs key) i = 0 with
      | some i => (s.setPv key i old).setPin key i pins
      | none => s
  (((s1.setCurv key (old + 1)).setPin key 3 0).setEw key 9 0 64 0).fixEntry key

end State

end Sys2Proof.Machine
end

