-- ==== Sys2Proof/Machine/Regs.lean ====
section
/-!
DEFINITION. The engines of a core by name and number, the x registers of a control sequencer, and the retiring of an instruction (R72).
-/

namespace Sys2Proof.Machine

/-! ## Cores and their engines -/

namespace Core

def eng (k : Core) : Eng → EngSt
  | .fe => k.fe
  | .ma => k.ma
  | .dr => k.dr

def setEng (k : Core) (e : Eng) (g : EngSt) : Core :=
  match e with
  | .fe => { k with fe := g }
  | .ma => { k with ma := g }
  | .dr => { k with dr := g }

def modEng (k : Core) (e : Eng) (f : EngSt → EngSt) : Core := k.setEng e (f (k.eng e))

/-- An x register; x0 reads 0 (R42). -/
def getX (k : Core) (r : BitVec 5) : Word := if r = 0#5 then 0#64 else nth 0#64 k.ct.x r.toNat

/-- Writes an x register; a write to x0 is discarded. -/
def setX (k : Core) (r : BitVec 5) (w : Word) : Core :=
  if r = 0#5 then k else { k with ct := { k.ct with x := fillAt 0#64 k.ct.x r.toNat w } }

/-- The control sequencer goes to `pc` and counts a retired instruction (R72). -/
def retireTo (k : Core) (pc : Word) : Core :=
  { k with ct := { k.ct with pc := pc, instret := k.ct.instret + 1#64, wait := none } }

def retire (k : Core) : Core := k.retireTo (k.ct.pc + 4#64)

end Core

/-- A hart goes to `pc` and counts a retired instruction. -/
def Hart.retireTo (k : Hart) (pc : Word) : Hart := { k with pc := pc, instret := k.instret + 1#64 }

/-- The three engines with their numbers (R37, R83). -/
def engines : List Eng := [.fe, .ma, .dr]

def engNo : Eng → Nat
  | .fe => 1
  | .ma => 2
  | .dr => 3

/-- The engine of a number. -/
def engOf : Nat → Option Eng
  | 1 => some .fe
  | 2 => some .ma
  | 3 => some .dr
  | _ => none

end Sys2Proof.Machine
end

