-- ==== Sys2Proof/Machine/Queue.lean ====
section
/-!
DEFINITION. The dispatcher's data (04): continuation records (R105), queues (R108 to R112), teams (R126 to R131), triggers (R133)
and join counters (R118, R120).
-/

namespace Sys2Proof.Machine

/-- The deadline that means none (R105). -/
def noDeadline : Nat := 2 ^ 64 - 1

namespace State

/-! ## Continuation records (R105) -/

/-- The bits of a word of a record that are not reserved (R6, R105). -/
def crFields (w : Nat) : Word := if w = 0 then 0xFFFFFFFFFFFFFFF0#64 else if w = 6 then 0xFFFFFFFFFFFF0000#64 else BitVec.allOnes 64

def cr (s : State) (crid w : Nat) : Word := Tbl.get 0#64 s.crs (8 * crid + w)
def setCr (s : State) (crid w : Nat) (v : Word) : State :=
  { s with crs := Tbl.put s.crs (8 * crid + w) v, dirty := .record (8 * crid + w) :: s.dirty }
def crFld (s : State) (crid w lo n : Nat) : Nat := fld (s.cr crid w) lo n
def setCrFld (s : State) (crid w lo n v : Nat) : State := s.setCr crid w (setFld (s.cr crid w) lo n v)

def crCode (s : State) (c : Nat) : Nat := s.crFld c 0 32 32
def crEntry (s : State) (c : Nat) : Nat := s.crFld c 0 16 16
def crKind (s : State) (c : Nat) : Nat := s.crFld c 0 14 2
def crRst (s : State) (c : Nat) : Bool := s.crFld c 0 13 1 = 1
def crSv (s : State) (c : Nat) : Bool := s.crFld c 0 12 1 = 1
def crClass (s : State) (c : Nat) : Nat := s.crFld c 0 8 4
/-- ST: 0 FREE, 1 WAITING, 2 QUEUED, 3 RUNNING, 4 STOPPING. -/
def crSt (s : State) (c : Nat) : Nat := s.crFld c 0 5 3
def setSt (s : State) (c v : Nat) : State := s.setCrFld c 0 5 3 v
def crTrg (s : State) (c : Nat) : Bool := s.crFld c 0 4 1 = 1
def crDeadline (s : State) (c : Nat) : Nat := (s.cr c 2).toNat
def crJoin (s : State) (c : Nat) : Nat := s.crFld c 5 0 32
def crTeam (s : State) (c : Nat) : Nat := s.crFld c 6 48 16

/-- Records in the pool (R104): NREC = floor(pool size / 80). -/
def nrec (s : State) : Nat :=
  let h := s.reg 0x20
  let l := layoutOf (Handle.home h) (s.entry (Handle.key h))
  if h = 0#64 ∨ !l.val then 0 else dataBytes l l.ext / 80

/-- Records in use. -/
def usedRecs (s : State) : Nat := (s.crs.filter fun e => e.1 % 8 == 0 && fld e.2 5 3 != 0).length

/-- Spare slots that running tasks keep for their TCONT (R119). -/
def spareRecs (s : State) : Nat :=
  (s.cores.filter fun e => e.2.crid != 0 && e.2.cont == 0).length

/-- A free CRID, from 1 on. -/
def freeCrid (s : State) : Option Nat :=
  (List.range (s.nrec - 1)).findSome? fun i => if s.crSt (i + 1) = 0 then some (i + 1) else none

/-- A CRID that a program may ask for: the spare slots are left alone. -/
def askCrid (s : State) : Option Nat := if s.nrec ≤ 1 + s.usedRecs + s.spareRecs then none else s.freeCrid

/-- The code object of an id. -/
def codeOf (s : State) (id : Nat) : Option CodeObj := s.codes.find? fun o => o.id = id

/-- Is a record image valid for creation (R106)? -/
def imageOk (s : State) (w : List Word) : Bool :=
  let g := fun i => nth 0#64 w i
  let kind := fld (g 0) 14 2
  match s.codeOf (fld (g 0) 32 32) with
  | none => false
  | some o =>
    kind != 3 && decide (fld (g 0) 16 16 < o.entries.length) && (o.kind == 2 || o.kind == kind) &&
      fld (g 0) 0 4 == 0 && fld (g 6) 0 16 == 0

/-- Creates record `c` from an image (R106): CODE, ENTRY, KIND, RST, CLASS, FRAME, DEADLINE, ARG0, ARG1 and JOIN are copied. -/
def newRecord (s : State) (c : Nat) (w : List Word) (parent team lidx intp ts rank st : Nat) : State :=
  let g := fun i => nth 0#64 w i
  let w0 := setFld (setFld (setFld (g 0) 12 1 0) 5 3 st) 0 5 0
  let w0 := setFld w0 5 3 st
  let w5 := BitVec.ofNat 64 (parent * 2 ^ 32 + fld (g 5) 0 32)
  let w6 := BitVec.ofNat 64 (team * 2 ^ 48 + lidx * 2 ^ 32 + intp * 2 ^ 28 + ts * 2 ^ 24 + rank * 2 ^ 16)
  ((((((((s.setCr c 0 w0).setCr c 1 (g 1)).setCr c 2 (g 2)).setCr c 3 (g 3)).setCr c 4 (g 4)).setCr c 5 w5).setCr c 6
    w6).setCr c 7 0#64)

/-! ## Queues (R108 to R112) -/

def qGrace (s : State) (q : Nat) : Nat := s.regN (0x1000 + 32 * q + 16)
def qCap (s : State) (q : Nat) : Nat :=
  if s.reg (0x1000 + 32 * q) = 0#64 then 0 else s.regN (0x1000 + 32 * q + 8)
def qPop (s : State) (q : Nat) : Nat := s.regN (0x1000 + 32 * q + 24)

def qCount (s : State) (q : Nat) : Nat :=
  let k := s.queue q
  k.head.length + k.ring.length + k.spill.length

/-- An entry in the head, which passes into the late band once it is past its grace (R111). -/
def banded (pcc grace : Nat) (e : QEntry) : QEntry :=
  if e.late.isNone && decide (e.deadline + grace < pcc) && e.deadline != noDeadline then { e with late := some pcc } else e

/-- Moves entries from the ring into the head while it has room (R108). -/
def refill (pcc grace : Nat) (k : Queue) : Queue :=
  let n := 256 - k.head.length
  { k with head := k.head ++ (k.ring.take n).map (banded pcc grace), ring := k.ring.drop n }

/-- Passes spilled entries into the ring while it has room (R110); into the head of a queue that has no ring. -/
def unspill (pcc grace : Nat) (k : Queue) (cap : Nat) : Queue :=
  if cap = 0 ∧ k.ring = [] then
    let n := 256 - k.head.length
    { k with head := k.head ++ (k.spill.take n).map (banded pcc grace), spill := k.spill.drop n }
  else
    let n := cap - k.ring.length
    { k with ring := k.ring ++ k.spill.take n, spill := k.spill.drop n, put := k.put + (k.spill.take n).length }

/-- Is a queue that of a degraded cluster?  Its head, ring and spill list then only empty, in the order of R456: nothing is refilled. -/
def qFrozen (s : State) (q : Nat) : Bool := decide (q < 128) && (s.cluster q).degr

/-- DEGR is set in a cluster (R455): the entries that stand in its queue are those below the queue's next sequence number (R456). -/
def degrade (s : State) (c : Nat) (k : Cluster) : Cluster :=
  if k.degr then k else { k with degr := true, degrSeq := (s.queue c).seq }

/-- A queue after its refill and the passing of its spilled entries (R108, R110). -/
def qSettled (s : State) (q : Nat) : Queue :=
  if s.qFrozen q then s.queue q else unspill s.pcc (s.qGrace q) (refill s.pcc (s.qGrace q) (s.queue q)) (s.qCap q)

/-- Is there room in head or ring, the spilled entries going first (R108, R110)? -/
def qRoom (s : State) (q : Nat) : Bool :=
  let k := s.qSettled q
  decide (k.head.length < 256) || (decide (k.ring.length < s.qCap q) && k.spill.isEmpty)

/-- A queue is replaced by one that may hold more in its ring: those entries are yet to reach the ring object. -/
def putQueue (s : State) (q : Nat) (k : Queue) : State :=
  let old := (s.queue q).put
  { s.setQueue q k with dirty := (List.range (k.put - old)).map (fun i => Dirty.ring q (old + i)) ++ s.dirty }

/-- Places an entry: the head if it has room, the ring's tail, or the spill list (R108, R110).  It takes the queue's next sequence
number. -/
def qPut (s : State) (q : Nat) (e : QEntry) : State :=
  let k := s.qSettled q
  let e := { e with seq := k.seq % 2 ^ 64 }
  let k := { k with seq := (k.seq + 1) % 2 ^ 64 }
  if k.head.length < 256 then s.putQueue q { k with head := k.head ++ [banded s.pcc (s.qGrace q) e] }
  else if k.ring.length < s.qCap q ∧ k.spill.isEmpty then s.putQueue q { k with ring := k.ring ++ [e], put := k.put + 1 }
  else
    let s1 := s.putQueue q { k with spill := k.spill ++ [e] }
    { s1 with dirty := .spill e.crid :: s1.dirty }

/-- The queue entry of a record (R108). -/
def entryOf (s : State) (c : Nat) : QEntry :=
  { crid := c, deadline := s.crDeadline c, kind := s.crKind c, cls := s.crClass c, seq := 0 }

/-- Enqueues a record: ST becomes QUEUED. -/
def enqueue (s : State) (q c : Nat) : State := (s.setSt c 2).qPut q (s.entryOf c)

/-- Enqueues a gang entry in a die queue (R130): the earliest deadline and the members. -/
def enqueueGang (s : State) (die : Nat) (cs : List Nat) : State :=
  let dl := cs.foldl (fun m c => min m (s.crDeadline c)) noDeadline
  let s := cs.foldl (fun s c => s.setSt c 2) s
  let e0 := s.entryOf (nth 0 cs 0)
  if cs.isEmpty then s else s.qPut (128 + die) { e0 with deadline := dl, gang := cs }

/-- Marks the head's entries that have passed their grace (R111). -/
def markLate (pcc grace : Nat) (k : Queue) : Queue := { k with head := k.head.map (banded pcc grace) }

end State

/-- May a core of the die kind run a task kind (R12)? -/
def kindFits (die kind : Nat) : Bool := kind == 2 || (if die < 4 then kind == 0 else kind == 1)

/-- The least entry by a two-part key. -/
def leastBy (key : QEntry → Nat × Nat) : List QEntry → Option QEntry
  | [] => none
  | e :: t =>
    match leastBy key t with
    | none => some e
    | some f => if (key f).1 < (key e).1 ∨ ((key f).1 = (key e).1 ∧ (key f).2 < (key e).2) then some f else some e

/-- The entry that a pop takes (R112) among those that pass `ok`. -/
def popChoice (k : Queue) (qpop : Nat) (ok : QEntry → Bool) : Option QEntry :=
  let normal := leastBy (fun e => (e.deadline, e.seq)) (k.head.filter fun e => e.late.isNone && ok e)
  let late := leastBy (fun e => (e.late.getD 0, e.seq)) (k.head.filter fun e => e.late.isSome && ok e)
  if qpop = 7 ∧ late.isSome then late
  else
    match normal with
    | some e => some e
    | none => late

namespace State

/-- Removes an entry that a pop took and advances QPOP (R112). -/
def qTake (s : State) (q : Nat) (e : QEntry) : State :=
  let k := s.queue q
  let s1 := s.setQueue q { k with head := k.head.filter fun f => f.seq != e.seq }
  s1.setReg (0x1000 + 32 * q + 24) (BitVec.ofNat 64 ((s.qPop q + 1) % 8))

/-! ## Teams (R126 to R131) -/

def team (s : State) (id : Nat) : Option Team := Tbl.find s.teams id
def setTeam (s : State) (t : Team) : State := { s with teams := Tbl.put s.teams t.id t }

/-- The team of which a task is a member; 0 for none. -/
def teamOf (s : State) (crid : Nat) : Nat :=
  match s.teams.find? fun e => e.2.members.any fun m => m.crid = crid && !m.left with
  | some e => e.1
  | none => 0

/-- A free team index on a die (R126). -/
def freeTeam (s : State) (die : Nat) : Option Nat :=
  (List.range 4095).findSome? fun i =>
    if (Tbl.find s.teams (4096 * die + i + 1)).isNone then some (4096 * die + i + 1) else none

/-- The team word of R123 item 1. -/
def teamWord (t : Team) (crid : Nat) : Word :=
  let rank := ((t.members.find? fun m => m.crid = crid).map Member.rank).getD 0
  BitVec.ofNat 64 (t.size * 2 ^ 32 + rank * 2 ^ 16 + t.id)

/-- The principal of the task running on a core (R153). -/
def principal (s : State) (c : Nat) : Principal :=
  let k := s.core c
  { crid := k.crid, team := s.teamOf k.crid, cls := s.crClass k.crid, code := s.crCode k.crid,
    die := some (c / 256), cluster := some (c / 16) }

/-- Sets EXPOSED of a task or its team (R139). -/
def expose (s : State) (c : Nat) : State :=
  let t := s.teamOf (s.core c).crid
  match s.team t with
  | some tm => s.setTeam { tm with exposed := true }
  | none => s.modCore c fun k => { k with exposed := true }

/-- The core of one of the tasks given, once the TBAR at which it waits has retired with the phase count (R129). -/
def afterBarrier (ph : Nat) (crids : List Nat) (k : Core) : Core :=
  match k.ct.wait with
  | some w => if w.kind = .tbar ∧ k.crid ∈ crids then (k.setX w.d (BitVec.ofNat 64 ph)).retire else k
  | none => k

/-- Does the core of one of the tasks given wait at a TBAR? -/
def atBarrier (crids : List Nat) (k : Core) : Bool :=
  match k.ct.wait with
  | some w => w.kind == .tbar && crids.contains k.crid
  | none => false

/-- The TBARs at which the tasks given wait retire (R129); their control sequencers move no more in this clk. -/
def passBarrier (s : State) (ph : Nat) (crids : List Nat) : State :=
  let moves := fun (a : Agent) =>
    match a with
    | .seq c .ct => !atBarrier crids (s.core c)
    | _ => true
  { s with cores := s.cores.map fun e => (e.1, afterBarrier ph crids e.2), turns := s.turns.filter moves }

/-- Completes the barrier when every arrival stands (R129): in one step every member receives the phase count before completion and its
TBAR retires. -/
def tryBarrier (s : State) (id : Nat) : State :=
  match s.team id with
  | none => s
  | some t =>
    let here := t.members.filter (·.arrived)
    if here.length = t.size ∧ here ≠ [] then
      (s.setTeam { t with phase := (t.phase + 1) % 2 ^ 32, members := t.members.map fun m => { m with arrived := false } }).passBarrier
        t.phase (here.map Member.crid)
    else s

/-- Enqueues a stopped team as one gang entry once every member that has not left stands saved (R130, R140, R142). -/
def tryGang (s : State) (id : Nat) : State :=
  match s.team id with
  | none => s
  | some t =>
    let live := t.members.filter fun m => !m.left
    if live ≠ [] ∧ live.all (·.saved) then
      let s1 := s.setTeam { t with members := t.members.map fun m => { m with saved := false } }
      let s2 := live.foldl (fun s m => (s.setCrFld m.crid 6 48 16 t.id).setCrFld m.crid 6 16 8 m.rank) s1
      s2.enqueueGang (id / 4096) (live.map Member.crid)
    else s

/-- Frees a Bench object: VAL is cleared (R222). -/
def freeBench (s : State) (key : Nat) : State :=
  { s.setEw key 0 46 1 0 with hcache := s.hcache.filter fun e => e.1 / 128 != key }

/-- The Bench objects a team owns: entry RL0 names the team (R221). -/
def teamBench (s : State) (id : Nat) : List Nat :=
  s.yard.filterMap fun e =>
    let key := e.1 / 16
    let rl := fld e.2 0 32
    let l := layoutOf (key / 2 ^ 29) (s.entry key)
    if e.1 % 16 = 14 ∧ bitOf rl 31 ∧ bitsOf rl 24 3 = 3 ∧ bitsOf rl 0 24 = id ∧ l.bench ∧ l.val ∧ l.home = s.pkg then some key
    else none

/-- Objects whose draft a team, or a task alone, has claimed. -/
def claimsOf (s : State) (kind holder : Nat) : List Nat :=
  s.yard.filterMap fun e =>
    if e.1 % 16 = 9 ∧ fld e.2 30 2 = kind ∧ fld e.2 32 32 = holder then some (e.1 / 16) else none

/-- A descriptor bound to the draft of the object, and not of one discarded since (R187). -/
def descOnDraft (key : Nat) (d : List Word) : Bool :=
  nth 0#64 d 0 != 0#64 && Handle.key (nth 0#64 d 0) == key && (nth 0#64 d 1).getLsbD 5 && !(nth 0#64 d 1).getLsbD 0

/-- Bit 0 of word 1 marks a descriptor whose draft was discarded (log entry 21). -/
def descGone (d : List Word) : List Word := modAt (fun w => w ||| 1#64) d 1

/-- A descriptor after the draft of the object has been discarded (R187). -/
def descDropped (key : Nat) (d : List Word) : List Word := if descOnDraft key d then descGone d else d

/-- A descriptor after the draft of the object has become version `ver` (R187); bit 1 of word 1 marks it (log entry 21). -/
def descBound (key ver : Nat) (d : List Word) : List Word :=
  if descOnDraft key d then modAt (fun w => setFld (setFld (setFld w 32 32 ver) 5 1 0) 1 1 1) d 1 else d

/-- Applies a change to the descriptor states of the loads that an engine keeps (R219). -/
def keptDescs (f : List Word → List Word) (g : EngSt) : EngSt :=
  { g with kept := g.kept.map (fun w => { w with desc := w.desc.map f }), redo := g.redo.map fun w => { w with desc := w.desc.map f } }

/-- Applies a change to every context, on a core or saved. -/
def mapContexts (s : State) (f : Core → Core) : State :=
  { s with cores := s.cores.map fun e => (e.1, f e.2), saved := s.saved.map fun e => (e.1, f e.2) }

/-- Copy jobs and collectives that name the draft find it gone (R353). -/
def jobsDropDraft (s : State) (key : Nat) : State :=
  { s with
    colls := s.colls.map fun c =>
      { c with dstGone := c.dstGone || Handle.key c.dst == key
               srcVer := if Handle.key c.src = key ∧ c.srcVer = 0 then 2 ^ 32 else c.srcVer }
    jobs := s.jobs.map fun j =>
      { j with vers := (List.range j.vers.length).map fun i =>
          if Handle.key (nth 0#64 j.card (4 + 3 * i)) = key ∧ (nth 0#64 j.card (6 + 3 * i)).getLsbD 24 then 2 ^ 32 else nth 0 j.vers i } }

/-- Removes every view of a draft that closes without being published (R170); descriptors bound to it find it gone (R187). -/
def dropDraftViews (s : State) (key : Nat) : State :=
  (s.jobsDropDraft key).mapContexts fun k =>
    { k with
      views := k.views.filter fun v =>
        match v.back with
        | .draft x _ => x != key
        | _ => true
      sd := k.sd.map fun d => (d.1, descDropped key d.2)
      loads := k.loads.map fun w => { w with desc := descDropped key w.desc }
      fe := keptDescs (descDropped key) k.fe
      stores := k.stores.map fun w => { w with desc := descDropped key w.desc } }

/-- Bindings to the draft become bindings to the version it has become: views lose the write right, descriptors lose DRAFT, and each
holds one pin (R162, R187). -/
def rebindDraft (s : State) (key ver : Nat) : State :=
  let isDraft := fun (v : View) => match v.back with
    | .draft x _ => x == key
    | _ => false
  let ctx := (s.cores ++ s.saved).map (·.2)
  let n := (ctx.map fun k => (k.views.filter isDraft).length + (k.sd.filter fun d => descOnDraft key d.2).length).foldl (· + ·) 0
  let s1 := (s.jobsDropDraft key).mapContexts fun k =>
    { k with
      views := k.views.map fun v =>
        match v.back with
        | .draft x h => if x = key then { v with back := .version x h ver, w := false } else v
        | _ => v
      sd := k.sd.map fun d => (d.1, descBound key ver d.2)
      loads := k.loads.map fun w => { w with desc := descBound key ver w.desc }
      fe := keptDescs (descBound key ver) k.fe
      stores := k.stores.map fun w => { w with desc := descBound key ver w.desc } }
  (List.range n).foldl (fun s _ => (s.pin key ver).getD s) s1

/-- A draft is discarded without being published (R156). -/
def closeDraft (s : State) (key : Nat) : State := (s.discardDraft key).dropDraftViews key

/-- Dissolves a team (R128): its claims end, its Bench objects are freed, its shapes are freed (R337). -/
def dissolve (s : State) (id : Nat) : State :=
  let s := (s.claimsOf 2 id).foldl (fun s k => s.closeDraft k) s
  let s := (s.teamBench id).foldl (fun s k => s.freeBench k) s
  { s with teams := Tbl.erase s.teams id, shapes := s.shapes.filter fun e => !(e.2.isTeam && e.2.owner == id) }

/-- Hands a team index that has come free to records that wait for one (R139). -/
def reTeam (s : State) (die : Nat) : State :=
  match s.reteam.find? fun e => e.1 = die, s.freeTeam die with
  | some (d, cs), some id =>
    let ms := cs.map fun c => ({ crid := c, rank := s.crFld c 6 16 8 } : Member)
    let s := { s with reteam := s.reteam.filter fun e => !(decide (e = (d, cs))) }
    let s := s.setTeam { id := id, size := cs.length, joined := cs.length, members := ms, byLaunch := true }
    let s := cs.foldl (fun s c => s.setCrFld c 6 48 16 id) s
    s.enqueueGang die cs
  | _, _ => s

/-- Places a team's continuations once every member has left and every continuation has JOIN = 0 (R130). -/
def tryConts (s : State) (id : Nat) : State :=
  match s.team id with
  | none => s
  | some t =>
    if t.conts.isEmpty ∨ t.members.any (fun m => !m.left) ∨ t.conts.any (fun c => s.crJoin c.1 != 0) then s
    else
      let s := s.setTeam { t with members := t.conts.map (fun c => { crid := c.1, rank := c.2 }), conts := [] }
      s.enqueueGang (id / 4096) (t.conts.map (·.1))

/-- TLEAVE (R128): the member goes, SIZE falls, an empty team dissolves, a barrier whose arrivals now suffice completes; where the
others stand saved, they are enqueued (R142). -/
def leaveTeam (s : State) (id crid : Nat) : State :=
  match s.team id with
  | none => s
  | some t =>
    let t' := { t with size := t.size - 1, members := t.members.filter fun m => m.crid != crid }
    if t.size ≤ 1 then ((s.setTeam t').dissolve id).reTeam (id / 4096)
    else (((s.setTeam t').tryBarrier id).tryConts id).tryGang id

/-! ## Triggers and joins -/

/-- TTRIG (R121): TRG is set, and the launch slot's count falls (R133).  A task that came from no launch is unaffected. -/
def trigger (s : State) (crid : Nat) : State :=
  let i := s.crFld crid 6 28 4
  if s.crTrg crid || i == 15 then s
  else (s.setCrFld crid 0 4 1 1).modInterp i fun k => { k with slots := modAt (· - 1) k.slots (s.crFld crid 6 24 4) }

/-- Does the trigger of the record count for a launch? -/
def fromLaunch (s : State) (crid : Nat) : Bool := s.crFld crid 6 28 4 != 15

/-- A WAITING record has become runnable (R118, R119, R130).  A team continuation whose team has been dissolved keeps its TEAM and is
enqueued by nothing (log entry 43). -/
def makeRunnable (s : State) (c : Nat) : State :=
  if s.crTeam c ≠ 0 then s.tryConts (s.crTeam c) else s.enqueue (Tbl.get 136 s.target c) c

/-- JOIN(c) := JOIN(c) - 1; a JOIN that is already 0 stays (R120). -/
def decJoin (s : State) (c : Nat) : State :=
  let n := s.crJoin c
  if n = 0 then s
  else
    let s := s.setCrFld c 5 0 32 (n - 1)
    if n = 1 ∧ s.crSt c = 1 then s.makeRunnable c else s

/-! ## Frame pools (R460) -/

/-- Appends a handle at the tail of a die's frame pool: its head position is a hidden register (log entry 6). -/
def pushFp (s : State) (die : Nat) (h : Word) : State :=
  let b := 0xD000 + 64 * die
  let size := s.regN (b + 8)
  let cnt := s.regN (b + 24)
  if size ≤ cnt then s.bumpReg (b + 32)
  else
    let pos := (s.regN (0x100010 + die) + cnt) % size
    (s.writeNum (paKeyAt s s.pkg (s.regN b + 8 * pos)) 8 h.toNat).bumpReg (b + 24)

/-- The handle at the head of the pool, taken. -/
def popFp (s : State) (die : Nat) : Option (Word × State) :=
  let b := 0xD000 + 64 * die
  let size := s.regN (b + 8)
  let cnt := s.regN (b + 24)
  if size = 0 ∨ cnt = 0 then none
  else
    let hd := s.regN (0x100010 + die)
    let h := BitVec.ofNat 64 (s.num (paKeyAt s s.pkg (s.regN b + 8 * (hd % size))) 8)
    some (h, (s.setReg (0x100010 + die) (BitVec.ofNat 64 ((hd + 1) % size))).setReg (b + 24) (BitVec.ofNat 64 (cnt - 1)))

/-- Bytes of storage of the object a handle names. -/
def storageBytes (s : State) (h : Word) : Nat := 65536 * objPages (layoutOf (Handle.home h) (s.entry (Handle.key h)))

/-- Takes a frame of at least `need` bytes: a smaller one moves to the tail, each entry is examined at most once (R460). -/
def takeFp (s : State) (die need : Nat) : Nat → Option (Word × State)
  | 0 => none
  | n + 1 =>
    match s.popFp die with
    | none => none
    | some (h, s1) => if need ≤ s1.storageBytes h then some (h, s1) else takeFp (s1.pushFp die h) die need n

/-! ## The tables in memory (R104, R105, R108, R110, R418; log entry 41) -/

/-- Sixteen bytes of a queue entry, whose layout the spec does not give: free values. -/
def writeEntry (s : State) (place : Option Nat) : State :=
  match place with
  | none => s
  | some k =>
    let a := s.draw
    let b := a.2.draw
    (b.2.writeNum k 8 a.1.toNat).writeNum (k + 8) 8 b.1.toNat

/-- The place of a word of a Yard entry at its home: YBASE + 128 × LOCAL + 8 × word (R418). -/
def yardKey (s : State) (key : Nat) : Option Nat :=
  let p := key / 2 ^ 33
  let n := key % 2 ^ 33
  if n / 16 < s.pregN p 0x10 then some (paKeyAt s p (s.pregN p 8 + 8 * n)) else none

/-- The page of the CR pool object that holds a place of storage. -/
def poolPage (s : State) (k : Nat) : Option Nat :=
  (List.range ((s.nrec + 1023) / 1024)).find? fun p => s.storeKey (s.reg 0x20) (65536 * p) == some (k / 65536 * 65536)

/-- Word `n` of the records is the doubleword at `k`, without reserved bits (R6). -/
def storedWord (s : State) (t : Tbl Word) (n k : Nat) : Tbl Word :=
  if 8 ≤ n ∧ n < 8 * s.nrec then Tbl.put t n (BitVec.ofNat 64 (s.num k 8) &&& crFields (n % 8)) else t

/-- The records that stand in a sector of storage are what it now holds (R104, R105). -/
def storedRecords (s : State) (k : Nat) : State :=
  match s.poolPage k with
  | none => s
  | some p => { s with crs := (List.range 4).foldl (fun t i => s.storedWord t (8192 * p + k % 65536 / 8 + i) (k + 8 * i)) s.crs }

/-- The place in memory of what has changed (R104, R105, R108, R110, R418). -/
def dirtyKey (s : State) (d : Dirty) : Option Nat :=
  match d with
  | .record key => if key / 8 < s.nrec then s.storeKey (s.reg 0x20) (8 * key) else none
  | .yard key => s.yardKey key
  | .ring q pos => if s.qCap q = 0 then none else s.storeKey (s.reg (0x1000 + 32 * q)) (16 * (pos % s.qCap q))
  | .spill c => s.storeKey (s.reg 0x20) (64 * s.nrec + 16 * c)
  | .sector k | .stored k => some k

/-- What has changed is written at its place. -/
def putDirty (s : State) (d : Dirty) (k : Nat) : State :=
  match d with
  | .record key => s.writeNum k 8 (Tbl.get 0#64 s.crs key).toNat
  | .yard key => s.writeNum k 8 (Tbl.get 0#64 s.yard key).toNat
  | .ring _ _ | .spill _ => s.writeEntry (some k)
  | .sector _ => { s with dirty := d :: s.dirty }
  | .stored k => s.storedRecords k

/-- What has changed reaches its place in memory; while a page lock holds the frame it waits (R428). -/
def tableToMem (s : State) (d : Dirty) : State :=
  match s.dirtyKey d with
  | none => s
  | some k =>
    match d with
    | .sector _ | .stored _ => s.putDirty d k
    | _ => if s.pageLocked k then { s with dirty := d :: s.dirty } else s.putDirty d k

/-- Everything that has changed in this clk reaches memory, and then the records to which an agent has stored are read from there; the sectors
of peers are left to leave as messages. -/
def tablesToMem (s : State) : State :=
  let agents := fun (d : Dirty) => match d with
    | .stored _ => true
    | _ => false
  (s.dirty.filter agents).foldl tableToMem ((s.dirty.filter fun d => !agents d).foldl tableToMem { s with dirty := [] })

/-- The words that memory holds in a span of 8-byte words, by their index in it. -/
def spanWords (s : State) (base words : Nat) : Tbl Word :=
  s.mem.foldl (fun (t : Tbl Word) e =>
    let i := (e.1 - base) / 8
    if base ≤ e.1 ∧ i < words ∧ (Tbl.find t i).isNone then Tbl.put t i (BitVec.ofNat 64 (s.num (base + 8 * i) 8)) else t) []

/-- The Yard slice has moved or changed its size (R418): the entries are those that its storage holds, without reserved bits (R6). -/
def reloadYard (s : State) : State :=
  let own := 2 ^ 33 * s.pkg
  let words := s.spanWords (paKeyAt s s.pkg (s.regN 8)) (16 * s.regN 0x10)
  let rest := s.yard.filter fun e => e.1 / 2 ^ 33 != s.pkg
  { s with yard := words.foldl (fun t e => if e.1 < 16 then t else Tbl.put t (own + e.1) (e.2 &&& ywFields (e.1 % 16))) rest }

/-- Another object is the CR pool (R104): the records are those that its storage holds, without reserved bits (R6). -/
def reloadPool (s : State) : State :=
  let h := s.reg 0x20
  let pages := (s.nrec + 1023) / 1024
  let words := (List.range pages).foldl (fun (t : Tbl Word) p =>
    match s.storeKey h (65536 * p) with
    | none => t
    | some k => (s.spanWords k 8192).foldl (fun t e => if 8 ≤ 8192 * p + e.1 ∧ 8192 * p + e.1 < 8 * s.nrec then Tbl.put t (8192 * p + e.1) (e.2 &&& crFields (e.1 % 8)) else t) t) []
  { s with crs := words }

end State

/-- Bytes of the save area for a live depth, in whole pages (R141). -/
def saveArea (live : Nat) : Nat := roundUp (4858880 + 4096 * (16 + live)) 65536

end Sys2Proof.Machine
end

