-- ==== Sys2Proof/Machine/Jobs.lean ====
section
/-!
DEFINITION. The job table of the copy engines (12 R331, R332): the fields of a card (R333, R334), conflicts (R177), rings and barriers
(R354, R355), how a job ends (R332, R357, R359), and how a collective ends (14 R408, R410).
-/

namespace Sys2Proof.Machine

namespace Job

def w (j : Job) (i : Nat) : Word := nth 0#64 j.card i
def nt (j : Job) : Nat := fld (j.w 1) 48 16
def bmode (j : Job) : Nat := fld (j.w 1) 38 2
def nbm1 (j : Job) : Nat := fld (j.w 1) 36 2
def slot0 (j : Job) : Nat := fld (j.w 1) 30 6
def cb0 (j : Job) : Nat := fld (j.w 1) 26 4
def skind (j : Job) : Bool := (j.w 1).getLsbD 25
def dkind (j : Job) : Bool := (j.w 1).getLsbD 24
/-- Is an endpoint of the job a slot (R335, R359)? -/
def slotEnd (j : Job) : Bool := j.skind || j.dkind
def ended (j : Job) : Bool := decide (3 ≤ j.st)
/-- The barrier and the slot of tile `t` (R354). -/
def ringOf (j : Job) (t : Nat) : Nat := j.cb0 + t % (j.nbm1 + 1)
def slotOf (j : Job) (t : Nat) : Nat := j.slot0 + t % (j.nbm1 + 1)
/-- The handle, origin, version field, shape, role and draft flag of region `i` (R334). -/
def handle (j : Job) (i : Nat) : Word := j.w (4 + 3 * i)
def org (j : Job) (i : Nat) : Nat := (j.w (5 + 3 * i)).toNat
def vsel (j : Job) (i : Nat) : Nat := fld (j.w (6 + 3 * i)) 32 32
def shapeId (j : Job) (i : Nat) : Nat := fld (j.w (6 + 3 * i)) 28 4
def role (j : Job) (i : Nat) : Nat := fld (j.w (6 + 3 * i)) 25 3
def draft (j : Job) (i : Nat) : Bool := (j.w (6 + 3 * i)).getLsbD 24
/-- The region with a role: 1 SRC, 2 DST, 3 SSRC. -/
def region (j : Job) (r : Nat) : Option Nat := (List.range 4).find? fun i => j.role i = r
/-- The progress word (R332). -/
def progress (j : Job) : Word :=
  BitVec.ofNat 64 (j.tdone * 2 ^ 48 + j.nt * 2 ^ 32 + j.st * 2 ^ 29 +
    (if j.st = 4 then j.fcode * 2 ^ 16 + j.fdetail else 0))
/-- The job acts as the task that submitted it (R331). -/
def principal (j : Job) : Principal :=
  { crid := j.crid, team := j.team, cls := j.cls, code := j.code, die := some j.die, cluster := none }

end Job

/-! ## Conflicts (R177) -/

/-- Do the index boxes of two footprints meet? -/
def Foot.meets (a b : Foot) : Bool :=
  (List.range 5).all fun p => decide (nth 0 a.lo p ≤ nth 0 b.hi p) && decide (nth 0 b.lo p ≤ nth 0 a.hi p)

/-- Do two sets of footprints hold two that meet in one object and one draft or version, one of them written? -/
def feetMeet (a b : List Foot) : Bool := a.any fun x => b.any fun y => x.key == y.key && x.ver == y.ver && (x.w || y.w) && x.meets y

/-- Who has submitted a job or collective, when, and over which footprints. -/
structure Claim where
  ord : Nat
  crid : Nat
  team : Nat
  orphan : Bool
  foot : List Foot

def Job.claim (j : Job) : Claim := { ord := j.ord, crid := j.crid, team := j.team, orphan := j.orphan, foot := j.foot }
def Coll.claim (c : Coll) : Claim := { ord := c.ord, crid := c.crid, team := c.team, orphan := c.orphan, foot := c.foot }

/-- Was the first accepted before the second, and do they conflict? -/
def Claim.holds (a b : Claim) : Bool :=
  decide (a.ord < b.ord) && ((a.crid == b.crid && a.orphan == b.orphan) || (a.team != 0 && a.team == b.team)) && feetMeet a.foot b.foot

namespace State

/-- Is a job or collective held by one accepted before it (R177)? -/
def claimHeld (s : State) (x : Claim) : Bool :=
  s.jobs.any (fun j => !j.ended && j.claim.holds x) || s.colls.any fun c => c.status.isNone && c.claim.holds x

def jobHeld (s : State) (j : Job) : Bool := s.claimHeld j.claim

/-- The core on which a task runs, if it runs. -/
def coreOf (s : State) (crid : Nat) : Option Nat := (s.cores.find? fun e => e.2.crid = crid && e.2.phase == .running).map (·.1)

/-- Has the task of a job without a slot endpoint gone, or is it being discarded?  Its barriers are gone with it: the job runs to its end
with no ring (R359; log entry 26). -/
def ringGone (s : State) (j : Job) : Bool :=
  j.orphan || (!j.slotEnd && (s.core j.core).crid == j.crid && (s.core j.core).phase == .stopping true)

/-- The context in which the barriers of a job's task stand: its core, or its save while it is saved (R141, R359). -/
def ringCtx (s : State) (j : Job) : Core := if s.crSv j.crid then Tbl.get {} s.saved j.crid else s.core j.core

/-- Changes that context. -/
def modRing (s : State) (j : Job) (f : Core → Core) : State :=
  if s.crSv j.crid then { s with saved := Tbl.put s.saved j.crid (f (Tbl.get {} s.saved j.crid)) } else s.modCore j.core f

/-- Has the job passed the wait of its tile (R355)? -/
def passed (s : State) (j : Job) : Bool :=
  let k := s.ringCtx j
  j.bmode != 0 && (s.ringGone j || (Tbl.find k.cbOwner (j.ringOf j.tdone) == some j.jid &&
    !k.cbPend.any fun p => p.2.2.2 == j.jid && p.2.1 == j.ringOf j.tdone))

/-- Does the job wait at its ring (R354): nothing holds it, it has not passed, and its barrier is not in the state it needs or is owned? -/
def atRing (s : State) (j : Job) : Bool :=
  let k := s.ringCtx j
  let b := j.ringOf j.tdone
  j.bmode != 0 && !s.passed j && !s.jobHeld j && (nth false k.cb b == (j.bmode == 1) || (Tbl.find k.cbOwner b).isSome)

/-- Is a copy job writing the slot of a core (R278, R351)? -/
def jobWrites (s : State) (c n : Nat) : Bool :=
  s.jobs.any fun j => j.core == c && j.dkind && !j.ended && s.passed j && j.slotOf j.tdone == n

/-- Releases the pins of a job (R332). -/
def unpinJob (s : State) (j : Job) : State :=
  (List.range 4).foldl (fun s i => if nth 0 j.vers i = 0 then s else s.unpin (Handle.key (j.handle i)) (nth 0 j.vers i)) s

/-- A job ends in a state: its pins go, and it owns no barrier (R332, R357); an entry whose task has exited is freed (R331). -/
def endJob (s : State) (j : Job) (st : Nat) : State :=
  let s1 := s.unpinJob j
  let s2 := if j.orphan then s1 else s1.modRing j fun k =>
    { k with cbOwner := k.cbOwner.filter fun e => e.2 != j.jid || k.cbPend.any fun p => p.2.1 == e.1 && p.2.2.2 == j.jid }
  if j.orphan then { s2 with jobs := s2.jobs.filter fun x => x.jid != j.jid || x.die != j.die }
  else { s2 with jobs := s2.jobs.map fun x => if x.jid = j.jid ∧ x.die = j.die then { j with st := st, vers := [] } else x }

/-- The jobs of a task whose table entries are in use. -/
def jobsOf (s : State) (crid : Nat) : List Job := s.jobs.filter fun j => j.crid = crid && !j.orphan

/-- Must an exit still wait for a job of the task: a slot endpoint, not ended and not at a ring wait (R359)? -/
def slotJobsBusy (s : State) (crid : Nat) : Bool :=
  (s.jobsOf crid).any fun j => j.slotEnd && !j.ended && !s.atRing j

/-- The jobs of a task that exits or is discarded (R331, R359): a job with a slot endpoint ends as CANCELLED, the others run to their
end, and entries of ended jobs are freed. -/
def orphanJobs (s : State) (crid : Nat) : State :=
  let mine := s.jobsOf crid
  let s1 := { s with jobs := (s.jobs.filter fun j => !(j.crid == crid && j.ended)).map fun j =>
      if j.crid = crid then { j with orphan := true } else j }
  (mine.filter fun j => j.slotEnd && !j.ended).foldl (fun s j => s.endJob { j with orphan := true } 5) s1

/-! ## Collectives -/

/-- A collective ends with a status (R408): its pins go, and what has arrived for it is dropped; an entry whose task has exited is
freed. -/
def endColl (s : State) (c : Coll) (w : Word) : State :=
  let s1 := s.unpin (Handle.key c.grp) c.grpVer
  let s2 := if c.srcVer = 0 then s1 else s1.unpin (Handle.key c.src) c.srcVer
  { s2 with
    contribs := s2.contribs.filter fun k => !(k.grp == c.grp.toNat / 2 ^ 12 && k.tag == c.tag && k.instr == c.instr)
    colls := if c.orphan then s2.colls.filter fun x => x.cid != c.cid
      else s2.colls.map fun x => if x.cid = c.cid then { c with status := some w } else x }

/-- A status word (R409). -/
def collStatus (c : Coll) (low : Nat) : Word := BitVec.ofNat 64 (c.rank * 2 ^ 48 + c.members.length * 2 ^ 32 + low)

/-- The collectives of a task, waited for or not. -/
def collsOf (s : State) (crid : Nat) : List Coll := s.colls.filter fun c => c.crid = crid && !c.orphan

/-- The task of collectives exits (R410): they run on, and entries of ended ones are freed. -/
def orphanColls (s : State) (crid : Nat) : State :=
  { s with colls := (s.colls.filter fun c => !(c.crid == crid && c.status.isSome)).map fun c =>
      if c.crid = crid then { c with orphan := true } else c }

/-- The task of collectives is discarded (R410): they end REFUSED. -/
def refuseColls (s : State) (crid : Nat) : State :=
  let mine := (s.collsOf crid).filter fun c => c.status.isNone
  (mine.foldl (fun s c => s.endColl { c with orphan := true } 0#64) s).orphanColls crid

end State

end Sys2Proof.Machine
end

