-- ==== Sys2Proof/Machine/Ops.lean ====
section
/-!
DEFINITION. The named operations over registers and sequencers: reading and writing x registers, retiring an instruction, the fault
records (R36, R37), service entry and return (R74 to R77), the end of a task (R76, R120), the sections and their
retirement (R16, R19).
-/

namespace Sys2Proof.Machine

namespace State

/-! ## x registers and the pc of the agent that executes -/

/-- A register of the control sequencer or hart that executes; 0 for any other agent. -/
def rx (s : State) (r : BitVec 5) : Word :=
  match s.agent with
  | .seq c .ct => (s.core c).getX r
  | .hart h => if r = 0#5 then 0#64 else nth 0#64 (s.hart h).x r.toNat
  | _ => 0#64

def wx (s : State) (r : BitVec 5) (w : Word) : State :=
  match s.agent with
  | .seq c .ct => s.modCore c fun k => k.setX r w
  | .hart h => if r = 0#5 then s else s.modHart h fun k => { k with x := fillAt 0#64 k.x r.toNat w }
  | _ => s

def pc (s : State) : Word :=
  match s.agent with
  | .seq c .ct => (s.core c).ct.pc
  | .hart h => (s.hart h).pc
  | _ => 0#64

/-- Retires the instruction and continues at `pc`. -/
def goto (s : State) (pc : Word) : State :=
  match s.agent with
  | .seq c .ct => s.modCore c fun k => k.retireTo pc
  | .hart h => s.modHart h fun k => k.retireTo pc
  | _ => s

/-- Retires the instruction and continues with the next one. -/
def step4 (s : State) : State := s.goto (s.pc + 4#64)

/-- Writes the destination and retires. -/
def done (s : State) (rd : BitVec 5) (w : Word) : State := (s.wx rd w).step4

def modCt (s : State) (c : Nat) (f : Ct → Ct) : State := s.modCore c fun k => { k with ct := f k.ct }
def modEng (s : State) (c : Nat) (e : Eng) (f : EngSt → EngSt) : State := s.modCore c fun k => k.modEng e f

end State

/-! ## Fault records (R37) -/

/-- The 128 bits of a record of sequencer `eng`. A record that no fault has written since the task's start is zero
(R42), its ENG too; a written one never holds CODE 0 (R39). -/
def FaultRec.bits (f : FaultRec) (eng : Nat) : BitVec 128 :=
  f.elem ++ f.sec ++ f.detail ++ BitVec.ofBool f.v ++ BitVec.ofBool f.more ++ f.widx ++ f.code ++
    (if f.code = 0#8 then 0#2 else BitVec.ofNat 2 eng) ++
    f.nsec ++ f.nwidx ++ BitVec.ofBool f.late ++ 0#7

/-- ELEM of a fault not tied to an element. -/
def noElem : BitVec 32 := 0xFFFFFFFF#32

/-- WIDX of a fault at a header. -/
def hdrWidx : BitVec 14 := 0x3FFF#14

/-- The record of a fault that the control sequencer raises itself (R74). -/
def ctRecord (code detail : Nat) : FaultRec :=
  { v := true, code := BitVec.ofNat 8 code, detail := BitVec.ofNat 16 detail, elem := noElem }

/-! ## Service (R75, R77, R78) -/

/-- Gives the engines of the outstanding fork their watermark: 256 word slots from service entry (R78). -/
def EngSt.watermark (forkOut : Bool) (g : EngSt) : EngSt :=
  if forkOut && !g.fault.v && !g.ended then { g with wmLeft := some 256 } else g

/-- A waiting TBAR that is abandoned withdraws its arrival (R129); every other waiting instruction is abandoned without
effect.  An ABORTE that has stopped the engines already leaves them stopped and the queue discarded (log entry 43). -/
def State.abandon (s : State) (c : Nat) : State :=
  let k := s.core c
  match k.ct.wait with
  | none => s
  | some w =>
    let s := s.modCt c fun t => { t with wait := none }
    if w.kind = .tbar then
      match s.team (s.teamOf k.crid) with
      | some t => s.setTeam { t with members := t.members.map fun m => if m.crid = k.crid then { m with arrived := false } else m }
      | none => s
    else s

/-- The progress word of a core (R40). -/
def State.progress (s : State) (c : Nat) : Word :=
  let k := s.core c
  k.fe.retired ++ k.ma.retired ++ k.dr.retired ++ k.forks

/-- A task that faults into service code has its progress word written into its record (R40). -/
def State.noteProgress (s : State) (c : Nat) (scause : Word) : State :=
  if scause = 24#64 ∨ scause = 25#64 then s.setCr (s.core c).crid 7 (s.progress c) else s

/-- Taking an exception of the control sequencer (R75), one step: sepc, scause, stval and SPP are set, the level becomes S and the
pc becomes stvec; a waiting instruction is abandoned, the progress word is written (R40), and the engines get their watermark
(R78). -/
def State.enterService (s : State) (c : Nat) (scause stval sepc : Word) : State :=
  ((s.noteProgress c scause).abandon c).modCore c fun k =>
    { k with
      ct := { k.ct with sepc := sepc &&& ~~~3#64, scause := scause, stval := stval, spp := k.ct.sup, sup := true,
                        pc := k.ct.stvec }
      fe := k.fe.watermark k.forkOut
      ma := k.ma.watermark k.forkOut
      dr := k.dr.watermark k.forkOut }

/-- Releases an engine held at the watermark, and ends the count of the watermark of one not held yet (R77, R84; log entry 43). -/
def EngSt.release (g : EngSt) : EngSt := { g with held := false, wmLeft := none }

/-- Does an engine record stand with V = 1? -/
def Core.anyFault (k : Core) : Bool := k.fe.fault.v || k.ma.fault.v || k.dr.fault.v

/-- The frame view lowered by `n` pages, FT and every address within it unchanged (R98). -/
def View.lower (n : Nat) (v : View) : View :=
  if v.kind = .frame then { v with base := v.base - 65536 * n, size := v.size + 65536 * n } else v

/-- The frame view follows the frame object, which the Foreman has extended (R98): by the pages that its storage has gained, where the
view space below it is free (log entry 44). -/
def State.growFrame (s : State) (c : Nat) : State :=
  let k := s.core c
  let now := s.storageBytes (s.cr k.crid 1) / 65536
  let n := now - k.framePages
  let room := k.views.all fun f => f.kind != .frame || (decide (65536 * n ≤ f.base) &&
    k.views.all fun v => v.kind == .frame || decide (f.base ≤ v.base) || decide (v.base + v.size + 65536 * n ≤ f.base))
  if k.framePages = 0 ∨ n = 0 ∨ !room then s else s.setCore c { k with views := k.views.map (View.lower n), framePages := now }

/-- The return from service (R77): level SPP, pc sepc, V and MORE of the CT record cleared, held engines released; on a return to U
with an engine record standing, service is entered again at once with scause 24.  A frame that has grown shows in the view (R98). -/
def State.returnService (s : State) (c : Nat) : State :=
  let s1 := (s.growFrame c).modCore c fun k =>
    { k with
      ct := { k.ct with sup := k.ct.spp, pc := k.ct.sepc, instret := k.ct.instret + 1#64,
                        fault := { k.ct.fault with v := false, more := false } }
      fe := k.fe.release
      ma := k.ma.release
      dr := k.dr.release }
  let k := s1.core c
  if !k.ct.sup && k.anyFault then s1.enterService c 24#64 0#64 k.ct.pc else s1

/-- Has an engine no word to issue: it is stopped or faulted, or ended or held with nothing to issue again (R84)? -/
def EngSt.quiet (g : EngSt) : Bool := g.stopped || g.fault.v || ((g.ended || g.held) && g.redo.isEmpty)

/-- Is a word of the core's engines in flight: issued, and its effect not complete? -/
def Core.flying (k : Core) : Bool := !k.vPend.isEmpty || !k.mq.isEmpty || !k.mrun.isEmpty || !k.loads.isEmpty || !k.stores.isEmpty

/-! ## Releasing what a task holds (R120, R155) -/

namespace State

/-- Releases the pin of a view. -/
def unpinView (s : State) (v : View) : State :=
  match v.back with
  | .version key _ ver => s.unpin key ver
  | _ => s

/-- Releases the pins of a descriptor: that of its object's version and that of its scale object's (R184). -/
def unpinDesc (s : State) (d : List Word) : State :=
  let h := nth 0#64 d 0
  let ver := fld (nth 0#64 d 1) 32 32
  let sh := nth 0#64 d 5
  let s := if h = 0#64 ∨ ver = 0 then s else s.unpin (Handle.key h) ver
  if sh = 0#64 then s else s.unpin (Handle.key sh) (fld (nth 0#64 d 7) 32 32)

/-- Releases the pins of views, descriptors and OPINs of the task on a core, and removes its views (R120, R155). -/
def releasePins (s : State) (c : Nat) : State :=
  let k := s.core c
  let s := k.views.foldl (fun s v => s.unpinView v) s
  let s := k.sd.foldl (fun s d => s.unpinDesc d.2) s
  let s := k.opins.foldl (fun s p => (List.range p.2.2).foldl (fun s _ => s.unpin p.1 p.2.1) s) s
  s.modCore c fun k => { k with views := [], sd := [], opins := [] }

/-- Entries leave the merge window for their banks in the order of their first entry (R234). -/
def flushWindow (s : State) (c : Nat) : State :=
  let k := s.core c
  match k.winBind with
  | none => s
  | some b =>
    let key := Handle.key b.handle
    let l := layoutOf (Handle.home b.handle) (s.entry key)
    let reqs := k.win.map fun e =>
      let t := unlinear l.rank l.ext e.lin
      let base := 0x60000000000 + benchDie l * 2 ^ 32 + l.proot * 4096 % 2 ^ 40
      ({ core := c, crid := k.crid, key := key, gen := Handle.gen b.handle, pa := base + (elemBit l l.ext t).1 / 8, size := 4
         op := b.op, fmt := b.fmt, x := e.val.toNat, cmp := 0, win := true } : BankReq)
    { s with bankq := s.bankq ++ reqs }.modCore c fun k => { k with win := [] }

/-- The updates under way of a task that is gone belong to no task (R235). -/
def disownUpdates (s : State) (crid : Nat) : State :=
  { s with bankq := s.bankq.map fun r => if r.crid = crid then { r with crid := 0 } else r }

/-- Every token, request and booking of power leave of a core is released: a token is free at once (R82, R140, R451). -/
def dropLeave (s : State) (c : Nat) : State :=
  let d := c / 256
  let g := s.gov d
  let s1 := s.setGov d
    { g with held := g.held.filter fun x => x.1 != c
             reqs := g.reqs.filter fun x => x.2.1 != c, books := g.books.filter fun x => x.1 != c }
  let off := fun (e : EngSt) =>
    { e with leaveReq := none, leaveOk := false, tracks := e.tracks.map fun t => { t with token := false } }
  s1.modCore c fun k => { k with fe := off k.fe, ma := off k.ma, dr := off k.dr }

/-- Discards queued commands that have not started, stops the engines, releases power leave (R82). -/
def abortEngines (s : State) (c : Nat) : State :=
  let stop := fun (e : EngSt) => { e with stopped := true, hold := .none }
  (s.dropLeave c).modCore c fun k => { k with fe := stop k.fe, ma := stop k.ma, dr := stop k.dr, mq := [] }

/-- Have the engines of a core been stopped by an ABORTE or a failure (R82)? -/
def aborted (s : State) (c : Nat) : Bool := (s.core c).fe.stopped && (s.core c).ma.stopped && (s.core c).dr.stopped

/-- Is an abort in this clk the same as one before the next: no engine of the core has a word to issue in between, and none is in flight
(R82)? -/
def quietNow (s : State) (c : Nat) : Bool :=
  let k := s.core c
  (!k.forkOut || engines.all fun e => (k.eng e).quiet) && !k.flying

/-- A task has left its core, or its team: it counts no longer among the members that a pre-emption waits for (R139). -/
def leftCore (s : State) (crid : Nat) : State :=
  { s with preempts := (s.preempts.map fun p => { p with left := p.left.filter (· != crid) }).filter fun p => !p.left.isEmpty }

/-- The end of a task on a core (R120): TTRIG, TLEAVE unless a TCONT was made, claims and drafts, pins and views, the progress word,
the join of J, the frame, the record; the core becomes idle with nothing of the task left. -/
def endTask (s : State) (c : Nat) : State :=
  let k := s.core c
  let t := k.crid
  let tm := s.teamOf t
  let s := (s.flushWindow c).disownUpdates t
  let s := s.setCr t 7 (s.progress c)
  let s := s.trigger t
  let s := (s.claimsOf 1 t).foldl (fun s key => s.closeDraft key) s
  let s := s.releasePins c
  let s := (s.orphanJobs t).orphanColls t
  let s := { s with shapes := s.shapes.filter fun e => !(!e.2.isTeam && e.2.owner == t) }
  let s :=
    if tm = 0 then s
    else if k.cont = 0 then s.leaveTeam tm t
    else
      match s.team tm with
      | some m => (s.setTeam { m with members := m.members.map fun x => if x.crid = t then { x with left := true } else x }).tryGang tm
      | none => s
  let s := if k.j = 0 then s else s.decJoin k.j
  let s := if tm ≠ 0 ∧ k.cont ≠ 0 then s.tryConts tm else s
  let s := match k.frameSup with
    | some d => s.pushFp d (s.cr t 1)
    | none => s
  let s := (s.setSt t 0).leftCore t
  s.setCore c { placed := k.placed, gNow := List.replicate 16 0#2 }

/-- The end of a task that fails, with its TASKFAIL notice (R76). -/
def endFailed (s : State) (c code detail : Nat) : State :=
  let k := s.core c
  ((s.expose c).endTask c).postNotice (k.crid * 2 ^ 32 + code * 2 ^ 24 + detail * 2 ^ 8 + 5) k.ct.pc.toNat

/-- A task fails (R76): the engines stop as by ABORTE, from the next clk; the task ends when nothing of its fork is in flight. -/
def failTask (s : State) (c : Nat) (code detail : Nat) : State :=
  if s.quietNow c then (s.abortEngines c).endFailed c code detail
  else
    s.modCore c fun k =>
      { k with failed := some (code, detail)
               ct := { k.ct with wait := some { kind := .texit, a := 0#5, b := 0#5, d := 0#5, since := s.pcc } } }

/-- The CT record after a further CT fault: a record that stands keeps its fault and gains MORE (R37). -/
def ctFaulted (f : FaultRec) (code detail : Nat) : FaultRec :=
  if f.v then { f with more := true } else ctRecord code detail

/-- A fault that the control sequencer raises (R74): the record, then service entry with scause 25; at level S the task fails
with the CODE and DETAIL that the record holds (R76). -/
def raiseCt (s : State) (c : Nat) (code detail : Nat) (stval : Word) : State :=
  let k := s.core c
  let f := ctFaulted k.ct.fault code detail
  let s := s.modCt c fun t => { t with fault := f }
  if k.ct.sup then s.failTask c f.code.toNat f.detail.toNat else s.enterService c 25#64 stval k.ct.pc

/-! ## Faults of engines (R36, R37) -/

/-- The position of the first word an engine has not issued: section and word index, the header when it stands at one. After the
stream's end (R96) there is no such word, and the place is the value given. -/
def nextPos (g : EngSt) (w : Word) : Half × BitVec 14 :=
  if g.ended then (w.extractLsb' 0 16, w.extractLsb' 16 14)
  else if g.inSec then (g.secNum, BitVec.ofNat 14 g.slot) else (g.secNum, hdrWidx)

/-- A fault of the word at the head, found at issue: nothing of it commits, the engine stops (R36). -/
def raiseEng (s : State) (c : Nat) (e : Eng) (code detail : Nat) (elem : BitVec 32) : State :=
  s.modEng c e fun g =>
    { g with hold := .none, faultAt := s.pcc,
             fault := { v := true, code := BitVec.ofNat 8 code, detail := BitVec.ofNat 16 detail, elem := elem,
                        sec := g.secNum, widx := if g.inSec then BitVec.ofNat 14 g.slot else hdrWidx } }

/-- A fault found after issue (R36): recorded with LATE = 1 and the position of the first word not issued, or MORE set when a
record stands; unless it is SCHEDMISS the word is kept for RESUME. NSEC and NWIDX of a stream that has ended are free (assumption
42). -/
def raiseLate (s : State) (c : Nat) (e : Eng) (code detail : Nat) (elem : BitVec 32) (w : Kept) : State :=
  let fr := s.draw
  let s := if ((s.core c).eng e).ended then fr.2 else s
  s.modEng c e fun g =>
    let g := if code = FCode.schedmiss then { g with missed := g.missed ++ [w.sec] } else { g with kept := g.kept ++ [w] }
    if g.fault.v then { g with fault := { g.fault with more := true } }
    else
      { g with
        faultAt := s.pcc
        fault := { v := true, code := BitVec.ofNat 8 code, detail := BitVec.ofNat 16 detail, elem := elem, sec := w.sec,
                   widx := BitVec.ofNat 14 w.widx, late := true, nsec := (nextPos g fr.1).1, nwidx := (nextPos g fr.1).2 } }

/-! ## Sections (R16, R19) -/

/-- One word of section `sec` is in flight. -/
def launchWord (g : EngSt) (sec : Half) : EngSt :=
  { g with tracks := g.tracks.map fun t => if t.num = sec then { t with flight := t.flight + 1 } else t }

/-- One word of section `sec` has retired. -/
def landWord (g : EngSt) (sec : Half) : EngSt :=
  { g with tracks := g.tracks.map fun t => if t.num = sec then { t with flight := t.flight - 1 } else t }

/-- A word of section `sec` faulted after issue: it does not retire (R36). -/
def stickWord (g : EngSt) (sec : Half) : EngSt :=
  { g with tracks := g.tracks.map fun t =>
      if t.num = sec then { t with flight := t.flight - 1, stuck := t.stuck + 1 } else t }

/-- The section at the front has retired when its last word has issued and none is in flight or kept (R19). -/
def frontDone (g : EngSt) : Bool :=
  match g.tracks with
  | t :: _ => t.issued && t.flight == 0 && t.stuck == 0 && !g.missed.contains t.num
  | [] => false

end State

end Sys2Proof.Machine
end

