-- ==== Sys2Proof/Machine/Operands.lean ====
section
/-!
DEFINITION. Operands of engine words: the names of v, p and m registers and their rotation (R44, R69), dead registers (R242),
banks asleep (R244), masks (R69, R250), the forms of the VR family (R47, R48, R250), and the reading and writing of the
register files.  Elements are numbers below 2^32 (below 2^64 for a pair).
-/

namespace Sys2Proof.Machine

/-- What a register field of a word names. -/
inductive Role where
  /-- The form does not name the field. -/
  | none
  /-- A vector register, a pair of them, a predicate register, a moment register. -/
  | v | w | p | m
deriving DecidableEq, Repr

/-- The form of a VR word: the role of each register field, whether B may be an immediate, whether the mask fields and ZM are
used, whether SUB is used and its largest value, the bits of IMM that are used and its largest value. -/
structure VForm where
  d : Role := .none
  a : Role := .none
  b : Role := .none
  c : Role := .none
  bi : Bool := false
  mask : Bool := true
  zm : Bool := true
  subUsed : Bool := false
  subMax : Nat := 0
  immBits : Nat := 0
  immMax : Nat := 2 ^ 32 - 1
  /-- IMM must be zero when BI = 0 (R315). -/
  strict : Bool := false
deriving DecidableEq, Repr

/-- Bits [81:80] and a guard slot without its enable (R46, R47). -/
def guardBreaks (g : Guard) : Bool := g.z80 != 0#2 || (!g.ge && g.gs != 0#4)

/-- May a field hold this number under its role? -/
def Role.fits (r : Role) (n : Nat) : Bool :=
  match r with
  | .none | .v => true
  | .w => n % 2 == 0
  | .p | .m => decide (n < 16)

/-- The ILLOP detail of a VR word that breaks its form: 0x0011 for a bit the form does not use, 0x0012 for a value out of range
(R47, R250). -/
def VForm.illop (F : VForm) (f : VrWord) : Option Nat :=
  let immUsed := if f.bi then 32 else if F.bi && !F.strict && F.immBits == 0 then 32 else F.immBits
  if f.z48 != 0#1 || f.z0 != 0#16 || (F.d == .none && f.d != 0#5) || (F.a == .none && f.a != 0#5) ||
      ((F.b == .none || f.bi) && f.b != 0#5) || (F.c == .none && f.c != 0#5) || (f.bi && !F.bi) ||
      (!F.mask && (f.pm != 0#4 || f.me || f.zm)) || (!F.zm && f.zm) || decide (2 ^ immUsed ≤ f.imm.toNat) ||
      (!F.subUsed && f.sub != 0#4) then some 0x11
  else if decide (F.subMax < f.sub.toNat) || (!f.bi && F.immBits != 0 && decide (F.immMax < f.imm.toNat)) || !F.d.fits f.d.toNat ||
      !F.a.fits f.a.toNat || (!f.bi && !F.b.fits f.b.toNat) || !F.c.fits f.c.toNat then some 0x12
  else none

/-! ## Lists of bits -/

/-- The low `n` bits of a number, lowest first. -/
def bitList : Nat → Nat → List Bool
  | 0, _ => []
  | n + 1, x => (x % 2 == 1) :: bitList n (x / 2)

/-- The number of a list of bits, lowest first. -/
def ofBits : List Bool → Nat
  | [] => 0
  | b :: t => b2n b + 2 * ofBits t

def zeros : List Nat := List.replicate 1024 0

/-- The least index, from `i` on, at which a list of Booleans is true. -/
def firstTrue : Nat → List Bool → Option Nat
  | _, [] => none
  | i, b :: t => if b then some i else firstTrue (i + 1) t

namespace Core

/-- rot_v (R69). -/
def rotV (k : Core) (n : Nat) : Nat := if n < 16 then n else 16 + (n - 16 + k.vrb.toNat) % 16

/-- rot_p (R69). -/
def rotP (k : Core) (n : Nat) : Nat := if n < 8 then n else 8 + (n - 8 + k.prb.toNat) % 8

/-- Is a physical vector register dead (R242)? -/
def deadV (k : Core) (p : Nat) : Bool :=
  decide (16 ≤ p) && decide (16 + k.live.toNat ≤ 16 + (p - 16 + 16 - k.vrb.toNat) % 16)

/-- Is the bank of a physical vector register, moment register or tile awake (R44, R244)? -/
def awakeV (k : Core) (p : Nat) : Bool := nth .awake k.bankV (p / 8) == .awake
def awakeM (k : Core) (r : Nat) : Bool := nth .awake k.bankM (r / 8) == .awake
def awakeA (k : Core) (t : Nat) : Bool := nth .awake k.bankA (t / 16) == .awake

/-- A physical vector register as numbers. -/
def physV (k : Core) (p : Nat) : List Nat :=
  match Tbl.find k.v p with
  | some l => fit 0 1024 (l.map (·.toNat))
  | none => zeros

/-- A vector register by name: a dead one reads zero (R242). -/
def readV (k : Core) (n : Nat) : List Nat := if k.deadV (k.rotV n) then zeros else k.physV (k.rotV n)

/-- A pair by its even name (R44). -/
def readW (k : Core) (n : Nat) : List Nat := List.zipWith (fun lo hi => lo + 2 ^ 32 * hi) (k.readV n) (k.readV (n + 1))

def physP (k : Core) (p : Nat) : BitVec 1024 := Tbl.get 0#1024 k.p p
def readP (k : Core) (n : Nat) : BitVec 1024 := k.physP (k.rotP n)

/-- A physical moment register: means and variances. -/
def physM (k : Core) (r : Nat) : List (Elem32 × Elem32) := fit (0#32, 0#32) 1024 (Tbl.get [] k.m r)

/-- active(i) for every element (R69); `rot` says whether the mask's name rotates. -/
def activeList (k : Core) (me : Bool) (pm : Nat) (rot : Bool) : List Bool :=
  if me then bitList 1024 (if rot then k.readP pm else k.physP pm).toNat else List.replicate 1024 true

/-- Is element `i` of a physical vector register poisoned (R251, R457)? -/
def poisV (k : Core) (p i : Nat) : Bool := k.vPois.contains (512 * p + i / 2)

/-- Is element `i` of a vector register poisoned, by name? -/
def poisNamed (k : Core) (n i : Nat) : Bool := !k.deadV (k.rotV n) && k.poisV (k.rotV n) i

def poisM (k : Core) (r i : Nat) : Bool := k.mPois.contains (1024 * r + i)

/-- Names resolved as a field's role says. -/
def regsV (k : Core) (r : Role) (n : Nat) : List Nat :=
  match r with
  | .v => [k.rotV n]
  | .w => [k.rotV n, k.rotV (n + 1)]
  | _ => []

/-- A word that names a register in a bank that is not AWAKE raises REGCOLD (R244). -/
def cold (k : Core) (F : VForm) (f : VrWord) : Bool :=
  let reg := fun (r : Role) (n : Nat) =>
    match r with
    | .m => !k.awakeM n
    | _ => (k.regsV r n).any fun p => !k.awakeV p
  reg F.d f.d.toNat || reg F.a f.a.toNat || (!f.bi && reg F.b f.b.toNat) || reg F.c f.c.toNat

/-- An operand's elements as its role says; for B the immediate in every element when BI is set (R250). -/
def operand (k : Core) (r : Role) (n : Nat) : List Nat :=
  match r with
  | .v => k.readV n
  | .w => k.readW n
  | _ => zeros

def operandB (k : Core) (F : VForm) (f : VrWord) : List Nat :=
  if f.bi then
    List.replicate 1024 (match F.b with
      | .w => imod (signExt f.imm.toNat 32) (2 ^ 64)
      | _ => f.imm.toNat)
  else k.operand F.b f.b.toNat

/-- The least active element at which one of the operands is poisoned (R251). -/
def poisonedAt (k : Core) (F : VForm) (f : VrWord) (act : List Bool) : Option Nat :=
  if k.vPois.isEmpty then none
  else
    let bad := fun (r : Role) (n i : Nat) =>
      match r with
      | .v => k.poisNamed n i
      | .w => k.poisNamed n i || k.poisNamed (n + 1) i
      | _ => false
    firstTrue 0 (List.zipWith (fun a i =>
      a && (bad F.a f.a.toNat i || (!f.bi && bad F.b f.b.toNat i) || bad F.c f.c.toNat i)) act (List.range 1024))

end Core

/-! ## What a word writes -/

/-- Masking (R250): an inactive element is not written, or is written with zero. -/
def masked (zm : Bool) (act : List Bool) (r : List Nat) : List (Option Nat) :=
  List.zipWith (fun a x => if a then some x else if zm then some 0 else none) act r

/-- A write of a vector register by name; a dead destination discards it (R242). -/
def Core.outV (k : Core) (n : Nat) (r : List (Option Nat)) : List MaDst :=
  let p := k.rotV n
  if k.deadV p then [] else [.v p (r.map fun o => o.map (BitVec.ofNat 32))]

/-- A write of a pair. -/
def Core.outW (k : Core) (n : Nat) (r : List (Option Nat)) : List MaDst :=
  k.outV n (r.map fun o => o.map (· % 2 ^ 32)) ++ k.outV (n + 1) (r.map fun o => o.map (· / 2 ^ 32))

/-- A write of a predicate register: an inactive bit is kept, or cleared (R252). -/
def Core.outP (k : Core) (n : Nat) (r : List (Option Nat)) : List MaDst :=
  [.p (k.rotP n) (BitVec.ofNat 1024 (ofBits (r.map (·.isSome))))
    (BitVec.ofNat 1024 (ofBits (r.map fun o => o == some 1)))]

/-- A write as the role of D says. -/
def Core.out (k : Core) (r : Role) (n : Nat) (l : List (Option Nat)) : List MaDst :=
  match r with
  | .v => k.outV n l
  | .w => k.outW n l
  | .p => k.outP n l
  | _ => []

/-- Lists elements written over the old ones. -/
def overlay {α : Type} : List α → List (Option α) → List α
  | a :: t, none :: u => a :: overlay t u
  | _ :: t, some b :: u => b :: overlay t u
  | l, [] => l
  | [], _ => []

/-- Writes elements of a physical vector register; a pair of elements wholly written loses its poison mark (R457). -/
def Core.writeV (k : Core) (p : Nat) (els : List (Option Elem32)) : Core :=
  let old := fit 0#32 1024 (Tbl.get [] k.v p)
  let pois :=
    if k.vPois.isEmpty then k.vPois
    else
      k.vPois.filter fun e =>
        e / 512 != p || (nth none els (2 * (e % 512))).isNone || (nth none els (2 * (e % 512) + 1)).isNone
  { k with v := Tbl.put k.v p (overlay old els), vPois := pois }

def Core.writeM (k : Core) (r : Nat) (els : List (Option (Elem32 × Elem32))) : Core :=
  let pois := if k.mPois.isEmpty then k.mPois else k.mPois.filter fun e => e / 1024 != r || (nth none els (e % 1024)).isNone
  { k with m := Tbl.put k.m r (overlay (k.physM r) els), mPois := pois }

def Core.writeP (k : Core) (p : Nat) (mask bits : BitVec 1024) : Core :=
  { k with p := Tbl.put k.p p ((k.physP p &&& ~~~mask) ||| (bits &&& mask)) }

/-- Writes what an MA word writes, in its write clk (R241). -/
def Core.writeDst (k : Core) : MaDst → Core
  | .v p els => k.writeV p els
  | .p r mask bits => k.writeP r mask bits
  | .m r els => k.writeM r els
  | .mctl w => { k with mctl := w }

/-- Do two writes reach one register (R249)? -/
def MaDst.same : MaDst → MaDst → Bool
  | .v a _, .v b _ => a == b
  | .p a _ _, .p b _ _ => a == b
  | .m a _, .m b _ => a == b
  | _, _ => false

/-- Clears the rotating registers that have become dead, and drops results in flight to them (R242); `was` is the core before
the change. -/
def Core.buryDead (k was : Core) : Core :=
  let died := fun p => k.deadV p && !was.deadV p
  { k with
    v := k.v.filter fun e => !died e.1
    vPois := k.vPois.filter fun e => !died (e / 512)
    vPend := k.vPend.map fun q =>
      { q with dst := q.dst.filter fun d =>
          match d with
          | .v p _ => !died p
          | _ => true }
    loads := k.loads.map fun w => { w with drop := w.drop ++ (List.range 32).filter died } }

/-- The state of bank `b` of a register file: 0 vector, 1 moment, 2 accumulator (R244). -/
def bankSt (k : Core) (file b : Nat) : BankSt :=
  match file with
  | 0 => nth .awake k.bankV b
  | 1 => nth .awake k.bankM b
  | _ => nth .awake k.bankA b

end Sys2Proof.Machine
end

