-- ==== Sys2Proof/Machine/View.lean ====
section
/-!
DEFINITION. Accesses of a control sequencer through its views (R97, R169, R172, R174): translation, the checks in their order, loads
and stores of bytes, and the fetching of code.
-/

namespace Sys2Proof.Machine

/-- What a store, or any step that may have to wait, answers. -/
inductive Acc where
  | ok (s : State)
  | bad (f : Flt)
  | wait (s : State)
deriving Repr

namespace View

def holds (v : View) (a : Nat) : Bool := decide (v.base ≤ a) && decide (a < v.base + v.size)

end View

namespace State

/-- The view that an address lies in. -/
def viewAt (k : Core) (a : Nat) : Option View := k.views.find? fun v => v.holds a

/-- Does a byte of the access lie in the frame guard, the 64 KiB below FB (R97)? -/
def inGuard (k : Core) (a n : Nat) : Bool :=
  k.views.any fun v =>
    v.kind = .frame && decide (a < v.base) && decide (v.base ≤ a + n - 1 + 65536)

/-- The rights a view lacks for an access: read 1, write 2, execute 0x10 (R150). -/
def viewLacks (v : View) (need : Nat) : Nat :=
  if need = 0x10 then (if v.x then 0 else 0x10)
  else (if need % 2 = 1 ∧ !v.r then 1 else 0) + (if need / 2 % 2 = 1 ∧ !v.w then 2 else 0)

/-- The place of a byte offset of what a view maps: its key, and the page when the view maps an object. -/
def backKey (s : State) (b : Backing) (off : Nat) : Rs Nat :=
  let obj := fun (key : Nat) (v : VSel) =>
    let l := layoutOf (key / 2 ^ 29) (s.entry key)
    match s.pageKey key l v (off / 65536) with
    | .ok k => .ok (k + off % 65536)
    | .bad f => .bad f
  match b with
  | .phys pa => .ok (pa + off)
  | .version key _ ver => obj key (.ver ver)
  | .draft key _ => obj key .draft
  | .live key _ => obj key .live

/-- The views that the first and the last byte of an access lie in; no access is longer than the least view. -/
def viewsOf (k : Core) (a n : Nat) : List View := [viewAt k (a % 2 ^ 64), viewAt k ((a + n - 1) % 2 ^ 64)].filterMap id

/-- Does a view of a task on a core map a Bench object that the core may not reach (R224)? -/
def benchAway (s : State) (c : Nat) (v : View) : Bool :=
  match v.back with
  | .live key h =>
    let l := layoutOf (key / 2 ^ 29) (s.entry key)
    l.bench && l.gen == Handle.gen h && !s.benchHere (s.principal c) l
  | _ => false

/-- Translates every byte of an access of a core, with the checks of R172 in their order; residency and routes are looked at byte by byte, from
the lowest on (log entry 47). -/
def translate (s : State) (c a n need : Nat) : Rs (List Nat) :=
  let k := s.core c
  let at_ := fun i => (a + i) % 2 ^ 64
  if inGuard k a n then .bad ⟨FCode.framefull, 0⟩
  else if (List.range n).any fun i => decide (2 ^ 48 ≤ at_ i) || (viewAt k (at_ i)).isNone then .bad ⟨FCode.bounds, 0x100⟩
  else
    let lack := (List.range n).foldl (fun m i =>
      match viewAt k (at_ i) with
      | some v => m ||| viewLacks v need
      | none => m) 0
    if lack != 0 then .bad ⟨FCode.rights, lack⟩
    else if (viewsOf k a n).any (s.benchAway c) then .bad ⟨FCode.rights, 0x42⟩
    else
      (List.range n).foldl (fun r i =>
        match r with
        | .bad f => .bad f
        | .ok l =>
          match viewAt k (at_ i) with
          | none => .bad ⟨FCode.bounds, 0x100⟩
          | some v =>
            match s.backKey v.back (at_ i - v.base) with
            | .ok key => .ok (l ++ [key])
            | .bad f => .bad f) (.ok [])

/-- The address of an access that begins at `a` whose page is not there: `a`, or the next page's. -/
def absentByte (s : State) (k : Core) (a : Nat) : Nat :=
  match viewAt k a with
  | none => a
  | some v =>
    match s.backKey v.back (a - v.base) with
    | .ok _ => (a / 65536 + 1) * 65536
    | .bad _ => a

/-- A MISSOBJ with detail 0x0002 posts an ABSENT notice at the home, naming the shard of the page that is not there (R431); other faults
post nothing. -/
def noteAbsent (s : State) (k : Core) (a : Nat) (f : Flt) : State :=
  if f.code = FCode.missobj ∧ f.detail = 2 then
    let a := s.absentByte k a
    match viewAt k a with
    | none => s
    | some v =>
      let post := fun (key : Nat) (h : Word) (ver : Nat) =>
        let l := layoutOf (key / 2 ^ 29) (s.entry key)
        s.noteAt (Handle.gen h) l.home (key % 2 ^ 29) (pageShard l ((a - v.base) / 65536)) ver
      match v.back with
      | .version key h ver => post key h ver
      | .draft key h => post key h 0
      | .live key h => post key h (s.curv key)
      | .phys _ => s
  else s

/-- Does an access that passes the checks of its address and rights wait: the entry of an object that it touches is locked, and no handle
cache holds it (R149, R420)? -/
def viewHeld (s : State) (c a n need : Nat) : Bool :=
  !s.ylocks.isEmpty &&
    ((viewsOf (s.core c) a n).any fun v =>
      match v.back with
      | .phys _ => false
      | .version _ h _ | .draft _ h | .live _ h => !s.walkReady (s.principal c) h) &&
    (match s.translate c a n need with
     | .ok _ => true
     | .bad f => f.code == FCode.missobj || f.code == FCode.linkdead)

/-- Reads `n` bytes through the views of a core (R172): poisoned data raises UNCORR. -/
def viewLoad (s : State) (c a n : Nat) : Rs (List Byte) :=
  match s.translate c a n 1 with
  | .bad f => .bad f
  | .ok keys =>
    if keys.any fun k => s.poisoned k 1 then .bad ⟨FCode.uncorr, 0⟩ else .ok (keys.map fun k => s.byte k)

/-- Bytes with their places, gathered into runs of consecutive places. -/
def runs : List Nat → List Byte → List (Nat × List Byte)
  | k :: ks, b :: bs =>
    match runs ks bs with
    | (k', l) :: t => if k' = k + 1 then (k, b :: l) :: t else (k, [b]) :: (k', l) :: t
    | [] => [(k, [b])]
  | _, _ => []

/-- Writes bytes at translated places, each run of consecutive places as one write. -/
def writeKeys (s : State) (ks : List Nat) (bs : List Byte) : State :=
  (runs ks bs).foldl (fun s r => s.write r.1 r.2) s

/-- The pages of drafts that an access touches: (object key, page). -/
def draftPages (k : Core) (a n : Nat) : List (Nat × Nat) :=
  (List.range n).foldl (fun l i =>
    match viewAt k (a + i) with
    | some v =>
      match v.back with
      | .draft key _ =>
        let e := (key, (a + i - v.base) / 65536)
        if l.contains e then l else l ++ [e]
      | _ => l
    | none => l) []

/-- Gives the drafts their own copies of the pages to be written; none while a frame is wanting (R157, R426). -/
def ownPages (s : State) : List (Nat × Nat) → Option State
  | [] => some s
  | (key, pg) :: t =>
    match s.ownPage key (layoutOf (key / 2 ^ 29) (s.entry key)) pg with
    | none => none
    | some s1 => ownPages s1 t

/-- The package whose frames a page of an object is given (R424, R426). -/
def poolOf (s : State) (l : Layout) (page : Nat) : Nat := (s.rootKey l (pageShard l page)).2

/-- A step that waits for frames of package `p` posts one POOL notice (R161, R426). -/
def waitPool (s : State) (c p : Nat) : State :=
  if (s.core c).poolNote then s else (s.postPool p).modCore c fun k => { k with poolNote := true }

/-- Writes bytes through the views of a core: checked whole before any piece is written (R172); a store into a locked page waits
(R428), and so do one to an object whose entry is locked (R420) and one that needs a frame when there is none (R426). -/
def viewStore (s : State) (c a : Nat) (bs : List Byte) : Acc :=
  let k := s.core c
  let n := bs.length
  if s.viewHeld c a n 2 then .wait s
  else
  match s.translate c a n 2 with
  | .bad f => .bad f
  | .ok keys =>
    if keys.any fun x => s.pageLocked x then .wait s
    else
      let pages := draftPages k a n
      match s.ownPages pages with
      | none =>
        let e := nth (0, 0) pages 0
        .wait (s.waitPool c (s.poolOf (layoutOf (e.1 / 2 ^ 29) (s.entry e.1)) e.2))
      | some s1 =>
        match s1.translate c a n 2 with
        | .bad f => .bad f
        | .ok keys => .ok (((s1.writeKeys keys bs).noteRemote keys).modCore c fun k => { k with poolNote := false })

/-- Does a byte of code lie in way 6 or 7 of the instruction caches of a cluster, in a line that did not fail when it was filled (R143)? -/
def inWays (s : State) (cl key : Nat) : Bool :=
  let k := s.cluster cl
  !k.ways.isEmpty && (k.ways.any fun w => decide (w.2.1 ≤ key) && decide (key < w.2.1 + w.2.2)) &&
    !k.wayBad.contains (key / protSize key * protSize key)

/-- Fetches `n` bytes of code through a view with the execute right; none when they cannot be fetched (FETCHERR, R39). What ways 6 and 7
hold is not read again from storage, where it may have been poisoned since (R143; log entry 47). -/
def fetch (s : State) (c a n : Nat) : Option (List Byte) :=
  match s.translate c a n 0x10 with
  | .bad _ => none
  | .ok keys => if keys.any fun k => s.poisoned k 1 && !s.inWays (c / 16) k then none else some (keys.map fun k => s.byte k)

/-- A fault of a control-sequencer access: the notice it posts, then R74 with stval the address. -/
def raiseAccess (s : State) (c a : Nat) (f : Flt) : State :=
  (s.noteAbsent (s.core c) a f).raiseCt c f.code f.detail (BitVec.ofNat 64 a)

/-- Reads a structure of `n` bytes at a view address, as loads do; a fault is raised at the instruction, which is tried again when it has
to wait (R420). -/
def viewRead (s : State) (c a n : Nat) (cont : List Byte → State) : State :=
  if s.viewHeld c a n 1 then s
  else
  match s.viewLoad c a n with
  | .bad f => s.raiseAccess c a f
  | .ok bs => cont bs

end State

end Sys2Proof.Machine
end

