-- ==== Sys2Proof/Machine/Issue.lean ====
section
/-!
DEFINITION. The issue of engine words: the place of the word at the head, the checks made before its guard (R47, R64), the guard
(R25), faults found at issue and after it (R36, R84), the back-edge decisions (R91) and the end of a section.
-/

namespace Sys2Proof.Machine

/-- What an engine word that executes answers. -/
inductive Iss where
  /-- A fault: nothing commits. -/
  | flt (code detail : Nat) (elem : BitVec 32)
  /-- The word stays at the head. -/
  | stall (h : Hold) (s : State)
  /-- The word has issued. -/
  | go (s : State)
  /-- The word has issued and ended its stream (R96). -/
  | ended (s : State)
  /-- A fault that leaves a mark in the state given (R235). -/
  | fail (s : State) (code detail : Nat) (elem : BitVec 32)
  /-- A LOOP with count 0 has issued: the decisions are made for the slot given (R90). -/
  | skip (s : State) (last : Nat)
  /-- The word has left issue, and a fault of it is found in the same clk (R29). -/
  | late (code detail : Nat)
deriving Repr

namespace EngSt

/-- Section and index of the word being issued: of the word issued again under R84, or of the word at the head. -/
def place (g : EngSt) : Half × Nat :=
  match g.redo with
  | k :: _ => (k.sec, k.widx)
  | [] => (g.secNum, g.slot)

/-- LEN of the section being issued (R54). -/
def len (g : EngSt) : Nat := fld g.hdr 50 14

/-- The level that LOOPR set and that is active, if any. -/
def rotLevel (g : EngSt) : Option LoopLv := g.loops.find? fun l => l.active && l.rot

end EngSt

namespace Core

/-- loopr_rotate (R93): VRB and PRB go back by one, registers that become dead are cleared, p8 is rewritten. -/
def rotate (k : Core) (l : LoopLv) : Core :=
  let k1 := ({ k with vrb := k.vrb - 1#4, prb := k.prb - 1#3 } : Core).buryDead k
  k1.writeP (k1.rotP 8) (BitVec.allOnes 1024) (if l.started < l.cnt then BitVec.allOnes 1024 else 0#1024)

/-- The back-edge decisions for slot `last`, from level `n - 1` down (R91); `next` is the slot that follows without them. -/
def backEdges (e : Eng) (last next : Nat) : Nat → Core → Core × Nat
  | 0, k => (k, next)
  | n + 1, k =>
    let g := k.eng e
    let l := nth {} g.loops n
    if l.active && l.le == last then
      if 1 < l.lc then
        let l' := { l with lc := l.lc - 1, started := if l.rot && decide (l.started < l.cnt) then l.started + 1 else l.started }
        let k1 := k.setEng e { g with loops := fillAt {} g.loops n l' }
        (if l.rot then k1.rotate l else k1, l.ls)
      else
        backEdges e last (last + 1) n (k.setEng e { g with loops := fillAt {} g.loops n { l with lc := 0, active := false } })
    else backEdges e last next n k

/-- The engine goes on after the word at slots `slot` to `last`: back edges, the watermark's count (R78), the end of the
section (R55), after which the next header may be examined from the next clk (R18). -/
def advance (k : Core) (e : Eng) (slots last next now : Nat) : Core :=
  let (k1, nx) := k.backEdges e last next 4
  k1.modEng e fun g =>
    let g := { g with slot := nx, hold := .none, wmLeft := g.wmLeft.map (· - slots) }
    if g.len ≤ nx then
      { g with
        inSec := false, slot := 0, hdrAt := now + 1, secNum := g.secNum + 1#16, hdrPc := g.hdrPc + 8#64 + BitVec.ofNat 64 (12 * g.len),
        waMet := false, wbMet := false, leaveReq := none, leaveOk := false
        tracks := g.tracks.map fun t => if t.num = g.secNum then { t with issued := true } else t }
    else g

end Core

namespace State

/-- A word of the section at `place` is in flight from now on. -/
def launch (s : State) (c : Nat) (e : Eng) : State := s.modEng c e fun g => launchWord g g.place.1

/-- A fault of the word being issued: at the head it is a fault found at issue (R36); of a word issued again it is found after
issue, and the words not yet issued again stay to be issued after it and after the words kept with it (R84; log entry 32). -/
def issueFault (s : State) (c : Nat) (e : Eng) (code detail : Nat) (elem : BitVec 32) : State :=
  match ((s.core c).eng e).redo with
  | [] => s.raiseEng c e code detail elem
  | w :: t => (s.raiseLate c e code detail elem w).modEng c e fun g => { g with redo := t }

/-- The word being issued has issued: a word issued again leaves the list of R84 and does not count towards the watermark (log entry
43), any other lets the engine advance. -/
def issued (s : State) (c : Nat) (e : Eng) (slots last : Nat) : State :=
  match ((s.core c).eng e).redo with
  | w :: t =>
    s.modEng c e fun g =>
      { g with redo := t, hold := .none, busyTo := max g.busyTo (s.pcc + 1),
               tracks := g.tracks.map fun x => if x.num = w.sec then { x with stuck := x.stuck - 1 } else x }
  | [] =>
    s.modCore c fun k => (k.advance e slots last (last + 1) s.pcc).modEng e fun g => { g with busyTo := max g.busyTo (s.pcc + 1) }

/-- The state of a guard slot as the engines see it (R24), as the code of R88. -/
def guardSeen (s : State) (c : Nat) (g : BitVec 4) : BitVec 2 := nth 0#2 (s.core c).gSeen g.toNat

/-- What a guard decides: none while its slot is UNRESOLVED (R25). -/
def guardTake (s : State) (c : Nat) (g : Guard) : Option Bool :=
  if !g.ge then some true
  else
    let v := s.guardSeen c g.gs
    if v = 0#2 then none else some ((v == 3#2) != g.gn)

end State

/-- What the guard of the word being issued decides: a word issued again, and an ESTOP that already waits for its updates, has been taken
before, and that decision is final (R25, R84, R235).  A word that its own wait then holds at the head is decided when it is first tried, and
not again when it leaves (log entry 47). -/
def State.guardOf (s : State) (c : Nat) (en : EngSt) (g : Guard) : Option Bool :=
  if en.redo.isEmpty && en.hold != .estop then s.guardTake c g else some true

/-- The issue of an engine word: a word whose slot is UNRESOLVED is held at the head (R25); one that leaves the head is checked for ILLOP
and then discarded or executed as its guard decides (R64).  `illop` finds the ILLOP, `slots` is the number of word slots, `body` is what
the word does when it executes: the core, the engine and the state are its arguments. -/
def issueWord (g : Guard) (slots : Nat) (illop : Core → EngSt → Option Nat) (body : Nat → Eng → State → Iss) (s : State) :
    Host.Outcome State Fault Refusal :=
  match s.agent with
  | .seq c (.eng e) =>
    let k := s.core c
    let en := k.eng e
    let last := en.place.2 + slots - 1
    let act := fun (_ : Unit) =>
      match body c e s with
      | .flt code detail elem => s.issueFault c e code detail elem
      | .stall h s => s.modEng c e fun x => { x with hold := h }
      | .go s => s.issued c e slots last
      | .skip s l => s.issued c e slots l
      | .ended s => s
      | .late code detail =>
        (s.issued c e slots last).raiseLate c e code detail noElem
          { sec := en.place.1, widx := en.place.2, w0 := 0#96, w1 := 0#96, w2 := 0#96 }
      | .fail s code detail elem => s.issueFault c e code detail elem
    match s.guardOf c en g with
    | none => .next (s.modEng c e fun x => { x with hold := .guard })
    | some take =>
      match (if guardBreaks g then some 0x11 else illop k en) with
      | some d => .next (s.issueFault c e FCode.illop d noElem)
      | none => .next (if take then act () else s.issued c e slots last)
  | _ => .next s

/-- An element's index as ELEM. -/
def elemNo (i : Nat) : BitVec 32 := BitVec.ofNat 32 i

end Sys2Proof.Machine
end

