-- ==== Sys2Proof/Machine/Flags.lean ====
section
/-!
DEFINITION. Comparisons, conditions and saturation of the vector words (R252, R253), and FP32 arithmetic on bit patterns (R250).
-/

namespace Sys2Proof

/-- A rounding mode of a vector word: SUB 0 to 4 (R250). -/
def vRound (sub : Nat) : RMode :=
  match sub with
  | 1 => .rtz
  | 2 => .rup
  | 3 => .rdn
  | 4 => .rna
  | _ => .rne

def fpOf (x : Nat) : FVal := FFmt.fp32.decode x

/-- The exact sum, with the sign of a zero sum of opposite signs as the mode says (IEEE 754). -/
def sumMode (m : RMode) (x y : FVal) : FVal :=
  match x.add y with
  | .fin n a =>
    if a.isZero then
      match x, y with
      | .fin s u, .fin t w => if u.isZero && w.isZero && s == t then .fin n a else if m = .rdn then .fin true a else .fin false a
      | _, _ => .fin n a
    else .fin n a
  | v => v

def fadd (m : RMode) (a b : Nat) : Nat := FFmt.fp32.round m (sumMode m (fpOf a) (fpOf b))
def fsub (m : RMode) (a b : Nat) : Nat := FFmt.fp32.round m (sumMode m (fpOf a) (fpOf b).negate)
def fmul (m : RMode) (a b : Nat) : Nat := FFmt.fp32.round m ((fpOf a).mul (fpOf b))
/-- a times b plus c with one rounding. -/
def ffma (m : RMode) (a b c : Nat) : Nat := FFmt.fp32.round m (sumMode m ((fpOf a).mul (fpOf b)) (fpOf c))
def ffms (m : RMode) (a b c : Nat) : Nat := FFmt.fp32.round m (sumMode m ((fpOf a).mul (fpOf b)) (fpOf c).negate)

/-- -1, 0 or 1 with -0 below +0, for two values neither of which is NaN. -/
def totalCmp (x y : FVal) : Int :=
  let c := x.cmp y
  if c = 0 then (if x.sign && !y.sign then -1 else if !x.sign && y.sign then 1 else 0) else c

/-- VMAX and VMIN: NaN if either is NaN, -0 below +0 (R252). -/
def fmax (a b : Nat) : Nat :=
  let x := fpOf a
  let y := fpOf b
  if x.isNan || y.isNan then nan32.toNat else if totalCmp x y < 0 then b else a

def fmin (a b : Nat) : Nat :=
  let x := fpOf a
  let y := fpOf b
  if x.isNan || y.isNan then nan32.toNat else if totalCmp x y < 0 then a else b

/-- The conditions of VCMP (R252). -/
def fcond (cond a b : Nat) : Bool :=
  let x := fpOf a
  let y := fpOf b
  let un := x.isNan || y.isNan
  let c := x.cmp y
  match cond with
  | 0 => !un && c == 0
  | 1 => un || c != 0
  | 2 => !un && decide (c < 0)
  | 3 => !un && decide (c ≤ 0)
  | 4 => !un && decide (0 < c)
  | 5 => !un && decide (0 ≤ c)
  | 6 => un
  | _ => !un

/-- The conditions of VICMP and VCMP64 on `n`-bit integers (R253, R254). -/
def icond (n cond a b : Nat) : Bool :=
  let x := signExt a n
  let y := signExt b n
  match cond with
  | 0 => a == b
  | 1 => a != b
  | 2 => decide (x < y)
  | 3 => decide (x ≤ y)
  | 4 => decide (y < x)
  | 5 => decide (y ≤ x)
  | 6 => decide (a < b)
  | 7 => decide (a ≤ b)
  | 8 => decide (b < a)
  | _ => decide (b ≤ a)

/-- Addition and subtraction under SUB 0 wrap, 1 signed saturation, 2 unsigned saturation (R253). -/
def iaddSat (sub a b : Nat) : Nat :=
  match sub with
  | 1 => imod (isat (signExt a 32 + signExt b 32) (-2 ^ 31) (2 ^ 31 - 1)) (2 ^ 32)
  | 2 => min (a + b) (2 ^ 32 - 1)
  | _ => (a + b) % 2 ^ 32

def isubSat (sub a b : Nat) : Nat :=
  match sub with
  | 1 => imod (isat (signExt a 32 - signExt b 32) (-2 ^ 31) (2 ^ 31 - 1)) (2 ^ 32)
  | 2 => a - b
  | _ => (a + 2 ^ 32 - b) % 2 ^ 32

/-- VIMUL: low, high signed, high unsigned (R253). -/
def imulSub (sub a b : Nat) : Nat :=
  match sub with
  | 1 => imod ((signExt a 32 * signExt b 32) / 2 ^ 32) (2 ^ 32)
  | 2 => a * b / 2 ^ 32
  | _ => a * b % 2 ^ 32

def iminSub (sub a b : Nat) : Nat :=
  if sub = 1 then min a b else if signExt a 32 ≤ signExt b 32 then a else b

def imaxSub (sub a b : Nat) : Nat :=
  if sub = 1 then max a b else if signExt a 32 ≤ signExt b 32 then b else a

/-- Shifts by a count of any size (R253). -/
def shl32 (a s : Nat) : Nat := if 32 ≤ s then 0 else a * 2 ^ s % 2 ^ 32
def shr32 (a s : Nat) : Nat := if 32 ≤ s then 0 else a / 2 ^ s
def sra32 (a s : Nat) : Nat := imod (signExt a 32 / 2 ^ (min s 31)) (2 ^ 32)
def shl64 (a s : Nat) : Nat := if 64 ≤ s then 0 else a * 2 ^ s % 2 ^ 64
def shr64 (a s : Nat) : Nat := if 64 ≤ s then 0 else a / 2 ^ s

end Sys2Proof
end

