-- ==== Sys2Proof/Machine/Special.lean ====
section
/-!
DEFINITION. The special functions of R258 to R262 on FP32 patterns, each exact to the bit, with the integer roots, powers and
logarithms they need in fixed point.
-/

namespace Sys2Proof

/-- The largest `r` with `r * r` at most `n`, among those below 2^bits, by bits from the top. -/
def isqrtGo (n : Nat) : Nat → Nat → Nat
  | 0, r => r
  | b + 1, r => isqrtGo n b (if (r + 2 ^ b) * (r + 2 ^ b) ≤ n then r + 2 ^ b else r)

/-- The integer square root. -/
def isqrt (n : Nat) : Nat := isqrtGo n (Nat.log2 n / 2 + 1) 0

/-- The square roots 2^(1/2), 2^(1/4), ... of two, `n` of them, as integers times 2^128, largest first. -/
def twoRoots : Nat → Nat → List Nat
  | 0, _ => []
  | n + 1, x => let r := isqrt (x * 2 ^ 128); r :: twoRoots n r

/-- 2^(j / 2^n) times 2^128 for j below 2^n, from its bits (the top bit stands for 1/2); the error is far below 2^-100. -/
def exp2Fix (n j : Nat) : Nat :=
  ((twoRoots n (2 ^ 129)).zip (List.range n)).foldl
    (fun y r => if bitOf j (n - 1 - r.2) then y * r.1 / 2 ^ 128 else y) (2 ^ 128)

/-- The first `n` bits of log2(y / 2^128) for y / 2^128 in [1, 2), by repeated squaring. -/
def log2Bits : Nat → Nat → Nat → Nat
  | 0, _, acc => acc
  | n + 1, y, acc =>
    let z := y * y / 2 ^ 128
    if 2 ^ 129 ≤ z then log2Bits n (z / 2) (2 * acc + 1) else log2Bits n z (2 * acc)

/-- The exponent and the twelve leading fraction bits of a magnitude that is not zero, with the fraction f (R258). -/
def split (a : Q) : Int × Nat × Q :=
  let e := Q.log2 a
  let f := Q.sub (Q.mul a (Q.pow2 (-e))) Q.one
  (e, ((Q.floor (Q.mul f (Q.pow2 12))).toNat, f))

/-- VRCPA (R258, R259). -/
def vrcpa (x : Nat) : Nat :=
  match fpOf x with
  | .nan => nan32.toNat
  | .inf s => FFmt.fp32.encodeFin s Q.zero
  | .fin s a =>
    if a.isZero then FFmt.fp32.infCode s
    else
      let (e, j, _) := split a
      let g : Nat := 2 ^ 36 / (2 * (4096 + j) + 1)
      FFmt.fp32.round .rne (.fin s (Q.mul (Q.ofInt g) (Q.pow2 (-23 - e))))

/-- VRSQA (R258, R260). -/
def vrsqa (x : Nat) : Nat :=
  match fpOf x with
  | .nan => nan32.toNat
  | .inf s => if s then nan32.toNat else 0
  | .fin s a =>
    if a.isZero then FFmt.fp32.infCode s
    else if s then nan32.toNat
    else
      let e := Q.log2 a
      let odd := e % 2 = 1
      let e2 := if odd then e - 1 else e
      let u := (Q.floor (Q.mul (Q.mul a (Q.pow2 (-e2))) (Q.pow2 11))).toNat
      let g : Nat := isqrt (2 ^ 58 / (2 * u + 1))
      FFmt.fp32.round .rne (.fin false (Q.mul (Q.ofInt g) (Q.pow2 (-23 - e2 / 2))))

/-- VEXP2 (R258, R261). -/
def vexp2 (x : Nat) : Nat :=
  match fpOf x with
  | .nan => nan32.toNat
  | .inf s => if s then 0 else FFmt.fp32.infCode false
  | .fin s a =>
    let q := FVal.toQ (.fin s a)
    if Q.le (Q.ofInt 128) q then FFmt.fp32.infCode false
    else if Q.lt q (Q.ofInt (-200)) then 0
    else
      let n := Q.floor q
      let f := Q.sub q (Q.ofInt n)
      let j := (Q.floor (Q.mul f (Q.pow2 12))).toNat
      let d := Q.sub f (Q.mk' (j : Int) 4096)
      let g : Nat := (exp2Fix 12 j / 2 ^ 104 + 1) / 2
      let v := Q.mul (Q.mul (Q.ofInt g) (Q.pow2 (n - 23))) (Q.add Q.one (Q.mul d ⟨11629080, 2 ^ 24⟩))
      FFmt.fp32.round .rne (.fin false v)

/-- The integer nearest 2^26 log2(1 + j / 4096) (R262). -/
def log2Table (j : Nat) : Nat := (log2Bits 60 (2 ^ 128 + j * 2 ^ 116) 0 + 2 ^ 33) / 2 ^ 34

/-- VLOG2 (R258, R262). -/
def vlog2 (x : Nat) : Nat :=
  match fpOf x with
  | .nan => nan32.toNat
  | .inf s => if s then nan32.toNat else FFmt.fp32.infCode false
  | .fin s a =>
    if a.isZero then FFmt.fp32.infCode true
    else if s then nan32.toNat
    else
      let (e, j, f) := split a
      let d := Q.sub f (Q.mk' (j : Int) 4096)
      let t := Q.mul d (Q.mk' (4096 * 24204406) (2 ^ 24 * (4096 + j)))
      FFmt.fp32.round .rne (FVal.ofQ (Q.add (Q.add (Q.ofInt e) (Q.mul (Q.ofInt (log2Table j)) (Q.pow2 (-26)))) t))

end Sys2Proof
end

