-- ==== Sys2Proof/Machine/Normal.lean ====
section
/-!
DEFINITION. The real functions of the moment unit (R312, R318, R324): rounding of surds, the tables of the standard normal
functions, and the Gaussian generator.  Transcendental values are computed in fixed point with far more bits than the
final rounding needs (log entry 22).
-/

namespace Sys2Proof

/-- The real `a + √e` or `a - √e`, for `e` not negative. -/
structure Surd where
  a : Q
  neg : Bool
  e : Q

/-- A rational that every rounding to FP32 or a narrower format treats as the surd itself: the surd where it is a multiple of
2^-160, else the midpoint of the interval of length 2^-160 that holds it. -/
def Surd.snap (x : Surd) : Q :=
  -- a = n/d and √e = √m/d over one denominator d
  let d := x.a.den * x.e.den
  let n := x.a.num * x.e.den
  let m := x.e.num.toNat * x.e.den * x.a.den * x.a.den
  let big := m * 4 ^ 160
  let r := isqrt big
  let exactRoot := r * r = big
  let top : Int := n * 2 ^ 160
  let num : Int := if x.neg then top - r - (if exactRoot then 0 else 1) else top + r
  if exactRoot then
    -- a rational
    Q.mk' num (d * 2 ^ 160)
  else ⟨2 * (num / (d : Int)) + 1, 2 ^ 161⟩

/-- rne of a surd to FP32, as a code. -/
def Surd.rne (x : Surd) : Nat := FFmt.fp32.round .rne (FVal.ofQ x.snap)

/-! ## The standard normal tables (R318) -/

/-- Σ x^n / n!, the exponential of a fixed-point number with `p` fraction bits, by Taylor's series. -/
def expFix (p x : Nat) : Nat → Nat → Nat → Nat → Nat
  | 0, _, _, acc => acc
  | f + 1, n, t, acc => if t = 0 then acc else expFix p x f (n + 1) (t * x / 2 ^ p / n) (acc + t)

/-- The sum x + x³/3 + x⁵/15 + ..., with `p` fraction bits. -/
def phiFix (p x2 : Nat) : Nat → Nat → Nat → Nat → Nat
  | 0, _, _, acc => acc
  | f + 1, n, t, acc => if t = 0 then acc else phiFix p x2 f (n + 2) (t * x2 / 2 ^ p / n) (acc + t)

/-- atan(1 / k) and atanh(1 / k) with `p` fraction bits, by their series. -/
def atanFix (p k : Nat) (alt : Bool) : Nat → Nat → Nat → Int → Int
  | 0, _, _, acc => acc
  | f + 1, n, t, acc =>
    if t = 0 then acc
    else atanFix p k alt f (n + 1) (t / (k * k)) (acc + (if alt && n % 2 == 1 then -((t / (2 * n + 1) : Nat) : Int) else ((t / (2 * n + 1) : Nat) : Int)))

/-- π with `p` fraction bits (Machin's formula). -/
def piFix (p : Nat) : Nat :=
  (16 * atanFix p 5 true p 0 (2 ^ p / 5) 0 - 4 * atanFix p 239 true p 0 (2 ^ p / 239) 0).toNat

/-- A positive fixed-point number rounded to 40 significant bits, as a rational. -/
def round40 (p y : Nat) : Q :=
  let s := Nat.log2 y - 39
  if y = 0 then Q.zero else Q.mul (Q.ofInt (((y / 2 ^ (s - 1)) + 1) / 2 : Nat)) (Q.pow2 ((s : Int) - p))

/-- The table entries TP[j] and TD[j] of R318: Φ(-j/4096) and φ(j/4096) to 40 significant bits. -/
def normTable (j : Nat) : Q × Q :=
  let p := 512
  let x := j * 2 ^ (p - 12)
  let x2 := x * x / 2 ^ p
  let ex := expFix p (x2 / 2) 2000 1 (2 ^ p) 0
  let root := isqrt (2 * piFix p * 2 ^ p)
  let d := 2 ^ (3 * p) / (ex * root)
  let s := phiFix p x2 2000 3 x 0
  let c := 2 ^ (p - 1) - d * s / 2 ^ p
  (if j = 0 then ⟨1, 2⟩ else round40 p c, round40 p d)

/-- CDF(α) and PDF(α) of R318, as FP32 codes. -/
def cdfPdf (al : Nat) : Nat × Nat :=
  let rn := fun (x : Q) => FFmt.fp32.round .rne (FVal.ofQ x)
  let fin := fun (neg : Bool) (pq : Q × Q) =>
    (if neg then rn pq.1 else rn (Q.sub Q.one pq.1), rn pq.2)
  match fpOf al with
  | .nan => (nan32.toNat, nan32.toNat)
  | .inf s => fin s (Q.zero, Q.zero)
  | .fin s a =>
    let neg := s || a.isZero
    if Q.le (Q.ofInt 16) a then fin neg (Q.zero, Q.zero)
    else
      let j := (Q.floor (Q.mul a (Q.ofInt 4096))).toNat
      let x : Q := Q.mk' j 4096
      let d := Q.sub a x
      let d2 := Q.mul d d
      let d3 := Q.mul d2 d
      let x2 := Q.mul x x
      let (t, u) := normTable j
      let x21 := Q.sub x2 Q.one
      let p := Q.sub t (Q.mul u (Q.add (Q.sub d (Q.mul (Q.mul x d2) ⟨1, 2⟩)) (Q.mul (Q.mul x21 d3) ⟨1, 6⟩)))
      let q := Q.mul u (Q.add (Q.add (Q.sub Q.one (Q.mul x d)) (Q.mul (Q.mul x21 d2) ⟨1, 2⟩))
        (Q.mul (Q.mul (Q.sub (Q.mul (Q.ofInt 3) x) (Q.mul x x2)) d3) ⟨1, 6⟩))
      fin neg (p, q)

/-! ## The generator (R298, R324) -/

/-- One xorshift step. -/
def xorshift (g : Nat) : Nat :=
  let a := (g ^^^ (g * 2 ^ 13)) % 2 ^ 32
  let b := a ^^^ (a / 2 ^ 17)
  (b ^^^ (b * 2 ^ 5)) % 2 ^ 32

/-- The state that a seed gives. -/
def seedOf (x : Nat) : Nat :=
  let s := x ^^^ 0x9E3779B9
  if s = 0 then 1 else s

/-- The first `n` draws from a state. -/
def draws : Nat → Nat → List Nat
  | 0, _ => []
  | n + 1, g => let u := xorshift g; u :: draws n u

/-- atanh series of z = y / 2^p: Σ z^(2k+1) / (2k+1). -/
def atanhZ (p z2 : Nat) : Nat → Nat → Nat → Nat → Nat
  | 0, _, _, acc => acc
  | f + 1, n, t, acc => if t = 0 then acc else atanhZ p z2 f (n + 2) (t * z2 / 2 ^ p) (acc + t / n)

/-- The Taylor series of the cosine of t / 2^p, as a difference of two sums. -/
def cosFix (p t2 : Nat) : Nat → Nat → Nat → Bool → Int → Int
  | 0, _, _, _, acc => acc
  | f + 1, n, t, neg, acc =>
    if t = 0 then acc
    else cosFix p t2 f (n + 2) (t * t2 / 2 ^ p / ((n + 1) * (n + 2))) (!neg) (acc + (if neg then -(t : Int) else (t : Int)))

/-- -ln((u + 1/2) / 2^32) with `p` fraction bits. -/
def negLn (p u : Nat) : Nat :=
  -- (2u + 1) / 2^33 = m * 2^-e with m in [1, 2)
  let n := 2 * u + 1
  let b := Nat.log2 n
  let m := n * 2 ^ p / 2 ^ b
  let z := (m - 2 ^ p) * 2 ^ p / (m + 2 ^ p)
  let lnm := 2 * atanhZ p (z * z / 2 ^ p) p 1 z 0
  let ln2 := 2 * (atanFix p 3 false p 0 (2 ^ p / 3) 0).toNat
  (33 - b) * ln2 - lnm

/-- ε of R324 from its two draws, as an FP32 code. -/
def gaussEps (u1 u2 : Nat) : Nat :=
  let p := 192
  let r := isqrt (2 * negLn p u1 * 2 ^ p)
  -- the angle's distance from a multiple of π, as a fraction of 2^32: cos changes sign in the middle half
  let h := u2 % 2 ^ 31
  let k := if h ≤ 2 ^ 30 then h else 2 ^ 31 - h
  let flip := (decide (2 ^ 31 ≤ u2)) != decide (2 ^ 30 < h)
  if k = 2 ^ 30 then 0
  else
    let t := 2 * piFix p * k / 2 ^ 32
    let c := (cosFix p (t * t / 2 ^ p) p 0 (2 ^ p) false 0).toNat
    FFmt.fp32.round .rne (.fin flip (Q.mul (Q.ofInt (r * c : Nat)) (Q.pow2 (-2 * p))))

end Sys2Proof
end

