-- ==== Sys2Proof/Machine/Elem.lean ====
section
/-!
DEFINITION. Element formats (06 R193 to R197), block integers (R198 to R200), MX and sparse-mask blocks (R299, R300), and the forms of a
scratchpad slot (R201 to R204).
-/

namespace Sys2Proof

/-- The floating-point format behind an element code; an SMB code stands for that of its payloads (R197). -/
def eltFmt (f : Nat) : Option FFmt :=
  match f with
  | 0x10 => some .fp32
  | 0x11 | 0x42 => some .bf16
  | 0x12 => some .fp16
  | 0x13 | 0x41 => some .e4m3
  | 0x14 => some .e5m2
  | 0x20 => some .mxE4m3
  | 0x21 => some .mxE5m2
  | 0x22 => some .mxE3m2
  | 0x23 => some .mxE2m3
  | 0x24 => some .mxE2m1
  | _ => none

/-- Bits of an integer format, and whether it is signed (R193). -/
def intFmt (f : Nat) : Option (Nat × Bool) :=
  match f with
  | 0x01 | 0x25 => some (8, true)
  | 0x02 => some (8, false)
  | 0x03 => some (4, true)
  | 0x04 => some (16, true)
  | 0x05 => some (32, true)
  | 0x06 => some (64, true)
  | _ => none

/-- The value of an element code without its scale (R193 to R195). -/
def codeVal (f code : Nat) : FVal :=
  match eltFmt f, intFmt f with
  | some F, _ => F.decode code
  | none, some (n, sg) =>
    let x : Int := if sg then signExt code n else (code % 2 ^ n : Nat)
    .ofQ (if f = 0x25 then Q.mul (Q.ofInt x) (Q.pow2 (-6)) else Q.ofInt x)
  | none, none => .fin false Q.zero

/-- A value times 2^n. -/
def FVal.scale (v : FVal) (n : Int) : FVal :=
  match v with
  | .fin s a => .fin s (Q.mul a (Q.pow2 n))
  | v => v

/-- A value under an E8M0 scale byte (R195). -/
def scaled (v : FVal) (sc : Option Nat) : FVal :=
  match sc with
  | none => v
  | some b => if b = 255 then .nan else v.scale ((b : Int) - 127)

/-- An element as read: its code and the scale that applies to it, if any. -/
structure Item where
  code : Nat
  sc : Option Nat
deriving DecidableEq, Repr

def Item.zero : Item := ⟨0, none⟩

/-- The value of an element; of a moment element its mean (R195, R196).  A separate scale multiplies it (R205). -/
def Item.val (f : Nat) (x : Item) : FVal :=
  if f = 0x30 then scaled (FFmt.fp32.decode (x.code % 2 ^ 32)) x.sc
  else if f = 0x31 then scaled (FFmt.bf16.decode (x.code % 2 ^ 16)) x.sc
  else scaled (codeVal f x.code) x.sc

/-- The variance of an element; +0 where its format has none.  The square of a separate scale multiplies it, as it does of a moment whose
mean the scale multiplies (R205; log entry 43). -/
def Item.var (f : Nat) (x : Item) : FVal :=
  if f = 0x30 then scaled (scaled (FFmt.fp32.decode (x.code / 2 ^ 32)) x.sc) x.sc
  else if f = 0x31 then scaled (scaled (FFmt.bf16.decode (x.code / 2 ^ 16)) x.sc) x.sc
  else .fin false Q.zero

/-- round(v, f, mode) of R69 for an element format that is no MX format and no SMB format; MXINT8 as INT8. -/
def roundElem (f : Nat) (m : RMode) (v : FVal) : Nat :=
  match eltFmt f, intFmt f with
  | some F, _ => F.round m v
  | none, some (n, sg) =>
    let lo : Int := if sg then -(2 ^ (n - 1)) else 0
    let hi : Int := if sg then 2 ^ (n - 1) - 1 else 2 ^ n - 1
    imod (match v with
      | .nan => lo
      | .inf s => if s then lo else hi
      | v => isat (roundInt m v.toQ) lo hi) (2 ^ n)
  | none, none => 0

/-! ## Block integers (R198 to R200) -/

/-- Is the format one that the plane forms accept (R204)? -/
def planeFmt (f : Nat) : Bool := (eltFmt f).isSome || ((intFmt f).isSome && f != 0x06)

/-- The default plane count of a format (R198). -/
def defaultPl (f : Nat) : Nat :=
  match f with
  | 0x03 => 4
  | 0x01 | 0x25 => 8
  | 0x02 => 9
  | 0x04 => 16
  | 0x05 | 0x10 => 25
  | 0x24 => 5
  | 0x23 => 7
  | 0x11 | 0x42 => 12
  | 0x12 => 13
  | _ => 10

/-- The exponent pattern of a block that holds a NaN or an infinity (R199). -/
def nanBlk : Nat := 0x8000

/-- One value over 2^e, to the nearest integer, ties to even. -/
def onGrid (e : Int) (v : FVal) : Int := roundInt .rne (Q.mul v.toQ (Q.pow2 (-e)))

/-- The loop of R199, which ends after at most three passes. -/
def blockLoop (w : Nat) (vs : List FVal) : Nat → Int → Int × List Int
  | 0, e => (e, vs.map (onGrid e))
  | n + 1, e =>
    let q := vs.map (onGrid e)
    if q.all fun x => decide (-(2 ^ (w - 1) : Int) ≤ x) && decide (x ≤ 2 ^ (w - 1) - 1) then (e, q) else blockLoop w vs n (e + 1)

/-- The exponent pattern and the integers of a block (R199). -/
def blockInt (w : Nat) (vs : List FVal) : Nat × List Int :=
  if vs.any fun v => !v.isFin then (nanBlk, vs.map fun _ => 0)
  else
    let mx := vs.foldl (fun m v => Q.max m (Q.abs v.toQ)) Q.zero
    if mx.isZero then (0, vs.map fun _ => 0)
    else
      let r := blockLoop w vs 3 (Q.log2 mx - ((w : Int) - 1))
      (imod r.1 65536, r.2)

/-! ## MX and SMB blocks (R299, R300, R197) -/

/-- EMAX of an MX format (R299). -/
def mxEmax (f : Nat) : Int :=
  match f with
  | 0x20 => 8
  | 0x21 => 15
  | 0x22 => 4
  | 0x23 | 0x24 => 2
  | _ => 0

/-- The scale byte and the element codes of an MX block (R299); `none` stands for an element with OVF, and `ms` gives the mode
for each element. -/
def mxBlock (f : Nat) (vs : List (Option FVal)) (ms : List RMode) : Nat × List Nat :=
  if vs.any fun v => v.isNone then (0xFF, vs.map fun _ => 0)
  else
    let xs := vs.map fun v => v.getD (.fin false Q.zero)
    let amax := xs.foldl (fun m v => Q.max m (Q.abs v.toQ)) Q.zero
    if amax.isZero then (0, xs.map fun _ => 0)
    else
      let k := isat (Q.log2 amax - mxEmax f) (-127) 127
      let code := fun (v : FVal) (m : RMode) =>
        if f = 0x25 then roundElem 0x01 m (v.scale (6 - k)) else roundElem f m (v.scale (-k))
      ((k + 127).toNat, List.zipWith code xs ms)

/-- Bits of a payload of an SMB format, and the number of payloads (R197). -/
def smbPay (f : Nat) : Nat × Nat := if f = 0x41 then (8, 12) else (16, 14)

/-- The magnitude order of a code: NaN largest (R300). -/
def codeMag (f code : Nat) : Nat :=
  let n := (smbPay f).1
  let v := codeVal f code
  if v.isNan then 2 ^ n else code % 2 ^ (n - 1)

/-- Is a rounded element present (R300)? -/
def present (f code : Nat) : Bool := code % 2 ^ ((smbPay f).1 - 1) != 0

/-- The sparse-mask block of 32 rounded codes (R300). -/
def smbBlock (f : Nat) (codes : List Nat) : Nat :=
  let n := (smbPay f).1
  let cap := (smbPay f).2
  let at_ := (codes.zip (List.range 32)).map fun e => (codeMag f e.1, e.2, present f e.1)
  let keep := fun (i : Nat) =>
    match at_.find? fun e => e.2.1 = i with
    | some (m, _, p) => p && decide ((at_.filter fun e => e.2.2 && (decide (m < e.1) || (e.1 == m && decide (e.2.1 < i)))).length < cap)
    | none => false
  let kept := (codes.zip (List.range 32)).filter fun e => keep e.2
  let mask := kept.foldl (fun m e => m + 2 ^ e.2) 0
  mask + ((kept.zip (List.range cap)).foldl (fun m e => m + e.1.1 * 2 ^ (n * e.2)) 0) * 2 ^ 32

/-- The code of element `j` of a sparse-mask block (R197); none when the mask has more bits than payloads. -/
def smbElem (f blk j : Nat) : Option Nat :=
  let mask := blk % 2 ^ 32
  if (smbPay f).2 < popCount 32 mask then none
  else if bitOf mask j then some (bitsOf blk (32 + (smbPay f).1 * popCount j mask) (smbPay f).1)
  else some 0

/-! ## Forms of a slot (R201, R202) -/

/-- Codes packed at a width, element 0 lowest (R188). -/
def packNat (bits : Nat) : List Nat → Nat
  | [] => 0
  | x :: t => x % 2 ^ bits + 2 ^ bits * packNat bits t

/-- The tag of a slot (R201). -/
def slotTag (f tr tc w form : Nat) : Nat := f * 2 ^ 56 + tr % 256 * 2 ^ 48 + tc % 256 * 2 ^ 40 + w * 2 ^ 32 + form

namespace Machine

/-- Bytes that `n` elements of a format take (R188); for an SMB format, `n` counts elements, in blocks of 32. -/
def packBytes (f n : Nat) : Nat :=
  if f = 0x41 then (n + 31) / 32 * 16
  else if f = 0x42 then (n + 31) / 32 * 32
  else if fmtBits f = 6 then (n + 3) / 4 * 3
  else (n * fmtBits f + 7) / 8

/-- End of the data and scales of a RAW tile of `n` elements (R202). -/
def rawEnd (f n : Nat) : Nat := if isMx f then roundUp (packBytes f n) 64 + (n + 31) / 32 else packBytes f n

/-- A slot from pieces of bytes at rising offsets, every other byte zero, valid and without poison. -/
def mkSlot (pieces : List (Nat × List Byte)) : Slot :=
  { bytes := (pieces.map fun p => ((List.range p.2.length).zip p.2).filterMap fun e =>
      if e.2 = 0#8 then none else some (p.1 + e.1, e.2)).flatten
    valid := true }

/-- The tag as the last piece of a slot. -/
def tagPiece (f tr tc w form : Nat) : List (Nat × List Byte) := [(0x1FF0, leBytes 8 (slotTag f tr tc w form))]

/-- The RAW form (R202): codes in tile order, or for an SMB format one block for every 32 elements, and the scale bytes. -/
def rawSlot (f tr tc : Nat) (codes scales : List Nat) : Slot :=
  let bits := if f = 0x41 then 128 else if f = 0x42 then 256 else fmtBits f
  mkSlot ([(0, leBytes (packBytes f (tr * tc)) (packNat bits codes))] ++
    (if isMx f then [(roundUp (packBytes f (tr * tc)) 64, scales.map fun x => BitVec.ofNat 8 x)] else []) ++
    tagPiece f tr tc 0 0)

/-- An entry of a tile in row order; +0 outside it. -/
def cell (tr tc : Nat) (vs : Array FVal) (r c : Nat) : FVal :=
  if r < tr ∧ c < tc then vs.getD (tc * r + c) (.fin false Q.zero) else .fin false Q.zero

/-- The plane forms (R202): `vs` in tile order. -/
def planeSlot (form f tr tc w : Nat) (vs : List FVal) : Slot :=
  let a := vs.toArray
  let cols := (tab 64 fun n => blockInt w (tab 32 fun k => cell tr tc a k n)).toArray
  let qs := cols.map fun c => (c.2.map fun q => imod q (2 ^ w)).toArray
  let word := fun (k b : Nat) => ofBits (tab 64 fun n => bitOf ((qs.getD n #[]).getD k 0) b)
  mkSlot ([(0, (tab (32 * w) fun i => leBytes 8 (word (i / w) (i % w))).flatten),
    (0x1900, (tab 64 fun n => leBytes 2 (cols.getD n (0, [])).1).flatten)] ++ tagPiece f tr tc w form)

/-- The moduli of RA128 (R196). -/
def m1 : Nat := 2 ^ 31 - 1
def m2 : Nat := 2 ^ 31
def m3 : Nat := 2 ^ 31 + 1

/-- The residue forms (R202). -/
def residSlot (form f tr tc : Nat) (vs : List FVal) : Slot :=
  let a := vs.toArray
  let rows := tab 16 fun m => blockInt 32 (tab 32 fun k => cell tr tc a m k)
  let flat := (rows.map (·.2)).flatten
  mkSlot ([(0, (flat.map fun q => leBytes 4 (imod q m1) ++ leBytes 4 (imod q m2) ++ leBytes 4 (imod q m3)).flatten),
    (0x1800, (flat.map fun q => leBytes 2 (imod q 257)).flatten), (0x1C00, (rows.map fun r => leBytes 2 r.1).flatten)] ++
    tagPiece f tr tc 32 form)

/-- The SMB form (R202): a block for every row. -/
def smbSlot (f tr : Nat) (blocks : List Nat) : Slot :=
  let n := if f = 0x41 then 16 else 32
  mkSlot ([(0, (blocks.map fun b => leBytes n b).flatten)] ++ tagPiece f tr 32 0 3)

/-- A square, exactly. -/
def sqr (v : FVal) : FVal := v.mul v

/-- What a form converts of an element (R202): PLSQ its square, RESM the mean, RESV the variance, RESQ the second moment. -/
def formVal (form f : Nat) (x : Item) : FVal :=
  match form with
  | 4 => sqr (x.val f)
  | 6 => x.var f
  | 7 => (sqr (x.val f)).add (x.var f)
  | _ => x.val f

/-- The slot of a converting form. -/
def formSlot (form f tr tc w : Nat) (xs : List Item) : Slot :=
  let vs := xs.map (formVal form f)
  if form = 1 ∨ form = 4 then planeSlot form f tr tc w vs else residSlot form f tr tc vs

/-- W of a plane form for a descriptor's or card's plane count (R198). -/
def planesOf (form f pl : Nat) : Nat :=
  if pl ≠ 0 then pl else if form = 4 then min 25 (2 * defaultPl f) else defaultPl f

namespace Slot

def byte (x : Slot) (i : Nat) : Byte := if x.valid then Tbl.get 0#8 x.bytes i else 0#8
def num (x : Slot) (off n : Nat) : Nat := leNat (tab n fun i => x.byte (off + i))
def tag (x : Slot) : Nat := x.num 0x1FF0 8
def fmt (x : Slot) : Nat := bitsOf x.tag 56 8
def tr (x : Slot) : Nat := bitsOf x.tag 48 8
def tc (x : Slot) : Nat := bitsOf x.tag 40 8
def w (x : Slot) : Nat := bitsOf x.tag 32 8
def form (x : Slot) : Nat := bitsOf x.tag 0 8
/-- Is a byte of the span poisoned? -/
def pois (x : Slot) (off n : Nat) : Bool := x.poison.any fun e => decide (off / 8 ≤ e / 8) && decide (e < off + n)

/-- Byte offset, bit and bits of element `n` of a RAW tile (R188). -/
def rawPlace (f n : Nat) : Nat × Nat × Nat :=
  if f = 0x41 then (16 * (n / 32), 0, 128)
  else if f = 0x42 then (32 * (n / 32), 0, 256)
  else if fmtBits f = 6 then (3 * (n / 4), 6 * (n % 4), 6)
  else (n * fmtBits f / 8, n * fmtBits f % 8, fmtBits f)

/-- The code of element `n` of a RAW tile, or the whole block that holds it. -/
def rawCode (x : Slot) (f n : Nat) : Nat :=
  let (o, b, k) := rawPlace f n
  bitsOf (x.num o ((b + k + 7) / 8)) b k

/-- Offset of the scale byte of element `n` of a RAW tile of `total` elements. -/
def rawScaleAt (f total n : Nat) : Nat := roundUp (packBytes f total) 64 + n / 32

end Slot

/-! ## Reading elements of objects -/

namespace State

/-- An element of an object as a load or job reads it: the checks of resolve, UNCORR of poisoned data, FMTBAD with detail 2 (R150,
R197, R211); for an SMB format also its block.  `own` says whether an MX element is read with its own scale. -/
def readElem (s : State) (pr : Principal) (h : Word) (l : Layout) (t : List Nat) (v : VSel) (own : Bool) : Rs (Item × Nat) :=
  match s.resolve pr h l t Right.read v with
  | .bad f => .bad f
  | .ok p =>
    if s.placePoisoned p then .bad ⟨FCode.uncorr, 0⟩
    else
      let x := s.readPlace p
      if isSmb l.fmt then
        let blk := s.num p.key (if l.fmt = 0x41 then 16 else 32)
        let (sh, t') := l.shard t
        match smbElem l.fmt blk (placeIndex l (l.shardExt sh) t' % 32) with
        | some c => .ok (⟨c, none⟩, blk)
        | none => .bad ⟨FCode.fmtbad, 2⟩
      else if isMx l.fmt && own then
        match s.scalePlace (Handle.key h) l t v with
        | .bad f => .bad f
        | .ok q => if s.placePoisoned q then .bad ⟨FCode.uncorr, 0⟩ else .ok (⟨x, some (s.readPlace q)⟩, 0)
      else .ok (⟨x, none⟩, 0)

/-- An element as a copy job reads it: of several faults on one element the lowest code is kept (R357). -/
def readElemJob (s : State) (pr : Principal) (h : Word) (l : Layout) (t : List Nat) (v : VSel) (own : Bool) : Rs (Item × Nat) :=
  match s.readElem pr h l t v own with
  | .ok x => .ok x
  | .bad f =>
    if f.code ≠ FCode.uncorr then
      if isMx l.fmt && own && (f.code == FCode.linkdead) then
        match s.scalePlace (Handle.key h) l t v with
        | .bad e => if e.code < f.code then .bad e else .bad f
        | .ok _ => .bad f
      else .bad f
    else
      match s.resolve pr h l t Right.read v with
      | .bad e => .bad e
      | .ok p =>
        let (sh, t') := l.shard t
        if isSmb l.fmt && (smbElem l.fmt (s.num p.key (if l.fmt = 0x41 then 16 else 32)) (placeIndex l (l.shardExt sh) t' % 32)).isNone then
          .bad ⟨FCode.fmtbad, 2⟩
        else if isMx l.fmt && own then
          match s.scalePlace (Handle.key h) l t v with
          | .bad e => if e.code < f.code then .bad e else .bad f
          | .ok _ => .bad f
        else .bad f

/-- An ABSENT notice for an access through a handle that found its shard absent (R431). -/
def noteMiss (s : State) (h : Word) (l : Layout) (t : List Nat) (v : VSel) (f : Flt) : State :=
  if f.code = FCode.missobj ∧ f.detail = 2 then
    s.noteAt (Handle.gen h) (Handle.home h) (Handle.loc h) (l.shard t).1
      (match v with
        | .ver n => n
        | .draft | .gone => 0
        | .live => s.curv (Handle.key h))
  else s

end State

end Machine

end Sys2Proof
end

