-- ==== Sys2Proof/Machine/Bank.lean ====
section
/-!
DEFINITION. The banks of a Bench (07 R225): what an update stores (R228 to R230), its failure (R235), and the order in which a core's
requests arrive.
-/

namespace Sys2Proof.Machine

/-! ## RA128 (R196) -/

/-- An RA128 element taken apart. -/
structure Ra where
  a1 : Nat
  a2 : Nat
  a3 : Nat
  c : Nat
  ovf : Bool
  loss : Bool
  mom : Bool
deriving DecidableEq, Repr

namespace Ra

def ofNat (x : Nat) : Ra :=
  { a1 := bitsOf x 0 32, a2 := bitsOf x 32 32, a3 := bitsOf x 64 32, c := bitsOf x 96 9, ovf := bitOf x 105, loss := bitOf x 106
    mom := bitOf x 107 }

def toNat (r : Ra) : Nat :=
  r.a1 + r.a2 * 2 ^ 32 + r.a3 * 2 ^ 64 + r.c * 2 ^ 96 + b2n r.ovf * 2 ^ 105 + b2n r.loss * 2 ^ 106 + b2n r.mom * 2 ^ 107

/-- The residues of an integer. -/
def ofInt (y : Int) : Ra := { a1 := imod y m1, a2 := imod y m2, a3 := imod y m3, c := imod y 257, ovf := false, loss := false, mom := false }

/-- Residues times 2^d; the flags stay (R229, R276). -/
def shift (r : Ra) (d : Nat) : Ra :=
  { r with a1 := r.a1 * 2 ^ d % m1, a2 := r.a2 * 2 ^ d % m2, a3 := r.a3 * 2 ^ d % m3, c := r.c * 2 ^ d % 257 }

/-- The sum, residue by residue, with the flags ORed (R229, R290). -/
def add (r t : Ra) : Ra :=
  { a1 := (r.a1 + t.a1) % m1, a2 := (r.a2 + t.a2) % m2, a3 := (r.a3 + t.a3) % m3, c := (r.c + t.c) % 257
    ovf := r.ovf || t.ovf, loss := r.loss || t.loss, mom := r.mom || t.mom }

/-- crt of R69: the integer in [-M/2, M/2) with these residues. -/
def crt (r : Ra) : Int :=
  let m := m1 * m2 * m3
  let y := (r.a1 * (m2 * m3 * 2 ^ 30) + r.a2 * (m1 * m3 * (m2 - 1)) + r.a3 * (m1 * m2 * (2 ^ 30 + 1))) % m
  if 2 * y < m then (y : Int) else (y : Int) - (m : Int)

/-- Does the reconstruction of the element find an overflow, or has it one (R277, R295)? -/
def overflows (r : Ra) : Bool := r.ovf || imod r.crt 257 != r.c

end Ra

/-- A tile as a word reads it (R43). -/
def Core.tile (k : Core) (n : Nat) : Tile :=
  let t := Tbl.get {} k.tiles n
  if t.valid then t else {}

/-- Element `i` of a tile. -/
def Tile.ra (t : Tile) (i : Nat) : Ra := Ra.ofNat (Tbl.get 0#128 t.els i).toNat

/-- ANC of a tile, signed. -/
def Tile.anchor (t : Tile) : Int := signExt t.anc.toNat 16

/-! ## Bank operations (R228) -/

/-- -1 times the sign where a variance is below zero: +0 in its place (R230). -/
def clampVar (x : Nat) : Nat := if (fpOf x).sign && !(fpOf x).isZero && !(fpOf x).isNan then 0 else x

/-- What an update stores over `s` (R228). -/
def bankOp (op f s x cmp : Nat) : Nat :=
  match op with
  | 0 =>
    if f = 0x05 then (s + x) % 2 ^ 32
    else if f = 0x10 then fadd .rne s x
    else ((Ra.ofNat s).add (Ra.ofNat x)).toNat
  | 1 => if f = 0x10 then fmin s x else iminSub 0 s x
  | 2 => if f = 0x10 then fmax s x else imaxSub 0 s x
  | 3 => s &&& x
  | 4 => s ||| x
  | 5 => s ^^^ x
  | 6 => x
  | 7 => if s = cmp then x else s
  | _ => fadd .rne (s % 2 ^ 32) (x % 2 ^ 32) + fadd .rne (clampVar (s / 2 ^ 32)) (x / 2 ^ 32) * 2 ^ 32

namespace State

/-- Does the task on a core stand in its save area still: it is being restored (R141)? -/
def restoring (s : State) (k : Core) : Bool :=
  match k.phase with
  | .starting _ _ => s.crSv k.crid
  | _ => false

/-- An update has met a poisoned element (R235): the task's flag is set where its state stands; for a task that is gone an error
record is written, INDEX holding the die and the bank (log entry 23). -/
def updateFailed (s : State) (r : BankReq) : State :=
  match if r.crid = 0 then none else s.cores.find? fun e => e.2.crid = r.crid && !s.restoring e.2 with
  | some (c, _) => s.modCore c fun k => { k with scFail := true }
  | none =>
    match if r.crid = 0 then none else Tbl.find s.saved r.crid with
    | some k => { s with saved := Tbl.put s.saved r.crid { k with scFail := true } }
    | none =>
      let off := r.pa % 2 ^ 32
      s.postError 2 0 (r.pa / 2 ^ 32 % 8 * 1024 + off / 32 % 1024) off

/-- A bank applies one request (R225); one to an object that has been freed is dropped (R222). -/
def applyReq (s : State) (r : BankReq) : State :=
  let w := s.ew r.key 0
  if !w.getLsbD 46 || fld w 0 12 != r.gen then s
  else if s.poisoned r.pa r.size then s.updateFailed r
  else s.writeNum r.pa r.size (bankOp r.op r.fmt (s.num r.pa r.size) r.x r.cmp)

/-- Every request of a core that is under way is applied, in order, whichever task has made it: what the core asks of the banks next arrives
after it (R225). -/
def settle (s : State) (c : Nat) : State :=
  let mine := s.bankq.filter fun r => r.core = c
  mine.foldl applyReq { s with bankq := s.bankq.filter fun r => r.core != c }

end State

/-- BANK_APPLY (R225): the oldest request for the banks of a die is applied. -/
def execBankApply (s : State) : Host.Outcome State Fault Refusal :=
  let d := s.unit
  match s.bankq.find? fun r => r.pa / 2 ^ 32 % 8 = d with
  | none => .next s
  | some r => .next (State.applyReq { s with bankq := s.bankq.erase r } r)

end Sys2Proof.Machine
end

