-- ==== Sys2Proof/Machine/Keccak.lean ====
section
/-!
DEFINITION. SHAKE256 and SHAKE128 of FIPS 202, the first of which the spec names (R434, R445, R448) and both of which ML-DSA-65 uses; its algorithm is PRESUMED from that standard (log entry 18).
The state is 25 lanes of 64 bits, lane (x, y) at index x + 5y.
-/

namespace Sys2Proof.Keccak

def lane (a : List (BitVec 64)) (x y : Nat) : BitVec 64 := nth 0#64 a (x % 5 + 5 * (y % 5))

def rotl (w : BitVec 64) (n : Nat) : BitVec 64 := w.rotateLeft n

/-- The rotation offsets of ρ, at index x + 5y. -/
def rho : List Nat :=
  [0, 1, 62, 28, 27, 36, 44, 6, 55, 20, 3, 10, 43, 25, 39, 41, 45, 15, 21, 8, 18, 2, 61, 56, 14]

def rc : List (BitVec 64) :=
  [0x0000000000000001#64, 0x0000000000008082#64, 0x800000000000808A#64, 0x8000000080008000#64,
   0x000000000000808B#64, 0x0000000080000001#64, 0x8000000080008081#64, 0x8000000000008009#64,
   0x000000000000008A#64, 0x0000000000000088#64, 0x0000000080008009#64, 0x000000008000000A#64] ++
  [0x000000008000808B#64, 0x800000000000008B#64, 0x8000000000008089#64, 0x8000000000008003#64,
   0x8000000000008002#64, 0x8000000000000080#64, 0x000000000000800A#64, 0x800000008000000A#64,
   0x8000000080008081#64, 0x8000000000008080#64, 0x0000000080000001#64, 0x8000000080008008#64]

def round (a : List (BitVec 64)) (k : BitVec 64) : List (BitVec 64) :=
  let c := tab 5 fun x => lane a x 0 ^^^ lane a x 1 ^^^ lane a x 2 ^^^ lane a x 3 ^^^ lane a x 4
  let d := tab 5 fun x => nth 0#64 c ((x + 4) % 5) ^^^ rotl (nth 0#64 c ((x + 1) % 5)) 1
  let t := tab 25 fun i => nth 0#64 a i ^^^ nth 0#64 d (i % 5)
  -- B[y, 2x + 3y] := rot(A[x, y]); read backwards: B[X, Y] comes from x = X + 3Y, y = X
  let b := tab 25 fun i =>
    let bx := i % 5
    let by_ := i / 5
    let x := (bx + 3 * by_) % 5
    rotl (lane t x bx) (nth 0 rho (x + 5 * bx))
  let r := tab 25 fun i =>
    let x := i % 5
    let y := i / 5
    lane b x y ^^^ (~~~(lane b (x + 1) y) &&& lane b (x + 2) y)
  setAt r 0 (nth 0#64 r 0 ^^^ k)

def permute (a : List (BitVec 64)) : List (BitVec 64) := rc.foldl round a

/-- XORs a block of bytes into the lanes. -/
def absorb (a : List (BitVec 64)) (blk : List Byte) : List (BitVec 64) :=
  let ws := (chunks 8 17 blk).map fun c => BitVec.ofNat 64 (leNat c)
  permute (tab 25 fun i => nth 0#64 a i ^^^ nth 0#64 ws i)

/-- The first `n` bytes (at most 136) of SHAKE256 of a message. -/
def shake256 (msg : List Byte) (n : Nat) : List Byte :=
  let padLen := 136 - msg.length % 136
  let pad : List Byte :=
    if padLen = 1 then [0x9F#8] else 0x1F#8 :: (List.replicate (padLen - 2) 0#8 ++ [0x80#8])
  let m := msg ++ pad
  let a := (chunks 136 (m.length / 136 + 1) m).foldl absorb (List.replicate 25 0#64)
  ((a.map fun w => leBytes 8 w.toNat).flatten).take n

/-- The state after the absorption of a message at a rate of bytes, with the suffix of the SHAKE functions. -/
def sponge (rate : Nat) (msg : List Byte) : List (BitVec 64) :=
  let padLen := rate - msg.length % rate
  let pad : List Byte :=
    if padLen = 1 then [0x9F#8] else 0x1F#8 :: (List.replicate (padLen - 2) 0#8 ++ [0x80#8])
  let m := msg ++ pad
  (chunks rate (m.length / rate + 1) m).foldl (fun a blk =>
    let ws := (chunks 8 22 blk).map fun c => BitVec.ofNat 64 (leNat c)
    permute (tab 25 fun i => nth 0#64 a i ^^^ nth 0#64 ws i)) (List.replicate 25 0#64)

/-- Blocks of output, each of a rate of bytes, newest last. -/
def squeeze (rate : Nat) : Nat → List (BitVec 64) → List Byte
  | 0, _ => []
  | n + 1, a => ((a.map fun w => leBytes 8 w.toNat).flatten).take rate ++ squeeze rate n (permute a)

/-- The first `n` bytes of SHAKE256 of a message, whatever `n` is. -/
def xof256 (msg : List Byte) (n : Nat) : List Byte := (squeeze 136 ((n + 135) / 136) (sponge 136 msg)).take n

/-- The first `n` bytes of SHAKE128 of a message. -/
def xof128 (msg : List Byte) (n : Nat) : List Byte := (squeeze 168 ((n + 167) / 168) (sponge 168 msg)).take n

end Sys2Proof.Keccak
end

