-- ==== Sys2Proof/Machine/Links.lean ====
section
/-!
DEFINITION. Dilas ports (14): flits and their CRC (R394), go-back-N and flow control (R395), dead ports (R396), training (R397),
messages (R398) and what becomes of the unacknowledged messages of a port that goes down (R399).
-/

namespace Sys2Proof.Machine

/-- One bit step of the reflected CRC-32 of IEEE 802.3. -/
def crcStep : Nat → Nat → Nat
  | 0, c => c
  | n + 1, c => crcStep n (if c % 2 = 1 then (c / 2) ^^^ 0xEDB88320 else c / 2)

/-- CRC-32 of IEEE 802.3 (R394). -/
def crc32 (bs : List Byte) : Nat := (bs.foldl (fun c b => crcStep 8 (c ^^^ b.toNat)) 0xFFFFFFFF) ^^^ 0xFFFFFFFF

namespace Flit
def typ (f : List Byte) : Nat := bitsOf (leNat (f.take 4)) 4 4
def vc (f : List Byte) : Nat := bitsOf (leNat (f.take 4)) 0 4
def seq (f : List Byte) : Nat := bitsOf (leNat (f.take 4)) 20 12
def ack (f : List Byte) : Nat := bitsOf (leNat (f.take 4)) 8 12
def pay (f : List Byte) : List Byte := (f.drop 4).take 56
/-- A good flit: its CRC holds and its TYPE and VC are those of R394. -/
def good (f : List Byte) : Bool :=
  f.length == 64 && leNat (f.drop 60) == crc32 (f.take 60) && decide (typ f ≤ 4) && decide (vc f ≤ 3)
/-- A flit of 64 bytes with its CRC. -/
def build (seq ack typ vc : Nat) (pay : List Byte) : List Byte :=
  let b := leBytes 4 (seq % 4096 * 2 ^ 20 + ack % 4096 * 2 ^ 8 + typ * 16 + vc) ++ fit 0#8 56 pay
  b ++ leBytes 4 (crc32 b)
end Flit

namespace Msg
def hdr (m : List Byte) : Nat := leNat (m.take 8)
def kind (m : List Byte) : Nat := bitsOf (hdr m) 58 6
def dst (m : List Byte) : Nat := bitsOf (hdr m) 47 11
def src (m : List Byte) : Nat := bitsOf (hdr m) 36 11
def tid (m : List Byte) : Nat := bitsOf (hdr m) 20 16
def second (m : List Byte) : Nat := leNat ((m.drop 8).take 8)
def data (m : List Byte) : List Byte := (m.drop 16).take 32
/-- A message of 56 bytes (R398). -/
def build (kind dst src tid second : Nat) (data : List Byte) : List Byte :=
  leBytes 8 (kind * 2 ^ 58 + dst * 2 ^ 47 + src * 2 ^ 36 + tid * 2 ^ 20) ++ leBytes 8 second ++ fit 0#8 32 data ++
    List.replicate 8 0#8
/-- The virtual channel of a kind (R394): requests, responses, Yard and flag steps, collectives. -/
def vcOf (kind : Nat) : Nat :=
  match kind with
  | 1 | 3 => 0
  | 2 | 4 => 1
  | 6 => 3
  | _ => 2
end Msg

namespace Port

/-- Sends a flit that carries no message; it carries the last SEQ sent. -/
def sendCtl (p : Port) (typ vc : Nat) : Port :=
  { p with out := p.out ++ [Flit.build p.seqTx p.seqRx typ vc []] }

/-- A flit sent again: SEQ, VC and payload as before, and in ACK the last flit received in order by then (R394, R395). -/
def again (p : Port) (f : List Byte) : List Byte := Flit.build (Flit.seq f) p.seqRx 1 (Flit.vc f) (Flit.pay f)

/-- Sends what may be sent, in order, of what waits: the flits of a replay first, then new payloads while the window has a place; nothing on a
channel that is stopped (R395).  The wait for an ACK begins with the first flit that stands unacknowledged. -/
def drain (p : Port) (pcc : Nat) : Nat → Port
  | 0 => p
  | n + 1 =>
    match p.resend with
    | f :: t => if nth false p.xoffTx (Flit.vc f) then p else drain { p with resend := t, out := p.out ++ [p.again f] } pcc n
    | [] =>
      match p.waitq with
      | [] => p
      | (vc, m) :: t =>
        if 2047 ≤ p.unacked.length ∨ nth false p.xoffTx vc then p
        else
          let seq := (p.seqTx + 1) % 4096
          let f := Flit.build seq p.seqRx 1 vc m
          drain { p with waitq := t, seqTx := seq, unacked := p.unacked ++ [f], out := p.out ++ [f]
                         lastAck := if p.unacked.isEmpty then pcc else p.lastAck } pcc n

/-- Everything that may be sent. -/
def drainAll (p : Port) (pcc : Nat) : Port := p.drain pcc (p.resend.length + p.waitq.length)

/-- Queues a DATA payload and sends what may be sent. -/
def send (p : Port) (pcc vc : Nat) (m : List Byte) : Port := { p with waitq := p.waitq ++ [(vc, m)] }.drainAll pcc

/-- Takes an ACK: the flits up to it leave the replay buffer; `pcc` is the clk of the advance (R395). -/
def takeAck (p : Port) (pcc ack : Nat) : Port :=
  let done := fun (f : List Byte) => decide ((ack + 4096 - Flit.seq f) % 4096 < 2048)
  let n := (p.unacked.takeWhile done).length
  if n = 0 then p
  else { p with unacked := p.unacked.drop n, resend := p.resend.dropWhile done, lastAck := pcc, replays := 0 }.drainAll pcc

/-- Replays every flit after the acknowledged one, in order (R395); with none there is no replay. -/
def replay (p : Port) (pcc : Nat) : Port :=
  if p.unacked.isEmpty then p
  else { p with resend := p.unacked, replays := p.replays + 1, lastAck := pcc }.drainAll pcc

/-- An IDLE flit, unless the flits sent end with the same one: a run of equal IDLE flits is held as one (R394). -/
def idle (p : Port) : Port :=
  let f := Flit.build p.seqTx p.seqRx 0 0 []
  if p.st ≠ 2 ∨ p.out.getLast? = some f then p else { p with out := p.out ++ [f] }

/-- Flits of a virtual channel in the receive buffer. -/
def rxCount (p : Port) (vc : Nat) : Nat := (p.rx.filter fun e => e.1 = vc).length

end Port

namespace State

/-- Sends a message to a package by the lowest-numbered live port of its route (R399); false where there is none. -/
def sendMsg (s : State) (j kind dst tid second : Nat) (data : List Byte) : State × Bool :=
  match s.routePort j dst with
  | some k => (s.setPort k ((s.port k).send s.pcc (Msg.vcOf kind) (Msg.build kind dst s.pkg tid second data)), true)
  | none => (s, false)

/-- Sends a whole message from an I/O die by the route of its DST; with no live route it waits for one in `unrouted` (R399). -/
def sendRaw (s : State) (j : Nat) (m : List Byte) : State :=
  match s.routePort j (Msg.dst m) with
  | some q => s.setPort q ((s.port q).send s.pcc (Msg.vcOf (Msg.kind m)) m)
  | none => { s with unrouted := s.unrouted ++ [(j, m)] }

/-- The fate of the unacknowledged messages of a port that has gone down (R399). -/
def reroute (s : State) (p : Nat) : State :=
  let k := s.port p
  let ms := k.unacked.map Flit.pay ++ k.waitq.map (·.2)
  let s := s.setPort p { k with unacked := [], resend := [], waitq := [] }
  ms.foldl (fun s m =>
    let dst := Msg.dst m
    if Msg.kind m = 3 then
      -- WRREQ: not sent again, the sector counts as failed on a dead link and reads as poisoned (R159); a forwarded one is lost to its source
      if Msg.src m = s.pkg then
        let sec := paKeyAt s dst (Msg.second m / 32 * 32)
        { s.markPoison sec 32 with linkFail := Tbl.put s.linkFail sec 1, trans := Tbl.erase s.trans (Msg.tid m) }
      else s
    else if Msg.kind m = 1 then
      -- RDREQ: sent again once on the new route; with none its reader finds LINKDEAD
      match s.routePort (p / 16) dst with
      | some q => s.setPort q ((s.port q).send s.pcc (Msg.vcOf 1) m)
      | none => if Msg.src m = s.pkg then { s with reads := s.reads.filter fun e => e.tid != some (Msg.tid m) } else s
    else s.sendRaw (p / 16) m) s

/-- A port is dead (R396): recorded, its messages handed to R399. -/
def killPort (s : State) (p : Nat) : State :=
  ((s.setPort p { s.port p with st := 3 }).postError 3 3 p 0).reroute p

/-- A replay; a port of which eight in a row have failed to advance its ACK is dead instead (R395, R396). -/
def replayPort (s : State) (p : Nat) : State :=
  let k := s.port p
  if k.unacked.isEmpty then s else if 8 ≤ k.replays then s.killPort p else s.setPort p (k.replay s.pcc)

/-- RETRAIN: training starts on a port that is DOWN or DEAD (R397). -/
def retrainPort (s : State) (p : Nat) : State :=
  let k := s.port p
  if k.st = 0 ∨ k.st = 3 then s.setPort p { k with st := 1, first := false } else s

/-- HOLD: a LIVE port goes DOWN at once, without counting as dead (R397). -/
def holdPort (s : State) (p : Nat) : State :=
  let k := s.port p
  if k.st = 2 then (s.setPort p { k with st := 0 }).reroute p else s

/-- The message of a receive buffer's head is taken: XON when the occupancy falls to 256 (R395). -/
def takeRx (s : State) (p : Nat) (m : List Byte) : State :=
  let k := s.port p
  match k.rx.find? fun e => e.2 = m with
  | none => s
  | some (vc, _) =>
    let k := { k with rx := k.rx.erase (vc, m) }
    let k := if k.rxCount vc = 256 ∧ nth false k.xoffRx vc then
        ({ k with xoffRx := fillAt false k.xoffRx vc false }).sendCtl 4 vc else k
    s.setPort p k

/-- What every flit does: a bad one draws a NAK and flits are discarded until the expected one arrives; a good one renews the
port's life and carries an ACK (R395, R396). -/
def recvFlit (s : State) (p : Nat) (f : List Byte) (act : State → State) : State :=
  let k := s.port p
  if k.st ≠ 2 then s
  else if !Flit.good f then
    s.setPort p (if k.naked then k else { k with naked := true }.sendCtl 2 0)
  else act (s.setPort p ({ k with lastGood := s.pcc }.takeAck s.pcc (Flit.ack f)))

/-- The happening of a message by its KIND (R398). -/
def msgEvent (m : List Byte) : Option Instr :=
  match Msg.kind m with
  | 1 => some (.rdreq m)
  | 2 => some (.rdrsp m)
  | 3 => some (.wrreq m)
  | 4 => some (.wrack m)
  | 5 => some (.yardMsg m)
  | 6 => some (.collMsg m)
  | 7 => some (.stepMsg m)
  | _ => none

end State

/-! ## The rows -/

/-- FLIT_DATA (R395): accepted only when its SEQ is the next expected; its message is handed on, or dropped and counted in
MSGDROP for an invalid KIND (R398). -/
def execFlitData (f : List Byte) (s : State) : Host.Outcome State Fault Refusal :=
  let p := s.unit
  .next (s.recvFlit p f fun s =>
    let k := s.port p
    if Flit.typ f ≠ 1 then s
    else if Flit.seq f ≠ (k.seqRx + 1) % 4096 then
      s.setPort p (if k.naked then k else { k with naked := true }.sendCtl 2 0)
    else
      let vc := Flit.vc f
      let m := Flit.pay f
      let k := { k with seqRx := Flit.seq f, naked := false }
      match State.msgEvent m with
      | none => (s.setPort p k).bumpReg (0x7100 + 8 * (p / 16))
      | some i =>
        let k := { k with rx := k.rx ++ [(vc, m)] }
        let k := if k.rxCount vc = 768 then { k with xoffRx := fillAt false k.xoffRx vc true }.sendCtl 3 vc else k
        { s.setPort p k with agenda := s.agenda ++ [(p, i)] })

/-- FLIT_NAK (R395): every flit after the acknowledged one is replayed. -/
def execFlitNak (f : List Byte) (s : State) : Host.Outcome State Fault Refusal :=
  let p := s.unit
  .next (s.recvFlit p f fun s => if Flit.typ f = 2 then s.replayPort p else s)

/-- FLIT_XOFF (R395). -/
def execFlitXoff (f : List Byte) (s : State) : Host.Outcome State Fault Refusal :=
  let p := s.unit
  .next (s.recvFlit p f fun s =>
    if Flit.typ f = 3 then s.setPort p { s.port p with xoffTx := fillAt false (s.port p).xoffTx (Flit.vc f) true } else s)

/-- FLIT_XON (R395): held flits of the channel flow again. -/
def execFlitXon (f : List Byte) (s : State) : Host.Outcome State Fault Refusal :=
  let p := s.unit
  .next (s.recvFlit p f fun s =>
    if Flit.typ f = 4 then
      let k := { s.port p with xoffTx := fillAt false (s.port p).xoffTx (Flit.vc f) false }
      s.setPort p (k.drainAll s.pcc)
    else s)

/-- FLIT_IDLE (R394): only its ACK. -/
def execFlitIdle (f : List Byte) (s : State) : Host.Outcome State Fault Refusal := .next (s.recvFlit s.unit f id)

/-- REPLAY_TIMEOUT (R395, R396): no ACK has advanced for 4,096 clk while flits stand unacknowledged. -/
def execReplayTimeout (s : State) : Host.Outcome State Fault Refusal :=
  let p := s.unit
  let k := s.port p
  if k.st = 2 ∧ !k.unacked.isEmpty ∧ k.lastAck + 4096 ≤ s.pcc then .next (s.replayPort p) else .next s

/-- PORT_DEAD (R396): 2^20 clk without a good flit.  A port of which eight replays in a row have failed dies when a ninth would begin
(`replayPort`). -/
def execPortDead (s : State) : Host.Outcome State Fault Refusal :=
  let p := s.unit
  let k := s.port p
  if k.st = 2 ∧ k.lastGood + 2 ^ 20 ≤ s.pcc then .next (s.killPort p) else .next s

/-- PORT_TRAIN_END (R397): LIVE with SEQ, ACK and buffers reset; DEAD with FAILS and a record; or, at package reset with no far
end, DOWN without a record. -/
def execPortTrainEnd (ok farEnd : Bool) (s : State) : Host.Outcome State Fault Refusal :=
  let p := s.unit
  let k := s.port p
  if k.st ≠ 1 then .next s
  else if ok then
    .next (s.setPort p { st := 2, fails := 0, lastAck := s.pcc, lastGood := s.pcc, first := k.first, out := k.out })
  else if !farEnd ∧ k.first then .next (s.setPort p { k with st := 0 })
  else .next ((s.setPort p { k with st := 3, fails := min 15 (k.fails + 1) }).postError 3 3 p 0)

/-- PORTCTL_RETRAIN (R397). -/
def execPortctlRetrain (s : State) : Host.Outcome State Fault Refusal := .next (s.retrainPort s.unit)

/-- PORTCTL_HOLD (R397). -/
def execPortctlHold (s : State) : Host.Outcome State Fault Refusal := .next (s.holdPort s.unit)

/-- The key of a sector address of this package. -/
def sectorKey (s : State) (m : List Byte) : Nat := paKeyAt s s.pkg (Msg.second m / 32 * 32)

namespace State

/-- A message for another package leaves again by the route of its DST (R399). -/
def forward (s : State) (m : List Byte) : State := s.sendRaw (s.unit / 16) m

/-- A message that has arrived: taken from its buffer, and acted on by the package that its DST names (R398; log entry 16). -/
def arrived (s : State) (m : List Byte) (act : State → State) : State :=
  let s := s.takeRx s.unit m
  if Msg.dst m = s.pkg then act s else s.forward m

end State

namespace State

/-- A step message is applied once: a (SRC, TID) already applied is discarded (R399). -/
def once (s : State) (m : List Byte) (act : State → State) : State :=
  s.arrived m fun s =>
    let e := (Msg.src m, Msg.tid m)
    if s.applied.contains e then s else { act s with applied := e :: s.applied }

/-- What a YARD message does here, by its operation word (log entry 16): 1 posts an ABSENT notice (R431), 2 drops an entry from the handle
caches and acknowledges, 3 is that acknowledgement (R422), 4 posts a POOL notice; of any other word the spec states nothing. -/
def yardStep (s : State) (m : List Byte) : State :=
  let d := Msg.data m
  let w0 := leNat (d.take 8)
  let w1 := leNat ((d.drop 8).take 8)
  match Msg.second m with
  | 1 => s.postAbsent (bitsOf w0 52 12) s.pkg (bitsOf w0 12 29) (bitsOf w1 48 16) (bitsOf w1 0 32)
  | 2 => { s with hcache := s.hcache.filter fun e => e.1 / 128 != w0 }.post 5 (Msg.src m) 3 (leBytes 8 w0)
  | 3 =>
    match s.invs.find? fun v => v.2.1 == w0 && v.2.2.contains (128 + Msg.src m) with
    | none => s
    | some v =>
      let left := v.2.2.erase (128 + Msg.src m)
      { s with invs := s.invs.erase v ++ (if left.isEmpty then [] else [(v.1, v.2.1, left)]) }
  | 4 => s.postNotice 2 0
  | _ => s

/-! ## What leaves at the end of a clk -/

/-- A transaction id that no open transaction of the package has (R398). -/
def freeTid (s : State) : Nat :=
  let free := fun (t : Nat) => (Tbl.find s.trans t).isNone && !s.reads.any fun e => e.tid == some t
  ((List.range 65536).find? fun i => free ((s.tids + i) % 65536)).elim 0 fun i => (s.tids + i) % 65536

/-- The I/O die whose route table leads to a package by a live port (R399). -/
def routeDie (s : State) (p : Nat) : Option Nat := [0, 1].find? fun j => (s.routePort j p).isSome

/-- The RDREQ of a sector that a reader has asked for leaves; with no live route the reader finds LINKDEAD when it asks again (R398, R399). -/
def sendRead (s : State) (e : SecRead) : State :=
  if e.tid.isSome || e.here then { s with reads := s.reads ++ [e] }
  else
    let p := bitsOf e.key 44 11
    match s.routeDie p with
    | none => s
    | some j =>
      let t := s.freeTid
      (State.sendMsg { s with tids := t + 1, reads := s.reads ++ [{ e with tid := some t }] } j 1 p t (e.key % 2 ^ 44) []).1

/-- A sector of a peer that has been written goes out as a WRREQ; with no live route it has failed on a dead link (R398, R399). -/
def sendSector (s : State) (k : Nat) : State :=
  let p := bitsOf k 44 11
  match s.routeDie p with
  | none => { s.markPoison k 32 with linkFail := Tbl.put s.linkFail k 1 }
  | some j =>
    let t := s.freeTid
    (State.sendMsg { s with tids := t + 1, trans := Tbl.put s.trans t (p, k % 2 ^ 44) } j 3 p t (k % 2 ^ 44) (s.bytes k 32)).1

/-- A message that waits leaves; it waits on while there is no live route. -/
def sendPost (s : State) (x : Nat × Nat × Nat × List Byte) : State :=
  match s.routeDie x.2.1 with
  | none => { s with outbox := s.outbox ++ [x] }
  | some j =>
    let t := s.freeTid
    let trans := if x.1 = 3 then Tbl.put s.trans t (x.2.1, x.2.2.1) else s.trans
    (State.sendMsg { s with tids := t + 1, trans := trans } j x.1 x.2.1 t x.2.2.1 x.2.2.2).1

/-- Everything that leaves by the links at the end of a clk: sectors written, messages, and IDLE flits (R394, R398). -/
def sendAll (s : State) : State :=
  let secs := s.dirty.filterMap fun d => match d with
    | .sector k => some k
    | _ => none
  let rest := s.dirty.filter fun d => match d with
    | .sector _ => false
    | _ => true
  let s0 := s.unrouted.foldl (fun s e => s.sendRaw e.1 e.2) { s with dirty := rest, unrouted := [] }
  let s1 := secs.foldl sendSector s0
  let s1 := s1.reads.foldl sendRead { s1 with reads := [] }
  let s2 := s1.outbox.foldl sendPost { s1 with outbox := [] }
  { s2 with ports := s2.ports.map fun e => (e.1, e.2.idle) }

end State

/-- YARD (R398): discarded when already applied. -/
def execYardMsg (m : List Byte) (s : State) : Host.Outcome State Fault Refusal := .next (s.once m fun s => s.yardStep m)

/-- STEP (R398): discarded when already applied; the layout of its operation word is not in the spec, so the step itself is left out
(log entry 16). -/
def execStepMsg (m : List Byte) (s : State) : Host.Outcome State Fault Refusal := .next (s.once m id)

/-- A piece of a contribution is stored under its collective, its source and its number. -/
def State.putPiece (s : State) (k : Contrib) (n : Nat) (d : List Byte) : State :=
  let same := fun (c : Contrib) => c.grp == k.grp && c.tag == k.tag && c.instr == k.instr && c.src == k.src
  if s.contribs.any same then
    { s with contribs := s.contribs.map fun c => if same c then { c with pcs := Tbl.put c.pcs n d } else c }
  else { s with contribs := s.contribs ++ [{ k with pcs := [(n, d)] }] }

/-- COLL (R398): a piece of a contribution.  Its operation word holds the instruction in [63:62], the number of the piece in [61:32] and the
TAG in [31:0]; the data are the group (GEN, HOME, LOCAL) in eight bytes and 24 bytes of the contribution (log entry 17). -/
def execCollMsg (m : List Byte) (s : State) : Host.Outcome State Fault Refusal :=
  let w := Msg.second m
  let d := Msg.data m
  .next (s.once m fun s =>
    s.putPiece { grp := leNat (d.take 8), tag := bitsOf w 0 32, instr := bitsOf w 62 2, src := Msg.src m, pcs := [] } (bitsOf w 32 30)
      (d.drop 8))

end Sys2Proof.Machine
end

