-- ==== Sys2Proof/Machine/RegWin.lean ====
section
/-!
DEFINITION. The window of device registers (15 R413 to R415, R426, R432, R438, R439, R460; 16 R448, R454, R455): reading, writing, and
the rows whose happening is a register write.
-/

namespace Sys2Proof.Machine

/-- The guard value of MARGIN (R455). -/
def marginGuard : Nat := 16

/-- Width of the register at an offset; 0 where none is shown (R414). -/
def regWidth (off : Nat) : Nat :=
  if off = 0 then 11
  else if off = 0x8 then 64
  else if off = 0x10 then 32
  else if off = 0x18 ∨ off = 0x20 then 64
  else if 0x100 ≤ off ∧ off < 0x180 then 64
  else if 0x1000 ≤ off ∧ off < 0x1000 + 32 * 137 then
    (if off % 32 = 0 then 64 else if off % 32 = 24 then 3 else 32)
  else if 0x3000 ≤ off ∧ off < 0x3000 + 64 * 9 ∧ off % 64 < 32 then 64
  else if 0x4000 ≤ off ∧ off < 0x4000 + 64 * 12 ∧ off % 64 = 0 then 6
  else if 0x5000 ≤ off ∧ off < 0x5080 ∧ off % 64 < 40 then 64
  else if 0x6000 ≤ off ∧ off < 0x6030 then 64
  else if off = 0x7000 ∨ off = 0x7008 then 32
  else if off = 0x7100 ∨ off = 0x7108 then 64
  else if 0x7200 ≤ off ∧ off < 0x7300 then 16
  else if 0x8000 ≤ off ∧ off < 0x8200 then
    (if off % 64 < 24 then 16 else if off % 64 = 24 then 2 else 0)
  else if 0x9000 ≤ off ∧ off < 0x9400 then 32
  else if 0xA000 ≤ off ∧ off < 0xA028 then 64
  else if 0xA100 ≤ off ∧ off < 0xA130 then 64
  else if 0xB000 ≤ off ∧ off < 0xB248 then 64
  else if off = 0xC000 then 12
  else if 0xD000 ≤ off ∧ off < 0xD200 ∧ off % 64 < 40 then 64
  else if 0xE000 ≤ off ∧ off < 0xE200 then 64
  else if 0xE200 ≤ off ∧ off < 0xE400 then 1
  else if 0xE400 ≤ off ∧ off < 0xE600 then 3
  else if 0x10000 ≤ off ∧ off < 0x10000 + 512 * 12 then 64
  else if 0x20000 ≤ off ∧ off < 0x24000 then 32
  else 0

/-- The bits of a register that are not reserved: of a class table entry SECCLK, NOPRE and DTRAP (R107). -/
def regFields (off : Nat) : Word := if 0x100 ≤ off ∧ off < 0x180 then 0xFFFF0003#64 else BitVec.allOnes 64

/-- Registers that ignore writes (R414). -/
def regReadOnly (off : Nat) : Bool :=
  off == 0 || off == 0x5018 || off == 0x5058 || off == 0x6010 || off == 0xA010 || off == 0xA020 || off == 0xC000 ||
  (0x3000 ≤ off && off < 0x3240 && off % 64 == 24) ||
  (0x8000 ≤ off && off < 0x8200 && (off % 64 == 16 || off % 64 == 24)) ||
  (0xD000 ≤ off && off < 0xD200 && (off % 64 == 24 || off % 64 == 32)) ||
  (0xB000 ≤ off && off < 0xB200)

namespace Gov

/-- Section tokens in use: held, or freed and not yet free (R451). -/
def busy (g : Gov) (pcc : Nat) : Nat := g.held.length + (g.freed.filter fun t => decide (pcc < t)).length

end Gov

/-- STAT of an interpreter (R415). -/
def Interp.stat (k : Interp) : Nat := k.errIdx % 2 ^ 32 * 2 ^ 32 + k.err * 2 ^ 16 + k.errFault * 2 ^ 8 + k.st

/-- CLSTAT of a cluster (R455). -/
def Cluster.stat (k : Cluster) : Nat := k.vcode % 256 * 2 ^ 24 + b2n k.degr * 2 ^ 16 + k.margin.toNat

/-- PORTCTL of a port (R397). -/
def Port.ctl (k : Port) : Nat := k.fails % 16 * 2 ^ 12 + k.st

namespace State

/-- The pseudo-channel of a PA in stack `t` (R438). -/
def hpcIndex (s : State) (t pa : Nat) : Nat :=
  let o := pa % 2 ^ 36
  (bitsOf o 7 6) ^^^ (bitsOf o 13 6 &&& s.regN (0x4000 + 64 * t))

/-- Clks in which sources whose accesses an L2 may serve could reach the channels of stack `t`. -/
def noiseOf (s : State) (t : Nat) : Nat := Tbl.get 0 s.noise t + Tbl.get 0 s.noise 12

/-- Where the noise of a stack is kept at the last write of an HPC counter. -/
def hpcStamp (off : Nat) : Nat := 0x200000 + off

/-- HPC counter at an offset (R439): what the accesses of system cores have counted, and, where other sources may have made accesses since the
counter was written, a free number for those that reached the channel (log entry 19). -/
def hpcRead (s : State) (off : Nat) : Word :=
  let n := s.noiseOf ((off - 0x10000) / 512)
  s.reg off + (if s.regN (hpcStamp off) = n then 0#64 else Config.freeWord (2 ^ 80 + 2 ^ 64 * off + n))

/-- A store to an HPC counter. -/
def hpcWrite (s : State) (off : Nat) (v : Word) : State :=
  (s.setReg off v).setReg (hpcStamp off) (BitVec.ofNat 64 (s.noiseOf ((off - 0x10000) / 512)))

/-- The PA of stack `t` that reaches, after the bits `d` of HMASK have changed, what `key` reached before (R438): the place in the stack stays
what it was, and so do PA bits [18:13] and [6:0]. -/
def remaskKey (t d key : Nat) : Nat :=
  if key / 2 ^ 36 = t ∧ key < 0x0C000000000 then key - bitsOf key 7 6 * 128 + (bitsOf key 7 6 ^^^ (bitsOf key 13 6 &&& d)) * 128 else key

/-- A write of HMASK of stack `t` (R438): no data moves, so every byte of the stack is reached from then on by another
PA, and the Yard entries and records are those that their places now hold (R104, R418). -/
def remask (s : State) (t : Nat) (v : Word) : State :=
  let d := s.regN (0x4000 + 64 * t) ^^^ v.toNat
  let s1 := s.tablesToMem.setReg (0x4000 + 64 * t) v
  if d = 0 then s.setReg (0x4000 + 64 * t) v
  else
    let s2 : State :=
      { s1 with mem := s1.mem.foldl (fun m e => Tbl.set 0#8 m (remaskKey t d e.1) e.2) [], poison := s1.poison.map (remaskKey t d), l2Poison := s1.l2Poison.map (remaskKey t d) }
    let s3 := if s2.regN 0x10 ≠ 0 ∧ paKeyAt s2 s2.pkg (s2.regN 8) / 2 ^ 36 = t then s2.reloadYard else s2
    if s3.reg 0x20 = 0#64 then s3 else s3.reloadPool

/-- A device register as a read returns it (R414). -/
def regRead (s : State) (off : Nat) : Word :=
  let n : Nat :=
    if 0x3000 ≤ off ∧ off < 0x3240 then
      let k := s.interp ((off - 0x3000) / 64)
      if off % 64 = 0 then k.clh.toNat else if off % 64 = 8 then k.cli.toNat
      else if off % 64 = 24 then k.stat else 0
    else if 0x5000 ≤ off ∧ off < 0x5080 ∧ off % 64 = 16 then 0
    else if 0x7200 ≤ off ∧ off < 0x7300 then (s.port ((off - 0x7200) / 8)).ctl
    else if 0x8000 ≤ off ∧ off < 0x8200 then
      let g := s.gov ((off - 0x8000) / 64)
      if off % 64 = 0 then g.gtok else if off % 64 = 8 then g.gbook
      else if off % 64 = 16 then g.gtok - g.busy s.pcc else s.therm
    else if 0x9000 ≤ off ∧ off < 0x9400 then (s.cluster ((off - 0x9000) / 8)).stat
    else if 0xD000 ≤ off ∧ off < 0xD200 ∧ off % 64 = 16 then 0
    else if 0x10000 ≤ off ∧ off < 0x10000 + 512 * 12 then (s.hpcRead off).toNat
    else s.regN off
  BitVec.ofNat 64 (n % 2 ^ regWidth off)

/-! ## Registers with a behaviour -/

/-- CLCTL := 1 (R415). -/
def startInterp (s : State) (i : Nat) : State :=
  s.modInterp i fun k => if k.st = 0 then { k with st := 1, stack := [], hold := none, busyTo := s.pcc } else k

/-- CLCTL := 2 (R415). -/
def clearInterp (s : State) (i : Nat) : State :=
  s.modInterp i fun k => if k.st = 2 then { k with st := 0, err := 0, errFault := 0, errIdx := 0, hold := none } else k

/-- MRDONE (R432). -/
def mrdone (s : State) (v : Word) : State := { s with merges := Tbl.erase s.merges v.toNat }

/-- A MARGIN notice and an error record of TYPE 4 (R455, R458). -/
def noteMargin (s : State) (c : Nat) : State := (s.postNotice 4 c).postError 4 4 c 0

/-- A write of CLSTAT (R455). -/
def writeClstat (s : State) (c : Nat) (v : Word) : State :=
  let k := s.cluster c
  let k := if v.getLsbD 16 then s.degrade c k
    else if marginGuard ≤ k.margin.toNat then { k with degr := false } else k
  let code := fld v 24 8
  s.setCluster c (if 40 ≤ code ∧ code ≤ 140 then { k with target := code } else k)

/-- Measurement slot `k` as bytes (R448). -/
def slotBytes (s : State) (k : Nat) : List Byte := (tab 8 fun w => leBytes 8 (s.regN (0xB000 + 64 * k + 8 * w))).flatten

/-- Extends slot `k` with a digest (R448). -/
def extendSlot (s : State) (k : Nat) (d : List Byte) : State :=
  let h := words64 8 (Keccak.shake256 (s.slotBytes k ++ d) 64)
  (List.range 8).foldl (fun s w => s.setReg (0xB000 + 64 * k + 8 * w) (nth 0#64 h w)) s

/-- A write of the extension slot number (R448). -/
def extendWrite (s : State) (v : Word) : State :=
  let s := s.setReg 0xB240 v
  if 2 ≤ v.toNat ∧ v.toNat ≤ 7 then
    s.extendSlot v.toNat ((tab 8 fun w => leBytes 8 (s.regN (0xB200 + 8 * w))).flatten)
  else s

/-- The Yard slice or the CR pool is where the registers now say (R104, R418); what the old place has yet to receive reaches it first. -/
def movedTable (s : State) (off : Nat) (x : Word) : State :=
  let s1 := s.tablesToMem.setReg off x
  if off = 0x20 then s1.reloadPool else s1.reloadYard

/-- A store to a device register (R414); its reserved fields are ignored (R6, R107). -/
def regWrite (s : State) (off : Nat) (v : Word) : State :=
  let x := BitVec.ofNat 64 (v.toNat % 2 ^ regWidth off) &&& regFields off
  if regWidth off = 0 ∨ regReadOnly off then s
  else if 0x3000 ≤ off ∧ off < 0x3240 then
    let i := (off - 0x3000) / 64
    let k := s.interp i
    if off % 64 = 0 then (if k.st = 1 then s else s.setInterp i { k with clh := x })
    else if off % 64 = 8 then (if k.st = 1 then s else s.setInterp i { k with cli := x })
    else if x = 1#64 then s.startInterp i
    else if x = 2#64 then s.clearInterp i
    else s
  else if 0x5000 ≤ off ∧ off < 0x5080 ∧ off % 64 = 16 then s.pushFrame s.pkg ((off - 0x5000) / 64) x.toNat
  else if off = 0x8 ∨ off = 0x10 ∨ off = 0x20 then s.movedTable off x
  else if 0x4000 ≤ off ∧ off < 0x4000 + 64 * 12 then s.remask ((off - 0x4000) / 64) x
  else if 0x10000 ≤ off ∧ off < 0x10000 + 512 * 12 then s.hpcWrite off x
  else if off = 0x6020 then s.mrdone x
  else if 0x7200 ≤ off ∧ off < 0x7300 then
    let p := (off - 0x7200) / 8
    let s := if x.getLsbD 9 then s.holdPort p else s
    if x.getLsbD 8 then s.retrainPort p else s
  else if 0x8000 ≤ off ∧ off < 0x8200 then
    let d := (off - 0x8000) / 64
    if off % 64 = 0 then s.setGov d { s.gov d with gtok := x.toNat } else s.setGov d { s.gov d with gbook := x.toNat }
  else if 0x9000 ≤ off ∧ off < 0x9400 then s.writeClstat ((off - 0x9000) / 8) x
  else if off = 0xB240 then s.extendWrite x
  else if 0xD000 ≤ off ∧ off < 0xD200 ∧ off % 64 = 16 then s.pushFp ((off - 0xD000) / 64) x
  else s.setReg off x

/-- A register of a peer as a read over the links returns it (R412, R414; log entry 45). -/
def peerRead (s : State) (p off : Nat) : Word :=
  BitVec.ofNat 64 ((if 0x5000 ≤ off ∧ off < 0x5080 ∧ off % 64 = 16 then 0 else s.pregN p off) % 2 ^ regWidth off)

/-- A store to a register of a peer (R412, R414): it goes out as a WRREQ (R398; log entry 16); a frame pushed joins the peer's ring as this
package knows it, and every other register is known to hold what is written (log entry 45). -/
def peerWrite (s : State) (p off : Nat) (v : Word) : State :=
  let x := BitVec.ofNat 64 (v.toNat % 2 ^ regWidth off) &&& regFields off
  if regWidth off = 0 ∨ regReadOnly off then s
  else
    let n := if 0x20000 ≤ off ∧ off < 0x24000 then 4 else 8
    let s1 := s.post 3 p (0x70000000000 + off) (List.replicate (off % 32) 0#8 ++ leBytes n x.toNat)
    if 0x5000 ≤ off ∧ off < 0x5080 ∧ off % 64 = 16 then s1.pushFrame p ((off - 0x5000) / 64) x.toNat
    else s1.setPreg p off x

/-- One granule's count: `n` accesses reach the channel of the granule at `key` of stack `t` (R439). -/
def countGran (s : State) (t key n : Nat) : State :=
  let off := 0x10000 + 512 * t + 8 * s.hpcIndex t key
  s.setReg off (s.reg off + BitVec.ofNat 64 n)

/-- May an L2 hold a dirty copy of a granule: has a system core stored to it through its cache, or has any other source been at work on its
stack (R412)? -/
def mayRecall (s : State) (t key : Nat) : Bool := s.dirtyGran.contains (key / 128) || s.noiseOf t != 0

/-- An uncached access to a granule (R412, R439): it counts one, and where it recalls a dirty copy, which a free Boolean says, the recall and
the write-back count one each (log entry 19). -/
def countUncached (s : State) (t key : Nat) : State :=
  if s.mayRecall t key then
    let b := s.flip
    ({ b.2 with dirtyGran := b.2.dirtyGran.filter (· != key / 128) }).countGran t key (if b.1 then 3 else 1)
  else s.countGran t key 1

/-- Counts an access of `n` bytes to an HBM4E channel (R439): an uncached access reaches the channel and counts one for each granule that it
touches; whether a cached one does depends on what the L2s hold (a free Boolean for each granule, log entry 19). -/
def countHpc (s : State) (r : PaRef) (n : Nat) : State :=
  if r.pkg ≠ none ∨ r.kind ≠ .hbm then s
  else
    let t := r.key / 2 ^ 36
    (List.range ((r.key + n - 1) / 128 - r.key / 128 + 1)).foldl (fun s i =>
      if r.uncached then s.countUncached t (r.key + 128 * i)
      else
        let b := s.flip
        b.2.countGran t (r.key + 128 * i) (b2n b.1)) s

/-- A store of a system core through its cache may leave the granules that it touches dirty in an L2 (R412). -/
def soil (s : State) (r : PaRef) (n : Nat) : State :=
  if r.pkg ≠ none ∨ r.kind ≠ .hbm ∨ r.uncached = true then s
  else { s with dirtyGran := ((List.range ((r.key + n - 1) / 128 - r.key / 128 + 1)).map fun i => r.key / 128 + i).foldl (fun l g => if l.contains g then l else g :: l) s.dirtyGran }

/-- A place of local storage that a privileged instruction or the device itself reads or stores (R439). -/
def tableRef (key : Nat) : PaRef := { pkg := none, kind := if key < 0x0C000000000 then .hbm else .spoil, key := key, uncached := false }

end State

/-! ## Sector messages (R398) -/

namespace State

/-- Where the sector address of a message stands here (R412); none for an address of no map. -/
def sectorRef (s : State) (m : List Byte) : Option PaRef := paRef s (sectorKey s m)

/-- The 32 bytes of a sector: of storage, or of the registers of the window (R412, R414; log entry 16). -/
def sectorBytes (s : State) (r : PaRef) : List Byte :=
  match r.kind with
  | .regs off =>
    if 0x20000 ≤ off ∧ off < 0x24000 then (tab 8 fun i => leBytes 4 (s.regRead (off + 4 * i)).toNat).flatten
    else (tab 4 fun i => leBytes 8 (s.regRead (off + 8 * i)).toNat).flatten
  | _ => s.bytes r.key 32

/-- The register that a WRREQ to the window writes: the one that the low bits of its address name, with its width in bytes (log entry 16). -/
def sectorReg (off low : Nat) : Nat × Nat := if 0x20000 ≤ off ∧ off < 0x24000 then (low / 4 * 4, 4) else (low / 8 * 8, 8)

/-- Stores a sector that a WRREQ brings: into storage, or into a register of the window (R412, R414). -/
def storeSector (s : State) (key : Nat) (m : List Byte) : State :=
  match paRef s key with
  | none => s
  | some r =>
    match r.kind with
    | .regs off =>
      let (at_, n) := sectorReg off (Msg.second m % 32)
      s.regWrite (off + at_) (BitVec.ofNat 64 (leNat (((Msg.data m).drop at_).take n)))
    | _ => (s.write r.key (Msg.data m)).noteRemote [r.key]

/-- A WRREQ is applied at its place: the sector is stored, then a WRACK is sent (R398). -/
def applyWrreq (s : State) (key j : Nat) (m : List Byte) : State :=
  (s.storeSector key m).sendRaw j (Msg.build 4 (Msg.src m) s.pkg (Msg.tid m) (Msg.second m) [])

/-- WRREQs whose page is no longer locked are applied (R428). -/
def releaseLinkHeld (s : State) : State :=
  let go := s.linkHeld.filter fun e => !s.pageLocked e.1
  go.foldl (fun s e => s.applyWrreq e.1 (e.2.1 / 16) e.2.2) { s with linkHeld := s.linkHeld.filter fun e => s.pageLocked e.1 }

end State

/-- The place of a peer's registers in a sector, with their width in bytes (R412). -/
def peerRegs4 (key : Nat) : Option (Nat × Nat) :=
  match mapLow (key % 2 ^ 44) with
  | some (.regs off, _, _) => some (off, if 0x20000 ≤ off ∧ off < 0x24000 then 4 else 8)
  | _ => none

/-- A sector of a peer has come: what this package knows of that storage, or of those registers, is what it holds; a sector that this package
has stored to since, or lost, keeps what it has. -/
def State.bringSector (s : State) (key : Nat) (d : List Byte) : State :=
  match peerRegs4 key with
  | some (off, n) => (List.range (32 / n)).foldl (fun s i => s.setPreg (bitsOf key 44 11) (off + n * i) (BitVec.ofNat 64 (leNat ((d.drop (n * i)).take n)))) s
  | none =>
    let mine := s.dirty.contains (.sector key) || (Tbl.find s.linkFail key).isSome || s.trans.any fun t => paKeyAt s t.2.1 (t.2.2 / 32 * 32) == key
    if mine then s else s.write key d

/-- RDRSP (R398): the sector is here for the reader that asked for it. -/
def execRdrsp (m : List Byte) (s : State) : Host.Outcome State Fault Refusal :=
  .next (s.arrived m fun s =>
    match s.reads.find? fun e => e.tid == some (Msg.tid m) with
    | none => s
    | some e =>
      let s1 := s.bringSector e.key (Msg.data m)
      { s1 with reads := s1.reads.map fun x => if x.tid == some (Msg.tid m) then { x with tid := none, here := true } else x })

/-- RDREQ (R398): answered by an RDRSP with the sector. -/
def execRdreq (m : List Byte) (s : State) : Host.Outcome State Fault Refusal :=
  .next (s.arrived m fun s =>
    s.sendRaw (s.unit / 16) (Msg.build 2 (Msg.src m) s.pkg (Msg.tid m) (Msg.second m) (((s.sectorRef m).map s.sectorBytes).getD [])))

/-- WRREQ (R398): the sector is stored, then a WRACK is sent; a page lock holds it (R428). -/
def execWrreq (m : List Byte) (s : State) : Host.Outcome State Fault Refusal :=
  .next (s.arrived m fun s =>
    let key := sectorKey s m
    if s.pageLocked key then { s with linkHeld := s.linkHeld ++ [(key, s.unit, m)] } else s.applyWrreq key (s.unit / 16) m)

/-- WRACK (R398): the write is complete at its source. -/
def execWrack (m : List Byte) (s : State) : Host.Outcome State Fault Refusal :=
  .next (s.arrived m fun s => { s with trans := Tbl.erase s.trans (Msg.tid m) })

/-! ## The rows that are register writes -/

/-- REGISTER_WRITE (R414): `addr` is the offset in the window. -/
def execRegisterWrite (addr : Nat) (value : Word) (s : State) : Host.Outcome State Fault Refusal := .next (s.regWrite addr value)

/-- FPPUSH_WRITE (R460). -/
def execFppushWrite (value : Word) (s : State) : Host.Outcome State Fault Refusal := .next (s.pushFp s.unit value)

/-- FPUSH_WRITE (R426). -/
def execFpushWrite (value : Word) (s : State) : Host.Outcome State Fault Refusal := .next (s.pushFrame s.pkg s.unit value.toNat)

/-- MRDONE_WRITE (R432). -/
def execMrdoneWrite (value : Word) (s : State) : Host.Outcome State Fault Refusal := .next (s.mrdone value)

/-- MEASUREMENT_EXTEND (R448). -/
def execMeasurementExtend (value : Word) (s : State) : Host.Outcome State Fault Refusal := .next (s.extendWrite value)

/-- CLSTAT_WRITE (R455). -/
def execClstatWrite (value : Word) (s : State) : Host.Outcome State Fault Refusal := .next (s.writeClstat s.unit value)

/-- CLCTL_START (R415). -/
def execClctlStart (s : State) : Host.Outcome State Fault Refusal := .next (s.startInterp s.unit)

/-- CLCTL_CLEAR (R415). -/
def execClctlClear (s : State) : Host.Outcome State Fault Refusal := .next (s.clearInterp s.unit)

end Sys2Proof.Machine
end

