-- ==== Sys2Proof/Machine/Hart.lean ====
section
/-!
DEFINITION. The system cores (15 R411 to R413, R417, R418, R459, R461): physical accesses, exceptions and interrupts.  What the spec takes
from the RISC-V privileged architecture (CSR numbers and fields, trap entry and return, Sv48 and Sv57) is PRESUMED from
it (log entry 10).
-/

namespace Sys2Proof.Machine

namespace Hart

def csrOf (k : Hart) (n : Nat) : Word := Tbl.get 0#64 k.csr n
def setCsr (k : Hart) (n : Nat) (w : Word) : Hart := { k with csr := Tbl.put k.csr n w }
def getX (k : Hart) (r : BitVec 5) : Word := if r = 0#5 then 0#64 else nth 0#64 k.x r.toNat
def setX (k : Hart) (r : BitVec 5) (w : Word) : Hart := if r = 0#5 then k else { k with x := fillAt 0#64 k.x r.toNat w }
def mstatus (k : Hart) : Word := k.csrOf 0x300

/-- A write of fcsr or of its fields marks the floating-point state dirty. -/
def setFcsr (k : Hart) (v : BitVec 8) : Hart := { k.setCsr 0x300 (k.mstatus ||| 0x6000#64) with fcsr := v }

end Hart

/-- A field of a status word written. -/
def putBit (w : Word) (i : Nat) (b : Bool) : Word := setFld w i 1 (b2n b)

namespace Exc
def instAccess : Nat := 1
def illegal : Nat := 2
def breakpoint : Nat := 3
def loadMisaligned : Nat := 4
def loadAccess : Nat := 5
def storeMisaligned : Nat := 6
def storeAccess : Nat := 7
def instPage : Nat := 12
def loadPage : Nat := 13
def storePage : Nat := 15
/-- The access fault and the page fault of a fetch (0), a load (1), a store (2). -/
def access (acc : Nat) : Nat := if acc = 0 then instAccess else if acc = 1 then loadAccess else storeAccess
def page (acc : Nat) : Nat := if acc = 0 then instPage else if acc = 1 then loadPage else storePage
end Exc

/-- Trap entry of the RISC-V privileged architecture: to S when the cause is delegated and the hart is not in M, else to M.
YDET takes its cause (R417); an interrupt leaves it. -/
def Hart.trap (k : Hart) (intr : Bool) (cause : Nat) (tval ydet : Word) : Hart :=
  let deleg := (k.csrOf (if intr then 0x303 else 0x302)).getLsbD cause
  let causeW := BitVec.ofNat 64 (cause + if intr then 2 ^ 63 else 0)
  let vec := fun (tv : Word) =>
    let base := tv &&& ~~~3#64
    if intr && tv.getLsbD 0 then base + BitVec.ofNat 64 (4 * cause) else base
  let st := k.mstatus
  let k := { k with ydet := ydet, wait := none }
  if deleg && k.mode != 3 then
    let st := putBit (putBit (putBit st 5 (st.getLsbD 1)) 1 false) 8 (k.mode = 1)
    let k := (((k.setCsr 0x141 k.pc).setCsr 0x142 causeW).setCsr 0x143 tval).setCsr 0x300 st
    { k with mode := 1, pc := vec (k.csrOf 0x105) }
  else
    let st := setFld (putBit (putBit st 7 (st.getLsbD 3)) 3 false) 11 2 k.mode
    let k := (((k.setCsr 0x341 k.pc).setCsr 0x342 causeW).setCsr 0x343 tval).setCsr 0x300 st
    { k with mode := 3, pc := vec (k.csrOf 0x305) }

/-- MRET. -/
def Hart.mret (k : Hart) : Hart :=
  let st := k.mstatus
  let mpp := fld st 11 2
  let st := setFld (putBit (putBit st 3 (st.getLsbD 7)) 7 true) 11 2 0
  let st := if mpp = 3 then st else putBit st 17 false
  { (k.setCsr 0x300 st).retireTo (k.csrOf 0x341) with mode := mpp }

/-- SRET of a hart. -/
def Hart.sret (k : Hart) : Hart :=
  let st := k.mstatus
  let spp := st.getLsbD 8
  let st := putBit (putBit (putBit (putBit st 1 (st.getLsbD 5)) 5 true) 8 false) 17 false
  { (k.setCsr 0x300 st).retireTo (k.csrOf 0x141) with mode := b2n spp }

namespace State

def hartTrap (s : State) (h cause : Nat) (tval ydet : Word) : State := s.modHart h fun k => k.trap false cause tval ydet

/-- The illegal-instruction exception of a hart with a cause in YDET (R417): stval holds the instruction bits. -/
def hartIllegal (s : State) (h : Nat) (w : BitVec 32) (ydet : Nat) : State :=
  s.hartTrap h Exc.illegal (w.zeroExtend 64) (BitVec.ofNat 64 ydet)

/-! ## Physical accesses -/

/-- Does the access touch the Yard slice (R418)? -/
def touchesYard (s : State) (key n : Nat) : Bool :=
  let b := paKeyAt s s.pkg (s.regN 8)
  decide (s.regN 0x10 ≠ 0) && decide (b < key + n) && decide (key < b + 128 * s.regN 0x10)

/-- May a hart access `n` bytes at a PA (R412, R414, R418)?  The place of the bytes. -/
def hartPlace (s : State) (pa n : Nat) : Option PaRef :=
  match paRef s pa, paRef s (pa + n - 1) with
  | some r, some _ =>
    match r.kind with
    | .regs off =>
      if !s.keyLive r.key then none
      else if 0x20000 ≤ off ∧ off < 0x24000 then (if n = 4 ∧ off % 4 = 0 then some r else none)
      else if n = 8 ∧ off % 8 = 0 then some r else none
    | _ =>
      if r.pkg.isNone && s.touchesYard r.key n then none
      else if !s.keyLive r.key then none
      else some r
  | _, _ => none

/-- The unit that an error record of poisoned data names, and its index (R458): HBM4E stack and channel, Spoil, or the Bench bank of a
die. -/
def poisonUnit (s : State) (r : PaRef) : Nat × Nat :=
  match r.kind with
  | .hbm => (1, r.key / 2 ^ 36 * 32 + s.hpcIndex (r.key / 2 ^ 36) r.key / 2)
  | .spoil => (2, 0)
  | .bench d => (0, d * 2 ^ 10 + r.key % 2 ^ 25 / 32 % 1024)
  | .regs _ => (0, 0)

/-- A load's bytes, or the access fault with the YDET cause it carries: 9 for poisoned data (R459). -/
def hartRead (s : State) (pa n : Nat) : Except Nat Nat × State :=
  match s.hartPlace pa n with
  | none => (.error 0, s)
  | some r =>
    match r.kind with
    | .regs off =>
      (match r.pkg with
       | none => (.ok (s.regRead off).toNat, s)
       | some p => (.ok (s.peerRead p off).toNat, s))
    | _ =>
      if s.poisoned r.key n then
        let (u, i) := s.poisonUnit r
        (.error 9, s.postError 2 u i pa)
      else (.ok (s.num r.key n), s.countHpc r n)

/-- The reservations that a store of `n` bytes at `key` leaves (R411): those it does not touch. -/
def resvsLeft (s : State) (key n : Nat) : Tbl Resv := s.resvs.filter fun e => decide (key + n ≤ e.2.key) || decide (e.2.key + e.2.n ≤ key)

/-- A store; none when it raises the access fault. -/
def hartWrite (s : State) (pa n x : Nat) : Option State :=
  match s.hartPlace pa n with
  | none => none
  | some r =>
    match r.kind with
    | .regs off =>
      (match r.pkg with
       | none => some (s.regWrite off (BitVec.ofNat 64 x))
       | some p => some (s.peerWrite p off (BitVec.ofNat 64 x)))
    | _ => some { (((s.countHpc r n).soil r n).writeNum r.key n x).noteRemote [r.key, r.key + n - 1] with resvs := s.resvsLeft r.key n }

/-! ## Translation (Sv48, Sv57) -/

/-- What translating an address comes to: a physical address, a page fault, an access fault of the walk, or poison that the walk reads. -/
inductive Found where
  | at_ (pa : Nat)
  | page | access
  | poison (r : PaRef) (pa : Nat)
deriving DecidableEq, Repr

/-- What a walk finds. -/
inductive Walked where
  | leaf (pte level : Nat)
  | page | access
  | poison (r : PaRef) (pa : Nat)
deriving DecidableEq, Repr

/-- The walk over `levels` levels from a table at `base`.  The reserved bits of an entry, and the D, A and U bits of one that points to a
further table, must be 0. -/
def svWalk (s : State) (va : Nat) : Nat → Nat → Walked
  | 0, _ => .page
  | lv + 1, base =>
    let pa := base + 8 * bitsOf va (12 + 9 * lv) 9
    match s.hartPlace pa 8 with
    | none => .access
    | some r =>
      match r.kind with
      | .regs _ => .access
      | _ =>
        if s.poisoned r.key 8 then .poison r pa
        else
          let pte := s.num r.key 8
          if !bitOf pte 0 ∨ (!bitOf pte 1 ∧ bitOf pte 2) ∨ bitsOf pte 54 10 ≠ 0 then .page
          else if bitOf pte 1 ∨ bitOf pte 3 then
            if bitsOf pte 10 (9 * lv) ≠ 0 then .page else .leaf pte lv
          else if bitOf pte 4 ∨ bitOf pte 6 ∨ bitOf pte 7 then .page
          else svWalk s va lv (bitsOf pte 10 44 * 4096)

/-- May the access be made through a leaf: 0 fetch, 1 load, 2 store, from a mode, with the SUM and MXR bits of a status?  The A bit of the
leaf, and for a store its D bit, must be 1. -/
def leafPermits (pte mode acc : Nat) (st : Word) : Bool :=
  let permit := match acc with
    | 0 => bitOf pte 3
    | 1 => bitOf pte 1 || (st.getLsbD 19 && bitOf pte 3)
    | _ => bitOf pte 2
  let user : Bool := if bitOf pte 4 then mode == 0 || (acc != 0 && st.getLsbD 18) else mode != 0
  permit && user && bitOf pte 6 && (acc != 2 || bitOf pte 7)

/-- Translation of an access of a hart: 0 fetch, 1 load, 2 store. -/
def hartTranslate (s : State) (h : Nat) (va acc : Nat) : Found :=
  let k := s.hart h
  let st := k.mstatus
  let mode := if acc ≠ 0 ∧ st.getLsbD 17 then fld st 11 2 else k.mode
  let satp := k.csrOf 0x180
  let m := fld satp 60 4
  if mode = 3 ∨ (m ≠ 9 ∧ m ≠ 10) then .at_ va
  else
    let lv := if m = 9 then 4 else 5
    let w := 12 + 9 * lv
    if imod (signExt va w) (2 ^ 64) ≠ va then .page
    else
      match s.svWalk va lv (fld satp 0 44 * 4096) with
      | .page => .page
      | .access => .access
      | .poison r pa => .poison r pa
      | .leaf pte l =>
        if leafPermits pte mode acc st then
          .at_ (bitsOf pte (10 + 9 * l) (44 - 9 * l) * 2 ^ (12 + 9 * l) + va % 2 ^ (12 + 9 * l))
        else .page

/-! ## Accesses by virtual address -/

/-- The access fault of poisoned data, with its error record (R458, R459). -/
def hartPoison (s : State) (h cause : Nat) (r : PaRef) (pa tv : Nat) : State :=
  let (u, i) := s.poisonUnit r
  (s.postError 2 u i pa).hartTrap h cause (BitVec.ofNat 64 tv) 9#64

/-- The trap of an access whose address is not translated: `acc` as in hartTranslate, `tv` the address of the access, and `part` that of the
part of it which is translated.  Of poisoned data stval holds the address of the access (R459). -/
def hartFail (s : State) (h acc : Nat) (tv part : Nat) : Found → State
  | .at_ _ => s
  | .page => s.hartTrap h (Exc.page acc) (BitVec.ofNat 64 part) 0#64
  | .access => s.hartTrap h (Exc.access acc) (BitVec.ofNat 64 part) 0#64
  | .poison r pa => s.hartPoison h (Exc.access acc) r pa tv

/-- The bytes of an access of `n` bytes that lie in the page of its first byte. -/
def inPage (va n : Nat) : Nat := min n (4096 - va % 4096)

/-- A load within a page, a part of the access at `tv`: `cont` takes the bytes read; a fault traps (R412, R459). -/
def loadPart (s : State) (h tv va n : Nat) (cont : State → Nat → State) : State :=
  match s.hartTranslate h va 1 with
  | .at_ pa =>
    match s.hartRead pa n with
    | (.ok x, s) => cont s x
    | (.error y, s) => s.hartTrap h Exc.loadAccess (BitVec.ofNat 64 (if y = 9 then tv else va)) (BitVec.ofNat 64 y)
  | f => s.hartFail h 1 tv va f

/-- A load of a hart; one that crosses into the next page is made in two parts, the lower first. -/
def hartLoad (s : State) (h va n : Nat) (cont : State → Nat → State) : State :=
  let m := inPage va n
  s.loadPart h va va m fun s x =>
    if m = n then cont s x
    else s.loadPart h va ((va + m) % 2 ^ 64) (n - m) fun s y => cont s (x + y * 2 ^ (8 * m))

/-- Whether a store within a page may be made: at a physical address; not now, since the page is locked (R428); or the state after its
trap. -/
inductive StoreAt where
  | go (pa : Nat)
  | wait
  | trap (s : State)

def storeWhere (s : State) (h tv va n : Nat) : StoreAt :=
  match s.hartTranslate h va 2 with
  | .at_ pa =>
    match s.hartPlace pa n with
    | none => .trap (s.hartTrap h Exc.storeAccess (BitVec.ofNat 64 va) 0#64)
    | some r => if s.pageLocked r.key then .wait else .go pa
  | f => .trap (s.hartFail h 2 tv va f)

/-- A store of a hart; a store to a frame whose page is locked waits (R428), and nothing is stored where a part of the access traps or
waits. -/
def hartStore (s : State) (h va n x : Nat) (cont : State → State) : State :=
  let m := inPage va n
  match s.storeWhere h va va m with
  | .trap t => t
  | .wait => s
  | .go pa =>
    if m = n then cont ((s.hartWrite pa n x).getD s)
    else
      match s.storeWhere h va ((va + m) % 2 ^ 64) (n - m) with
      | .trap t => t
      | .wait => s
      | .go pb =>
        let s1 := (s.hartWrite pa m (x % 2 ^ (8 * m))).getD s
        cont ((s1.hartWrite pb (n - m) (x / 2 ^ (8 * m))).getD s1)

/-- A parcel of 16 bits of the instruction at `tv`, or the trap that fetching it takes (R412, R459). -/
def fetchParcel (s : State) (h tv va : Nat) : Except State Nat :=
  match s.hartTranslate h va 0 with
  | .at_ pa =>
    match s.hartPlace pa 2 with
    | none => .error (s.hartTrap h Exc.instAccess (BitVec.ofNat 64 va) 0#64)
    | some r =>
      match r.kind with
      | .regs _ => .error (s.hartTrap h Exc.instAccess (BitVec.ofNat 64 va) 0#64)
      | _ => if s.poisoned r.key 2 then .error (s.hartPoison h Exc.instAccess r pa tv) else .ok (s.num r.key 2)
  | f => .error (s.hartFail h 0 tv va f)

/-- The instruction at a hart's pc, 16 bits zero-extended where it is a compressed one (R411), or the trap that fetching it takes. -/
def hartFetch (s : State) (h : Nat) : Except State (BitVec 32) :=
  let va := (s.hart h).pc.toNat
  match s.fetchParcel h va va with
  | .error t => .error t
  | .ok lo =>
    if lo % 4 ≠ 3 then .ok (BitVec.ofNat 32 lo)
    else
      match s.fetchParcel h va ((va + 2) % 2 ^ 64) with
      | .error t => .error t
      | .ok hi => .ok (BitVec.ofNat 32 (lo + hi * 2 ^ 16))

/-! ## Interrupts (R461) -/

def mtip (s : State) (h : Nat) : Bool := decide (s.regN (0xE000 + 8 * h) ≤ s.pcc % 2 ^ 64)
def msip (s : State) (h : Nat) : Bool := (s.reg (0xE200 + 8 * h)).getLsbD 0
def meip (s : State) (h : Nat) : Bool :=
  let en := s.reg (0xE400 + 8 * h)
  (en.getLsbD 0 && s.reg 0x6010 != s.reg 0x6018) || (en.getLsbD 1 && s.reg 0xA010 != s.reg 0xA018) ||
    (en.getLsbD 2 && (List.range 9).any fun i => (s.interp i).st = 2)

/-- mip: the three levels that hardware drives, and the supervisor bits that machine-level software has set. -/
def mip (s : State) (h : Nat) : Word :=
  putBit (putBit (putBit ((s.hart h).csrOf 0x344) 7 (s.mtip h)) 3 (s.msip h)) 11 (s.meip h)

/-- Is interrupt `i` pending, enabled, and taken by the hart now? -/
def takes (s : State) (h i : Nat) : Bool :=
  let k := s.hart h
  let deleg := (k.csrOf 0x303).getLsbD i
  (s.mip h).getLsbD i && (k.csrOf 0x304).getLsbD i && !k.held &&
    (if deleg then k.mode = 0 || (k.mode = 1 && k.mstatus.getLsbD 1) else k.mode != 3 || k.mstatus.getLsbD 3)

def interrupt (s : State) (h i : Nat) : State := if s.takes h i then s.modHart h fun k => k.trap true i 0#64 k.ydet else s

/-- Does the interrupt go to M? -/
def toM (s : State) (h i : Nat) : Bool := !((s.hart h).csrOf 0x303).getLsbD i

/-- The interrupt that the hart takes next: those that go to M first, in each level the machine-level external, software and timer
interrupt, then the supervisor-level ones. -/
def nextInterrupt (s : State) (h : Nat) : Option Nat :=
  let l := [11, 3, 7, 9, 1, 5].filter fun i => s.takes h i
  (l.find? fun i => s.toM h i) <|> l.head?

/-- The interrupt of a class: the machine-level one, or the supervisor-level one that machine-level software has raised, where that comes
first. -/
def interruptOf (s : State) (h m sv : Nat) : State :=
  s.interrupt h (if s.takes h sv ∧ (s.takes h m = false ∨ (s.toM h sv ∧ s.toM h m = false)) then sv else m)

/-! ## CSRs of a hart -/

/-- The bits of mstatus that sstatus shows and writes: SIE, SPIE, SPP, FS, SUM, MXR. -/
def sstatusMask : Word := 0x00000000000C6122#64

/-- mstatus as it reads: SXL and UXL say 64 bits, SD sums up FS. -/
def readStatus (w : Word) : Word := putBit (w ||| 0xA00000000#64) 63 (fld w 13 2 = 3)

/-- misa: RV64IMAFDC with S and U. -/
def misa : Word := 0x800000000014112D#64

/-- The CSRs that hold a value of their own: what is written to them, or 0. -/
def hartCsrPlain : List Nat :=
  [0x105, 0x106, 0x10A, 0x140, 0x141, 0x142, 0x143, 0x180, 0x302, 0x303, 0x304, 0x305, 0x306, 0x30A, 0x340, 0x341, 0x342, 0x343]

/-- The CSRs that read 0 and ignore writes: identification, counters of events, and the entries of memory protection, of which there are
none. -/
def hartCsrZero (n : Nat) : Bool :=
  [0xF11, 0xF12, 0xF13, 0xF15, 0x320].contains n || (0xB03 ≤ n && n < 0xB20) || (0xC03 ≤ n && n < 0xC20) || (0x323 ≤ n && n < 0x340) ||
    (0x3A0 ≤ n && n < 0x3F0)

def hartCsrKnown (n : Nat) : Bool :=
  hartCsrPlain.contains n || hartCsrZero n ||
    [0x001, 0x002, 0x003, 0x100, 0x104, 0x144, 0x300, 0x301, 0x344, 0xB00, 0xB02, 0xC00, 0xC01, 0xC02, 0xDC0, 0xF14].contains n

/-- May the hart reach the CSR: its mode, the floating-point unit switched on, the counters enabled for the mode, satp not trapped? -/
def hartCsrMay (k : Hart) (n : Nat) : Bool :=
  hartCsrKnown n && decide (n / 256 % 4 ≤ k.mode) && (decide (3 < n) || fld k.mstatus 13 2 != 0) &&
    (n / 32 != 0x60 || k.mode == 3 ||
      ((k.csrOf 0x306).getLsbD (n % 32) && (k.mode == 1 || (k.csrOf 0x106).getLsbD (n % 32)))) &&
    !(n == 0x180 && k.mode == 1 && k.mstatus.getLsbD 20)

def hartCsrRead (s : State) (h n : Nat) : Word :=
  let k := s.hart h
  if n = 1 then BitVec.ofNat 64 (fld k.fcsr 0 5)
  else if n = 2 then BitVec.ofNat 64 (fld k.fcsr 5 3)
  else if n = 3 then k.fcsr.zeroExtend 64
  else if n = 0x100 then readStatus (k.mstatus &&& sstatusMask) &&& 0x80000003000DE762#64
  else if n = 0x104 then k.csrOf 0x304 &&& k.csrOf 0x303
  else if n = 0x144 then s.mip h &&& k.csrOf 0x303
  else if n = 0x300 then readStatus k.mstatus
  else if n = 0x301 then misa
  else if n = 0x344 then s.mip h
  else if n = 0xDC0 then k.ydet
  else if n = 0xF14 then BitVec.ofNat 64 h
  else if n = 0xC00 ∨ n = 0xC01 ∨ n = 0xB00 then BitVec.ofNat 64 s.pcc
  else if n = 0xC02 ∨ n = 0xB02 then k.instret
  else if hartCsrZero n then 0#64
  else k.csrOf n

/-- A status whose MPP field names no mode has it at U. -/
def legalMpp (w : Word) : Word := if fld w 11 2 = 2 then setFld w 11 2 0 else w

def hartCsrWrite (s : State) (h n : Nat) (w : Word) : State :=
  s.modHart h fun k =>
    if n = 1 then k.setFcsr (setFld k.fcsr 0 5 w.toNat)
    else if n = 2 then k.setFcsr (setFld k.fcsr 5 3 w.toNat)
    else if n = 3 then k.setFcsr (w.extractLsb' 0 8)
    else if n = 0x100 then k.setCsr 0x300 ((k.mstatus &&& ~~~sstatusMask) ||| (w &&& sstatusMask))
    else if n = 0x104 then k.setCsr 0x304 ((k.csrOf 0x304 &&& ~~~(k.csrOf 0x303)) ||| (w &&& k.csrOf 0x303))
    else if n = 0x144 then
      k.setCsr 0x344 (if (k.csrOf 0x303).getLsbD 1 then putBit (k.csrOf 0x344) 1 (w.getLsbD 1) else k.csrOf 0x344)
    else if n = 0x344 then k.setCsr 0x344 (w &&& 0x222#64)
    else if n = 0x300 then k.setCsr 0x300 (legalMpp (w &&& 0x7E79AA#64))
    else if n = 0xB02 then { k with instret := w - 1#64 }
    else if n = 0x141 ∨ n = 0x341 then k.setCsr n (w &&& ~~~1#64)
    else if n = 0x105 ∨ n = 0x305 then k.setCsr n (w &&& ~~~2#64)
    else if n = 0x180 then (if [0, 9, 10].contains (fld w 60 4) then k.setCsr n w else k)
    else if hartCsrPlain.contains n then k.setCsr n w
    else k

end State

/-! ## The rows -/

/-- PA_ACCESS (R412): a system-core access by physical address at hart `unit`. -/
def execPaAccess (wr : Bool) (size : Nat) (pa data : Word) (rd : BitVec 5) (s : State) : Host.Outcome State Fault Refusal :=
  let h := s.unit
  let a := pa.toNat
  if wr then
    match s.hartPlace a size with
    | none => .next (s.hartTrap h Exc.storeAccess pa 0#64)
    | some r =>
      if s.pageLocked r.key then .next s
      else
        match s.hartWrite a size data.toNat with
        | none => .next (s.hartTrap h Exc.storeAccess pa 0#64)
        | some s => .next s
  else
    match s.hartRead a size with
    | (.ok x, s) => .next (s.modHart h fun k => k.setX rd (BitVec.ofNat 64 x))
    | (.error y, s) => .next (s.hartTrap h Exc.loadAccess pa (BitVec.ofNat 64 y))

/-- TIMER_INTERRUPT (R461). -/
def execTimerInterrupt (s : State) : Host.Outcome State Fault Refusal := .next (s.interruptOf s.unit 7 5)

/-- SOFTWARE_INTERRUPT (R461). -/
def execSoftwareInterrupt (s : State) : Host.Outcome State Fault Refusal := .next (s.interruptOf s.unit 3 1)

/-- EXTERNAL_INTERRUPT (R461). -/
def execExternalInterrupt (s : State) : Host.Outcome State Fault Refusal := .next (s.interruptOf s.unit 11 9)

end Sys2Proof.Machine
end

