-- ==== Sys2Proof/Machine/Mldsa.lean ====
section
/-!
DEFINITION. ML-DSA-65 of FIPS 204, which the spec names (R443, R445 to R447, R449): key generation, signing and verification with an empty
context string.  The algorithms are PRESUMED from that standard (log entry 18).  A polynomial is an array of 256 coefficients modulo q.
-/

namespace Sys2Proof.Mldsa

abbrev Poly := Array Nat

def q : Nat := 8380417
/-- Rows and columns of the matrix. -/
def dimK : Nat := 6
def dimL : Nat := 5
def gamma1 : Nat := 2 ^ 19
def gamma2 : Nat := (q - 1) / 32
def beta : Nat := 196
def omega : Nat := 55
def tau : Nat := 49

/-- The polynomial with coefficients given by place. -/
def poly (f : Nat → Nat) : Poly := ((List.range 256).map f).toArray

def Poly.at_ (w : Poly) (i : Nat) : Nat := w.getD i 0

def zip (f : Nat → Nat → Nat) (a b : Poly) : Poly := poly fun i => f (a.at_ i) (b.at_ i)
def add (a b : Poly) : Poly := zip (fun x y => (x + y) % q) a b
def sub (a b : Poly) : Poly := zip (fun x y => (x + q - y) % q) a b
def mul (a b : Poly) : Poly := zip (fun x y => x * y % q) a b
def zero : Poly := poly fun _ => 0

/-- The representative of a residue nearest zero. -/
def near (x m : Nat) : Int := let r := x % m; if m / 2 < r then (r : Int) - m else r

/-- The greatest distance of a coefficient from zero. -/
def norm (a : Poly) : Nat := (a.toList.map fun x => (near x q).natAbs).foldl max 0

/-! ## The transform -/

def powMod (b : Nat) : Nat → Nat
  | 0 => 1
  | n + 1 => powMod b n * b % q

/-- The bits of a byte in reverse. -/
def rev8 (n : Nat) : Nat := (List.range 8).foldl (fun a i => a + bitsOf n i 1 * 2 ^ (7 - i)) 0

/-- Powers of the root 1753 in the order of the transform. -/
def zetas : Poly :=
  let p := ((List.range 256).foldl (fun (a : List Nat × Nat) _ => (a.2 :: a.1, a.2 * 1753 % q)) ([], 1)).1.reverse.toArray
  poly fun i => p.getD (rev8 i) 0

/-- One layer of the transform: pairs at distance `len`. -/
def nttLayer (w : Poly) (len : Nat) : Poly :=
  poly fun j =>
    let blk := j / (2 * len)
    let z := zetas.at_ (128 / len + blk)
    let lo := j % (2 * len)
    if lo < len then (w.at_ j + z * w.at_ (j + len)) % q else (w.at_ (j - len) + q - z * w.at_ j % q) % q

def ntt (w : Poly) : Poly := [128, 64, 32, 16, 8, 4, 2, 1].foldl nttLayer w

/-- One layer of the inverse transform. -/
def invLayer (w : Poly) (len : Nat) : Poly :=
  poly fun j =>
    let blk := j / (2 * len)
    let z := zetas.at_ (256 / len - 1 - blk)
    let lo := j % (2 * len)
    if lo < len then (w.at_ j + w.at_ (j + len)) % q else (q - z) * ((w.at_ (j - len) + q - w.at_ j) % q) % q

def invNtt (w : Poly) : Poly := ([1, 2, 4, 8, 16, 32, 64, 128].foldl invLayer w).map fun x => x * 8347681 % q

/-! ## Bits -/

/-- Values of `n` bits each, packed little-endian. -/
def pack (n : Nat) (l : List Nat) : List Byte :=
  ((chunks 8 (l.length + 1) l).map fun g => leBytes n (g.reverse.foldl (fun a x => a * 2 ^ n + x) 0)).flatten

/-- The 256 values of `n` bits each that bytes hold. -/
def unpack (n : Nat) (bs : List Byte) : List Nat :=
  ((chunks n 33 (bs.take (32 * n))).map fun g => let x := leNat g; tab 8 fun i => bitsOf x (n * i) n).flatten

/-- Pieces of `n` bytes. -/
def pieces (count n : Nat) (bs : List Byte) : List (List Byte) := tab count fun i => (bs.drop (n * i)).take n

/-! ## Sampling -/

/-- Keeps the first 256 values. -/
def first256 (l : List Nat) : Poly := let a := l.toArray; poly fun i => a.getD i 0

/-- A uniform polynomial, from SHAKE128; the output taken suffices but for a chance below 2^-256. -/
def uniform (seed : List Byte) : Poly :=
  first256 (((chunks 3 449 (Keccak.xof128 seed 1344)).map fun g => leNat g % 2 ^ 23).filter (· < q))

/-- A polynomial with coefficients from -4 to 4, from SHAKE256. -/
def bounded (seed : List Byte) : Poly :=
  first256 ((((Keccak.xof256 seed 544).flatMap fun b => [b.toNat % 16, b.toNat / 16]).filter (· < 9)).map fun x => (q + 4 - x) % q)

def matrix (rho : List Byte) : List (List Poly) :=
  tab dimK fun r => tab dimL fun s => uniform (rho ++ leBytes 1 s ++ leBytes 1 r)

/-- The swaps of the ball sampler: the polynomial so far, the bytes left. -/
def ballSteps (signs : Nat) : Nat → Nat → List Byte → Poly → Poly
  | 0, _, _, c => c
  | n + 1, i, bs, c =>
    match bs.dropWhile fun b => i < b.toNat with
    | [] => c
    | b :: rest =>
      let j := b.toNat
      let v := if bitOf signs (i + tau - 256) then q - 1 else 1
      ballSteps signs n (i + 1) rest ((c.setIfInBounds i (c.at_ j)).setIfInBounds j v)

/-- A polynomial with 49 coefficients 1 or -1 and the others 0. -/
def ball (seed : List Byte) : Poly :=
  let bs := Keccak.xof256 seed 408
  ballSteps (leNat (bs.take 8)) tau (256 - tau) (bs.drop 8) zero

/-! ## Rounding -/

/-- High and low part of a coefficient by 2^13. -/
def power2Round (x : Nat) : Nat × Int :=
  let r0 := near x 8192
  (((x : Int) - r0).toNat / 8192, r0)

/-- High and low part of a coefficient by 2 γ2. -/
def decompose (x : Nat) : Nat × Int :=
  let r := x % q
  let r0 := near r (2 * gamma2)
  if (r : Int) - r0 = q - 1 then (0, r0 - 1) else (((r : Int) - r0).toNat / (2 * gamma2), r0)

def highBits (w : Poly) : List Nat := w.toList.map fun x => (decompose x).1

/-- The high part that a hint bit corrects. -/
def useHint (h : Bool) (x : Nat) : Nat :=
  let (r1, r0) := decompose x
  if h then (if 0 < r0 then (r1 + 1) % 16 else (r1 + 15) % 16) else r1

/-- The sum of products of rows and a vector, in the transform. -/
def apply (a : List (List Poly)) (v : List Poly) : List Poly := a.map fun row => (row.zip v).foldl (fun t e => add t (mul e.1 e.2)) zero

/-- A coefficient from an integer. -/
def res (x : Int) : Nat := (x % (q : Int)).toNat

/-! ## Keys (algorithms 6, 22 to 25) -/

/-- Public and private key from 32 bytes. -/
def keyGen (xi : List Byte) : List Byte × List Byte :=
  let h := Keccak.xof256 (xi ++ leBytes 1 dimK ++ leBytes 1 dimL) 128
  let rho := h.take 32
  let seed := (h.drop 32).take 64
  let s1 := tab dimL fun i => bounded (seed ++ leBytes 2 i)
  let s2 := tab dimK fun i => bounded (seed ++ leBytes 2 (dimL + i))
  let t := List.zipWith (fun a b => add (invNtt a) b) (apply (matrix rho) (s1.map ntt)) s2
  let pk := rho ++ (t.map fun p => pack 10 (p.toList.map fun x => (power2Round x).1)).flatten
  let small := ((s1 ++ s2).map fun p => pack 4 (p.toList.map fun x => (4 - near x q).toNat)).flatten
  let low := (t.map fun p => pack 13 (p.toList.map fun x => (4096 - (power2Round x).2).toNat)).flatten
  (pk, rho ++ h.drop 96 ++ Keccak.xof256 pk 64 ++ small ++ low)

/-- The message that is signed: an empty context string before it. -/
def framed (msg : List Byte) : List Byte := 0#8 :: 0#8 :: msg

/-- The bytes of the high parts of a vector. -/
def w1Bytes (w1 : List (List Nat)) : List Byte := (w1.map (pack 4)).flatten

/-! ## Verification (algorithms 3, 8, 21, 27) -/

/-- The hint bits of one polynomial: places that rise, in the bytes from `lo` up to `hi`. -/
def hintPlaces (y : List Byte) (lo hi : Nat) : Option (List Nat) :=
  let l := ((y.drop lo).take (hi - lo)).map (·.toNat)
  if hi < lo ∨ omega < hi ∨ (l.zip (l.drop 1)).any (fun e => decide (e.2 ≤ e.1)) then none else some l

/-- The hints of a signature; none when their encoding is malformed. -/
def hints (y : List Byte) : Option (List (List Nat)) :=
  let ends := (y.drop omega).map (·.toNat)
  let hs := (tab dimK fun i => hintPlaces y (if i = 0 then 0 else nth 0 ends (i - 1)) (nth 0 ends i))
  if hs.any Option.isNone ∨ ((y.take omega).drop (nth 0 ends (dimK - 1))).any (· != 0#8) then none
  else some (hs.map fun h => h.getD [])

/-- Does a signature verify under a public key? -/
def verify (pk msg sig : List Byte) : Bool :=
  if pk.length ≠ 1952 ∨ sig.length ≠ 3309 then false
  else
    let t1 := (pieces dimK 320 (pk.drop 32)).map fun b => ntt (first256 ((unpack 10 b).map (· * 8192 % q)))
    let ct := sig.take 48
    let z := (pieces dimL 640 (sig.drop 48)).map fun b => first256 ((unpack 20 b).map fun x => (gamma1 + q - x) % q)
    match hints (sig.drop (48 + 640 * dimL)) with
    | none => false
    | some h =>
      let mu := Keccak.xof256 (Keccak.xof256 pk 64 ++ framed msg) 64
      let c := ntt (ball ct)
      let w := List.zipWith (fun a t => invNtt (sub a (mul c t))) (apply (matrix (pk.take 32)) (z.map ntt)) t1
      let w1 := List.zipWith (fun (p : Poly) (hs : List Nat) => tab 256 fun i => useHint (hs.contains i) (p.at_ i)) w h
      (z.all fun p => decide (norm p < gamma1 - beta)) && ct == Keccak.xof256 (mu ++ w1Bytes w1) 48

/-! ## Signing (algorithms 2, 7, 20, 26, 34) -/

/-- What stays the same over the attempts of one signature. -/
structure SignKey where
  a : List (List Poly)
  s1 : List Poly
  s2 : List Poly
  t0 : List Poly
  mu : List Byte
  seed : List Byte

/-- The private key and the message, ready for the attempts; `rnd` is the 32 bytes of chance of the hedged variant. -/
def signKey (sk msg rnd : List Byte) : SignKey :=
  let small := (pieces (dimL + dimK) 128 (sk.drop 128)).map fun b => ntt (first256 ((unpack 4 b).map fun x => (q + 4 - x) % q))
  let t0 := (pieces dimK 416 (sk.drop (128 + 128 * (dimL + dimK)))).map fun b => ntt (first256 ((unpack 13 b).map fun x => (q + 4096 - x) % q))
  let mu := Keccak.xof256 ((sk.drop 64).take 64 ++ framed msg) 64
  { a := matrix (sk.take 32), s1 := small.take dimL, s2 := small.drop dimL, t0 := t0, mu := mu
    seed := Keccak.xof256 ((sk.drop 32).take 32 ++ rnd ++ mu) 64 }

/-- The low part is within its bound. -/
def lowOk (p : Poly) : Bool := p.all fun x => decide ((decompose x).2.natAbs < gamma2 - beta)

/-- The hint bytes of a vector of hint places. -/
def hintBytes (h : List (List Nat)) : List Byte :=
  let ends := (List.range dimK).map fun i => ((h.take (i + 1)).map List.length).sum
  fit 0#8 omega (h.flatten.map fun x => BitVec.ofNat 8 x) ++ ends.map fun x => BitVec.ofNat 8 x

/-- One attempt at a signature with counter `kappa`; none when it is rejected. -/
def attempt (k : SignKey) (kappa : Nat) : Option (List Byte) :=
  let y := tab dimL fun i => first256 ((unpack 20 (Keccak.xof256 (k.seed ++ leBytes 2 (kappa + i)) 640)).map fun x => (gamma1 + q - x) % q)
  let w := (apply k.a (y.map ntt)).map invNtt
  let ct := Keccak.xof256 (k.mu ++ w1Bytes (w.map highBits)) 48
  let c := ntt (ball ct)
  let times := fun (p : Poly) => invNtt (mul c p)
  let z := List.zipWith (fun a b => add a (times b)) y k.s1
  let low := List.zipWith (fun a b => sub a (times b)) w k.s2
  let ct0 := k.t0.map times
  let h := List.zipWith (fun (a b : Poly) => (List.range 256).filter fun i => (decompose (a.at_ i)).1 != (decompose (a.at_ i + b.at_ i)).1) low ct0
  if (z.any fun p => decide (gamma1 - beta ≤ norm p)) || !(low.all lowOk) || (ct0.any fun p => decide (gamma2 ≤ norm p)) ||
      decide (omega < (h.map List.length).sum) then none
  else some (ct ++ (z.map fun p => pack 20 (p.toList.map fun x => ((gamma1 : Int) - near x q).toNat)).flatten ++ hintBytes h)

/-- Attempts until one is accepted; FIPS 204 lets an implementation stop after 814. -/
def attempts (k : SignKey) : Nat → Nat → List Byte
  | 0, _ => []
  | n + 1, kappa =>
    match attempt k kappa with
    | some s => s
    | none => attempts k n (kappa + dimL)

/-- The signature of a message. -/
def sign (sk msg rnd : List Byte) : List Byte := attempts (signKey sk msg rnd) 814 0

end Sys2Proof.Mldsa
end

