-- ==== Sys2Proof/Machine/Boot.lean ====
section
/-!
DEFINITION. Bring-up and trust (16 R440 to R450): the boot ROM on hart 0, its messages, images, identity and measurements; the attestation
responder; the CXL host.
-/

namespace Sys2Proof.Machine

/-! ## Messages (R442) -/

namespace Bmsg

/-- A message with its header. -/
def build (typ seq : Nat) (body : List Byte) : List Byte :=
  leBytes 4 0x56594E42 ++ [BitVec.ofNat 8 typ, 1#8, 0#8, 0#8] ++ leBytes 4 seq ++ leBytes 4 body.length ++ body

def typ (m : List Byte) : Nat := (nth 0#8 m 4).toNat
def seq (m : List Byte) : Nat := leNat ((m.drop 8).take 4)
def body (m : List Byte) : List Byte := m.drop 16

/-- Does the ROM take a message of a type, as far as its header and the length of its body go? -/
def takes (t : Nat) (lenOk : Nat → Bool) (m : List Byte) : Bool :=
  leNat (m.take 4) == 0x56594E42 && typ m == t && nth 0#8 m 5 == 1#8 && decide (16 ≤ m.length) &&
    leNat ((m.drop 12).take 4) == (body m).length && lenOk (body m).length

end Bmsg

/-- The EtherType of discovery frames, first byte first (R442). -/
def etherType : List Byte := [0x88#8, 0xB5#8]

/-- A locally administered MAC address from 46 random bits (R442). -/
def macOf (r : Nat) : List Byte := BitVec.ofNat 8 (r % 64 * 4 + 2) :: leBytes 5 (bitsOf r 6 40)

/-- The SHAKE256 digest of 64 bytes that slots are extended with (R448). -/
def digest64 (m : List Byte) : List Byte := Keccak.shake256 m 64

/-- The text before the seed in R445. -/
def idText : List Byte := "VYN-8160 ID".toList.map fun c => BitVec.ofNat 8 c.toNat

namespace State

def bstat (s : State) : Word := s.reg 0xC000

/-- The step reached (R440). -/
def atStep (s : State) (n : Nat) : State :=
  { s.setReg 0xC000 (setFld s.bstat 8 4 n) with boot := { s.boot with step := n } }

/-- Sends a request of the ROM and waits for its answer (R442). -/
def bootAsk (s : State) (typ : Nat) (body : List Byte) : State :=
  let m := Bmsg.build typ s.boot.seq body
  { s with eth := s.eth ++ [(s.boot.port, m)], boot := { s.boot with req := typ, msg := m, tries := 1, since := s.pcc } }

/-- The next request, with the next SEQ. -/
def bootNext (s : State) (typ : Nat) (body : List Byte) : State :=
  State.bootAsk { s with boot := { s.boot with seq := s.boot.seq + 1 } } typ body

/-- The discovery frames: on port 0, then on port 1 (R442). -/
def discoverFrames (s : State) (m : List Byte) : List (Nat × List Byte) :=
  let f := List.replicate 6 0xFF#8 ++ s.boot.mac ++ etherType ++ m
  [(0, f), (1, f)]

/-- Step 1 begins: DISCOVER (R440, R442). -/
def discover (s : State) : State :=
  let (r, s1) := if s.boot.mac.isEmpty then s.draw else (0#64, s)
  let mac := if s.boot.mac.isEmpty then macOf r.toNat else s.boot.mac
  let m := Bmsg.build 1 1 (leBytes 8 Config.pufTag.toNat)
  let s2 := State.atStep { s1 with boot := { s1.boot with mac := mac } } 1
  { s2 with
    eth := s2.eth ++ s2.discoverFrames m
    boot := { s2.boot with seq := 1, req := 1, msg := m, tries := 1, since := s.pcc } }

/-- A step fails (R440): BSTAT, the FAIL message once an address is known, the wait of 2^30 clk. -/
def bootFail (s : State) (code : Nat) : State :=
  let b := s.boot
  let s1 := s.setReg 0xC000 (BitVec.ofNat 64 (b.step % 16 * 256 + code))
  let body := leBytes 4 s1.bstat.toNat ++ (if b.ident.isEmpty then List.replicate 32 0#8 else b.ident)
  let eth := if b.server.isEmpty then s1.eth else s1.eth ++ [(b.port, Bmsg.build 0x40 b.seq body)]
  { s1 with eth := eth, boot := { step := 1, retryAt := some (s.pcc + 2 ^ 30), mac := b.mac } }

/-- The first failure code of the step reached (R440, R442). -/
def stepCode (s : State) : Nat := if s.boot.step = 1 then 1 else if s.boot.step = 2 then 3 else 4

/-- Does a message answer the request that is outstanding? -/
def answers (s : State) (req typ : Nat) (lenOk : Nat → Bool) (m : List Byte) : Bool :=
  s.boot.running && s.boot.retryAt.isNone && s.boot.req == req && Bmsg.takes typ lenOk m && Bmsg.seq m == s.boot.seq

/-- 32 fresh random bytes. -/
def nonce (s : State) : List Byte × State :=
  (List.range 4).foldl (fun (a : List Byte × State) _ => let r := a.2.draw; (a.1 ++ leBytes 8 r.1.toNat, r.2)) ([], s)

/-- Asks for the next piece of the image. -/
def askImage (s : State) : State :=
  let b := s.boot
  let n := match b.total with
    | none => 65536
    | some t => min 65536 (t - b.image.length)
  s.bootNext 0x30 (b.ident ++ leBytes 8 b.image.length ++ leBytes 4 n)

end State

/-! ## Images (R443, R444) -/

/-- A boot image in its parts. -/
structure Image where
  head : List Word
  key : List Byte
  body : List Byte
  signed : List Byte
  sig : List Byte

namespace Image

def of (bs : List Byte) : Image :=
  let n := bs.length
  { head := words64 8 (bs.take 64), key := (bs.drop 64).take 1952, body := (bs.drop 2016).take (n - 3309 - 2016)
    signed := bs.take (n - 3309), sig := bs.drop (n - 3309) }

def w (i : Image) (n : Nat) : Word := nth 0#64 i.head n
def iver (i : Image) : Nat := fld (i.w 0) 32 32
def load (i : Image) : Nat := (i.w 1).toNat
def entry (i : Image) : Word := i.w 2
def blen (i : Image) : Nat := fld (i.w 3) 32 32
def pkg (i : Image) : Nat := fld (i.w 3) 16 11
def gbook (i : Image) : Nat := fld (i.w 4) 48 16
def gtok (i : Image) : Nat := fld (i.w 4) 32 16
def thot (i : Image) : Nat := fld (i.w 4) 16 16
def twarm (i : Image) : Nat := fld (i.w 4) 0 16
def ttrip (i : Image) : Nat := fld (i.w 5) 16 16

/-- Do the header's own fields, or the lengths, break R443 or R444 (code 0x05)? -/
def headBad (i : Image) (n : Nat) : Bool :=
  decide (n < 64 + 1952 + 3309) || fld (i.w 0) 0 32 != 0x56424F4C || i.load % 65536 != 0 || fld (i.w 3) 27 5 != 0 ||
    fld (i.w 3) 0 16 != 0 || fld (i.w 5) 32 32 != 0 || fld (i.w 5) 0 16 != 0 || i.w 6 != 0#64 || i.w 7 != 0#64 ||
    decide (i.thot ≤ i.twarm) || decide (i.ttrip ≤ i.thot) || i.gtok == 0 || decide (256 < i.gtok) || decide (i.gtok < i.gbook) ||
    n != 64 + 1952 + i.blen + 3309

/-- Does the body overlap the Yard, or not fit in HBM4E (R444; code 0x09)? -/
def placeBad (i : Image) (s : State) : Bool :=
  decide (0x0C000000000 < i.load + i.blen) || (decide (0 < i.blen) && s.touchesYard i.load i.blen)

end Image

namespace State

/-- Bytes of a floor token: its fields take 96, though R442 and R447 also call it 64 bytes long (log entry 30). -/
def tokenLen : Nat := 96

/-- The floor token: nonce, identity, FLOOR, zeros, and its signature (R447). -/
def tokenGood (s : State) (i : Image) : Bool :=
  let b := s.boot
  let t := b.token.take tokenLen
  t.take 32 == b.nonce && (t.drop 32).take 32 == b.ident && Mldsa.verify i.key t (b.token.drop tokenLen)

/-- FLOOR of the token. -/
def tokenFloor (s : State) : Nat := leNat ((s.boot.token.drop 64).take 4)

/-- Step 5 and step 6 (R440): measurements, configuration, the body, every hart at ENTRY in M mode. -/
def applyImage (s : State) (i : Image) : State :=
  let s1 := (s.extendSlot 0 (digest64 i.key)).extendSlot 1 (digest64 ((s.boot.image.take 64) ++ i.body))
  let s2 : State := { s1.setReg 0 (BitVec.ofNat 64 i.pkg) with
    domain := i.pkg :: s1.domain.filter fun p => p != s1.pkg && p != i.pkg
    twarm := i.twarm, thot := i.thot, ttrip := i.ttrip }
  let s3 := (List.range 8).foldl (fun s d => s.setGov d { s.gov d with gtok := i.gtok, gbook := i.gbook }) s2
  let s4 := (s3.write i.load i.body).atStep 6
  let s5 := (List.range 64).foldl (fun s h => s.modHart h fun k => { k with held := false, mode := 3, pc := i.entry }) s4
  { s5 with boot := { s5.boot with running := false, req := 0, msg := [], image := [] } }

/-- Steps 4 to 6 once the image is whole (R440). -/
def bootImage (s : State) : State :=
  let bs := s.boot.image
  let i := Image.of bs
  if i.headBad bs.length then s.bootFail 5
  else
    let s := s.atStep 4
    if !Mldsa.verify i.key i.signed i.sig then s.bootFail 6
    else if !s.tokenGood i then s.bootFail 8
    else if i.iver < s.tokenFloor then s.bootFail 7
    else
      let s := s.atStep 5
      if i.placeBad s then s.bootFail 9 else s.applyImage i

end State

/-! ## The rows of the boot ROM -/

/-- OFFER (R442), on port 0 or, as the alternative, on port 1 of IO-A, which is the unit at which it happens: the session uses the port it came on (R441; log entry 43). -/
def execOffer (msg : List Byte) (s : State) : Host.Outcome State Fault Refusal :=
  if s.answers 0x01 0x02 (· == 32) msg then
    let b := Bmsg.body msg
    .next (State.bootNext { s with boot := { s.boot with port := s.unit % 2, server := b.take 16, device := b.drop 16 } } 0x10
      (leBytes 8 Config.pufTag.toNat))
  else .next s

/-- HELPER_RSP (R442, R445): the seed, the keys, the identity; then step 2 with a fresh nonce. -/
def execHelperRsp (msg : List Byte) (s : State) : Host.Outcome State Fault Refusal :=
  if s.answers 0x10 0x11 (fun n => decide (1 ≤ n) && decide (n ≤ 8192)) msg then
    match Config.pufSeed (Bmsg.body msg) with
    | none => .next (s.bootFail 2)
    | some seed =>
      let (pub, priv) := Mldsa.keyGen (Keccak.shake256 (idText ++ seed) 32)
      let (n, s1) := s.nonce
      let ident := Keccak.shake256 pub 32
      let s2 := State.atStep { s1 with boot := { s1.boot with seed := seed, pub := pub, priv := priv, ident := ident, nonce := n } } 2
      .next (s2.bootNext 0x20 (n ++ ident))
  else .next s

/-- FLOOR_RSP (R447): the token is kept for step 4; step 3 begins. -/
def execFloorRsp (msg : List Byte) (s : State) : Host.Outcome State Fault Refusal :=
  if s.answers 0x20 0x21 (· == State.tokenLen + 3309) msg then
    .next (State.askImage (State.atStep { s with boot := { s.boot with token := Bmsg.body msg } } 3))
  else .next s

/-- IMAGE_RSP (R442): a piece of the image in order; the last one leads to step 4. -/
def execImageRsp (msg : List Byte) (s : State) : Host.Outcome State Fault Refusal :=
  if s.answers 0x30 0x31 (fun n => decide (16 < n) && decide (n ≤ 65552)) msg then
    let b := Bmsg.body msg
    let off := leNat (b.take 8)
    let total := leNat ((b.drop 8).take 8)
    let have_ := s.boot.image.length
    let data := b.drop 16
    if off ≠ have_ ∨ total < have_ + data.length ∨ (s.boot.total.isSome ∧ s.boot.total ≠ some total) then .next (s.bootFail 4)
    else
      let s1 := { s with boot := { s.boot with image := s.boot.image ++ data, total := some total } }
      .next (if s1.boot.image.length = total then s1.bootImage else s1.askImage)
  else .next s

/-- ERROR_RSP (R442). -/
def execErrorRsp (msg : List Byte) (s : State) : Host.Outcome State Fault Refusal :=
  if s.boot.req ≠ 0 ∧ s.answers s.boot.req 0x7F (· == 4) msg then .next (s.bootFail s.stepCode) else .next s

/-- BOOT_REQUEST_TIMEOUT (R442): the request is sent again; after eight times its step fails. -/
def execBootRequestTimeout (s : State) : Host.Outcome State Fault Refusal :=
  let b := s.boot
  if !b.running ∨ b.retryAt.isSome ∨ b.req = 0 ∨ s.pcc < b.since + 2 ^ 27 then .next s
  else if 8 ≤ b.tries then .next (s.bootFail s.stepCode)
  else
    let frames := if b.req = 1 then s.discoverFrames b.msg else [(b.port, b.msg)]
    .next { s with eth := s.eth ++ frames, boot := { b with tries := b.tries + 1, since := s.pcc } }

/-- BOOT_RETRY_TIMER (R440): the ROM begins again at step 1; nothing but BSTAT is carried over. -/
def execBootRetryTimer (s : State) : Host.Outcome State Fault Refusal :=
  match s.boot.retryAt with
  | none => .next s
  | some t => if s.pcc < t then .next s else .next (State.discover { s with boot := { mac := s.boot.mac } })

/-! ## The attestation responder (R449) -/

/-- An answer of the responder, which runs once hart 0 has left the boot steps (R449). -/
def spdmAnswer (a : SpdmAnswer) (s : State) : Host.Outcome State Fault Refusal :=
  .next (if s.boot.running then s else { s with spdm := s.spdm ++ [a] })

/-- GET_VERSION (R449): SPDM 1.3. -/
def execGetVersion (_ : List Byte) (s : State) : Host.Outcome State Fault Refusal := spdmAnswer (.version 1 3) s

/-- GET_CAPABILITIES (R449): measurements with a signature, no certificates, no sessions, the public key provisioned out of band. -/
def execGetCapabilities (_ : List Byte) (s : State) : Host.Outcome State Fault Refusal := 
  spdmAnswer (.capabilities { cert := false, measSigned := true, sessions := false, keyOutOfBand := true }) s

/-- NEGOTIATE_ALGORITHMS (R449): ML-DSA-65 and SHAKE256, as extended entries of the vendor. -/
def execNegotiateAlgorithms (_ : List Byte) (s : State) : Host.Outcome State Fault Refusal := 
  spdmAnswer (.algorithms [(Config.linantVendor, 1)] [(Config.linantVendor, 2)]) s

/-- GET_MEASUREMENTS (R449): one block for each slot, and a signature over the request and the blocks (log entry 29). -/
def execGetMeasurements (req : List Byte) (s : State) : Host.Outcome State Fault Refusal :=
  let blocks := tab 8 s.slotBytes
  let (rnd, s1) := s.nonce
  spdmAnswer (.measurements blocks (Mldsa.sign s.boot.priv (req ++ blocks.flatten) rnd)) (if s.boot.running then s else s1)

/-- SPDM_UNSUPPORTED_REQUEST (R449): ERROR with UnsupportedRequest, whose code SPDM gives as 7 (log entry 29). -/
def execSpdmUnsupportedRequest (_ : List Byte) (s : State) : Host.Outcome State Fault Refusal := 
  spdmAnswer (.error 7) s

/-! ## The CXL host (R450) -/

/-- CXL_LINK_TRAINED (R450). -/
def execCxlLinkTrained (s : State) : Host.Outcome State Fault Refusal := .next { s with cxlUp := true }

/-- Fetches from the host that are under way fail as LINKDEAD (R450). -/
def State.failHost (s : State) : State :=
  { s with hostDone := s.hostDone ++ s.hostReqs.map (fun r => (r.2, FCode.linkdead)), hostReqs := [] }

/-- CXL_LINK_DOWN (R450): fetches from the host fail; no engine state changes. -/
def execCxlLinkDown (s : State) : Host.Outcome State Fault Refusal := .next (State.failHost { s with cxlUp := false })

/-- CXL_MAILBOX_ACCESS (R450): the doubleword that holds byte `off` of the 4 KiB mailbox. -/
def execCxlMailboxAccess (wr : Bool) (off : Nat) (data : Word) (s : State) : Host.Outcome State Fault Refusal :=
  let i := off % 4096 / 8
  if !s.cxlUp then .next s
  else if wr then .next { s with cxlBox := Tbl.put s.cxlBox i data }
  else .next { s with cxlOut := s.cxlOut ++ [leBytes 8 (Tbl.get 0#64 s.cxlBox i).toNat] }

/-- CXL_MEM_ACCESS (R450): `addr` is counted from the start of the HDM range; a read asks for as many bytes as `data` has. -/
def execCxlMemAccess (wr : Bool) (addr : Word) (data : List Byte) (s : State) : Host.Outcome State Fault Refusal :=
  let n := data.length
  let key := s.cxlBase + addr.toNat
  if !s.cxlUp then .next s
  else if s.cxlSize < addr.toNat + n then
    .next (if wr then s else { s with cxlOut := s.cxlOut ++ [List.replicate n 0xFF#8] })
  else if wr then
    .next (if s.pageLocked key || s.pageLocked (key + n - 1) then { s with cxlHeld := s.cxlHeld ++ [(key, data)] } else s.storeSpan key data)
  else .next { s with cxlOut := s.cxlOut ++ [s.bytes key n] }

namespace State

/-- The HDM range that the Foreman has set comes into force, where it lies in Spoil (R450; log entry 9). -/
def applyHdm (s : State) : State :=
  match s.hdmSet with
  | none => s
  | some (b, n) =>
    if n = 0 ∨ (0x10000000000 ≤ b ∧ b + n ≤ 0x40000000000) then { s with cxlBase := b, cxlSize := n, hdmSet := none } else { s with hdmSet := none }

/-- What the Foreman has written to the mailbox is seen (R450). -/
def applyBox (s : State) : State := { s with cxlBox := s.boxSet.foldl (fun t e => Tbl.put t e.1 e.2) s.cxlBox, boxSet := [] }

/-- A page of host memory has come over CXL.cache, at a clk that is not architectural (R433, R450). -/
def hostPage (s : State) (r : Nat × Nat) : State :=
  let b := s.flip
  if b.1 then
    { b.2.storeSpan r.2 ((List.range 65536).map fun i => Tbl.get 0#8 s.hostMem (r.1 + i)) with hostDone := s.hostDone ++ [(r.2, 0)] }
  else { b.2 with hostReqs := b.2.hostReqs ++ [r] }

/-- The Foreman's fetches from the host go on (R450): with the link down they fail as LINKDEAD. -/
def fetchHost (s : State) : State := if s.cxlUp then s.hostReqs.foldl hostPage { s with hostReqs := [] } else s.failHost

/-- Host writes whose frame is no longer locked are made (R428). -/
def releaseHeld (s : State) : State :=
  let locked := fun (e : Nat × List Byte) => s.pageLocked e.1 || s.pageLocked (e.1 + e.2.length - 1)
  let go := s.cxlHeld.filter fun e => !locked e
  go.foldl (fun s e => s.storeSpan e.1 e.2) { s with cxlHeld := s.cxlHeld.filter locked }

end State

end Sys2Proof.Machine
end

