-- ==== Sys2Proof/Machine/Power.lean ====
section
/-!
DEFINITION. Package reset (16 R440), the thermal levels (R453), supply and ageing margins (R455), upsets of stored bits (R457, R458).
-/

namespace Sys2Proof.Machine

namespace State

/-- The package as it comes out of reset (R440, R42, R414); the counter of free values goes on, and the CXL host's memory stands. -/
def afterReset (s : State) : State := { State.reset with fresh := s.fresh, hostMem := s.hostMem }

/-- The package goes into reset and stays there until the sensors report in range (R440, R453). -/
def intoReset (s : State) : State := { s.afterReset with inReset := true }

/-- THERM takes a level: recorded (R458); a trip resets the package (R453). -/
def setTherm (s : State) (n : Nat) : State :=
  if n = s.therm then s
  else if n = 3 then s.intoReset
  else State.postError { s with therm := n } 5 5 0 0

/-- The level of a reading (R453). -/
def thermLevel (s : State) (r : Nat) : Nat :=
  if s.ttrip ≤ r then 3 else if s.thot ≤ r then 2 else if s.twarm ≤ r then 1 else 0

/-- Since when readings have been below a threshold, after a further reading. -/
def belowSince (s : State) (old : Option Nat) (below : Bool) : Option Nat := if below then old.or (some s.pcc) else none

/-- Have readings been below a threshold for 2^20 clk (R453)? -/
def longBelow (s : State) (since : Option Nat) : Bool :=
  match since with
  | some t => decide (t + 2 ^ 20 ≤ s.pcc)
  | none => false

/-- The level to which THERM may fall now (R453). -/
def thermFloor (s : State) : Nat :=
  if s.therm = 2 then (if s.longBelow s.belowHot then (if s.longBelow s.belowWarm then 0 else 1) else 2)
  else if s.therm = 1 then (if s.longBelow s.belowWarm then 0 else 1)
  else s.therm

/-! ## Upsets of stored bits (R457, R458) -/

/-- An error of a word of a core's SRAM: corrected, or its word poisoned by `f`; each is recorded under the die and the bank of the array
(log entry 46).  The arrays of a core without a task hold nothing that a task will read. -/
def sramError (s : State) (c bank : Nat) (fixed : Bool) (f : Core → Core) : State :=
  let i := c / 256 * 1024 + bank
  if fixed then s.noteCorrected 0 i 0 else (if (s.core c).crid = 0 then s else s.modCore c f).postError 2 0 i 0

/-- The core, the register file and the bank whose word an upset strikes. -/
def upsetBank : UpsetAt → Option (Nat × Nat × Nat)
  | .vec c e => some (c, 0, e / 4096)
  | .mom c e => some (c, 1, e / 8192)
  | .tile c t _ => some (c, 2, t / 16)
  | .pa _ _ | .l2 _ _ | .slot _ _ _ => none

/-- Does an upset strike a bank in Bivouac, so that it is met when the bank wakes (R457)? -/
def upsetSleeps (s : State) (u : UpsetAt) : Bool :=
  match upsetBank u with
  | none => false
  | some (c, file, b) =>
    match bankSt (s.core c) file b with
    | .asleep | .waking _ true => true
    | _ => false

/-- An upset is met (R457): corrected and recorded or counted (R458), or the protection word is poisoned and the error recorded.  A store on its
way that is lost so counts as a failed sector of its draft (R159).  A bank that is not awake is checked when it wakes. -/
def applyUpset (s : State) (u : Upset) : State :=
  match u.at_ with
  | .pa pa way =>
    (match paRef s pa with
     | none => s
     | some r =>
       if r.pkg.isSome then s
       else
         let (un, i) := s.poisonUnit r
         let addr := match r.kind with
           | .bench _ => r.key % 2 ^ 25
           | _ => pa
         match r.kind with
         | .regs _ => s
         | _ =>
           if u.fixed then s.noteCorrected un i addr
           else
             let s1 := (s.markPoison r.key 1).postError 2 un i addr
             if way then { s1 with linkFail := Tbl.put s1.linkFail (r.key / 32 * 32) 2 } else s1)
  | .l2 d pa =>
    (match paRef s pa with
     | none => s
     | some r =>
       let i := d * 1024 + 1023
       if u.fixed then s.noteCorrected 0 i pa else State.postError { s with l2Poison := r.key / 8 * 8 :: s.l2Poison } 2 0 i pa)
  | .vec c e => if (s.core c).awakeV (e / 512) then s.sramError c (e / 4096) u.fixed fun k => { k with vPois := e :: k.vPois } else s
  | .mom c e => if (s.core c).awakeM (e / 1024) then s.sramError c (4 + e / 8192) u.fixed fun k => { k with mPois := e :: k.mPois } else s
  | .slot c n off =>
    s.sramError c (22 + n / 16) u.fixed fun k =>
      let x := Tbl.get {} k.slots n
      if x.valid then { k with slots := Tbl.put k.slots n { x with poison := off / 8 * 8 :: x.poison } } else k
  | .tile c t e =>
    if (s.core c).awakeA t then
      s.sramError c (6 + t / 16) u.fixed fun k =>
        let x := Tbl.get {} k.tiles t
        if x.valid then { k with tiles := Tbl.put k.tiles t { x with poison := Tbl.put x.poison e FCode.uncorr } } else k
    else s

/-- An upset is met, or kept until its bank wakes. -/
def meetUpset (s : State) (u : Upset) : State := if s.upsetSleeps u.at_ then { s with sleepUps := s.sleepUps ++ [u] } else s.applyUpset u

/-- The upsets of this clk. -/
def meetUpsets (s : State) : State := s.upsets.foldl meetUpset { s with upsets := [] }

/-- The upsets of a bank that has woken (R457). -/
def wakeUpsets (s : State) (c file b : Nat) : State :=
  (s.sleepUps.filter fun u => upsetBank u.at_ == some (c, file, b)).foldl applyUpset
    { s with sleepUps := s.sleepUps.filter fun u => upsetBank u.at_ != some (c, file, b) }

end State

/-- PACKAGE_RESET_RELEASE (R440). -/
def execPackageResetRelease (s : State) : Host.Outcome State Fault Refusal := .next s.afterReset

/-- THERM_CHANGE (R453): a reading of the cold-plate outlet, in units of 1/16 °C. -/
def execThermChange (reading : Nat) (s : State) : Host.Outcome State Fault Refusal :=
  let s1 : State := { s with
    belowHot := s.belowSince s.belowHot (decide (reading < s.thot))
    belowWarm := s.belowSince s.belowWarm (decide (reading < s.twarm)) }
  .next (if s.therm < s.thermLevel reading then s1.setTherm (s.thermLevel reading) else s1)

/-- THERM_DROP_TIMER (R453). -/
def execThermDropTimer (s : State) : Host.Outcome State Fault Refusal := .next (s.setTherm s.thermFloor)

/-- MARGIN_MEASURE (R455) of cluster `unit`: a fall below the guard, or a step down that ends below it, sets DEGR and posts the notice;
the lowering stops. -/
def execMarginMeasure (value : BitVec 16) (s : State) : Host.Outcome State Fault Refusal :=
  let c := s.unit
  let k := s.cluster c
  let below := decide (value.toNat < marginGuard)
  let lowering := decide (k.target < k.vcode)
  let k1 := { k with margin := value }
  if below && (decide (marginGuard ≤ k.margin.toNat) || lowering) then
    .next ((s.setCluster c (s.degrade c { k1 with target := if lowering then k.vcode else k.target })).noteMargin c)
  else .next (s.setCluster c k1)

/-- VCODE_STEP (R455) of cluster `unit`: the supply moves one step towards the code written. -/
def execVcodeStep (s : State) : Host.Outcome State Fault Refusal :=
  let c := s.unit
  let k := s.cluster c
  if k.vcode < k.target then .next (s.setCluster c { k with vcode := k.vcode + 1 })
  else if k.target < k.vcode then .next (s.setCluster c { k with vcode := k.vcode - 1 })
  else .next s

end Sys2Proof.Machine
end

