-- ==== Sys2Proof/Machine/Sequencing.lean ====
section
/-!
DEFINITION. The common engine words (R89 to R96), and words that are no instruction of their engine (R64).
-/

namespace Sys2Proof.Machine

/-- The fields a common word may use. -/
structure LpUse where
  lvl : Bool := false
  body : Bool := false
  cnt : Bool := false
  imm : Bool := false

/-- Does the word set a field that its form does not use (R47)? -/
def LpUse.breaks (u : LpUse) (f : LpWord) : Bool :=
  (!u.lvl && f.lvl != 0#2) || (!u.body && f.body != 0#14) || (!u.cnt && f.cnt != 0#32) || (!u.imm && f.imm != 0#32)

/-- NOP (R89): one clk, no effect. -/
def execNop (g : Guard) (f : LpWord) (s : State) : Host.Outcome State Fault Refusal :=
  issueWord g 1 (fun _ _ => if LpUse.breaks {} f then some 0x11 else none) (fun _ _ s => .go s) s

/-- The ILLOP checks of LOOP and LOOPR against the loop registers (R90, R93). -/
def loopIllop (n body : Nat) (rot : Bool) (g : EngSt) : Bool :=
  let k := g.place.2
  (g.loops.drop (n + 1)).any (·.active) || decide (g.len - 1 < k + body) ||
    (g.loops.take n).any (fun l => l.active && decide (l.le < k + body)) || (rot && g.rotLevel.isSome)

/-- LOOP and LOOPR at slot `k` (R90): the level's registers, or the skipped body. -/
def setLoop (n body cnt total : Nat) (rot : Bool) (c : Nat) (e : Eng) (s : State) : Iss :=
  let g := (s.core c).eng e
  let k := g.place.2
  if (nth {} g.loops n).active then .flt FCode.loopedit n noElem
  else
    let l : LoopLv := { active := cnt != 0, rot := rot, ls := k + 1, le := k + body, lc := total, cnt := cnt, started := 1 }
    let s1 := s.modEng c e fun g => { g with loops := fillAt {} g.loops n l }
    if cnt = 0 then .skip s1 (k + body)
    else if rot then
      .go (s1.modCore c fun q =>
        (List.range 8).foldl (fun q i => q.writeP (q.rotP (8 + i)) (BitVec.allOnes 1024)
          (if i = 0 then BitVec.allOnes 1024 else 0#1024)) q)
    else .go s1

/-- LOOP (R90). -/
def execLoop (g : Guard) (f : LpWord) (s : State) : Host.Outcome State Fault Refusal :=
  issueWord g 1
    (fun _ en =>
      if LpUse.breaks { lvl := true, body := true, cnt := true } f then some 0x11
      else if f.body = 0#14 ∨ loopIllop f.lvl.toNat f.body.toNat false en then some 0x12
      else none)
    (fun c e s => setLoop f.lvl.toNat f.body.toNat f.cnt.toNat f.cnt.toNat false c e s) s

/-- LOOPR (R93). -/
def execLoopr (g : Guard) (f : LpWord) (s : State) : Host.Outcome State Fault Refusal :=
  let st := f.imm.toNat
  issueWord g 1
    (fun _ en =>
      if f.body = 0#14 ∨ st = 0 ∨ 8 < st ∨ 2 ^ 32 ≤ f.cnt.toNat + st - 1 ∨ loopIllop f.lvl.toNat f.body.toNat true en then some 0x12
      else none)
    (fun c e s => setLoop f.lvl.toNat f.body.toNat f.cnt.toNat (f.cnt.toNat + st - 1) true c e s) s

/-- LBRK (R92): LC of the level. -/
def execLbrk (g : Guard) (f : LpWord) (s : State) : Host.Outcome State Fault Refusal :=
  issueWord g 1 (fun _ _ => if LpUse.breaks { lvl := true, cnt := true } f then some 0x11 else none)
    (fun c e s => .go (s.modEng c e fun en => { en with loops := modAt (fun l => { l with lc := f.cnt.toNat }) en.loops f.lvl.toNat })) s

/-- GWAIT (R94): holds until the slot is resolved. -/
def execGwait (g : Guard) (f : LpWord) (s : State) : Host.Outcome State Fault Refusal :=
  issueWord g 1
    (fun _ _ =>
      if LpUse.breaks { imm := true } f then some 0x11 else if 16 ≤ f.imm.toNat then some 0x12 else none)
    (fun c _ s => if s.guardSeen c (f.imm.truncate 4) = 0#2 then .stall .gwait s else .go s) s

/-- MARK (R95). -/
def execMark (g : Guard) (f : LpWord) (s : State) : Host.Outcome State Fault Refusal :=
  issueWord g 1 (fun _ _ => if LpUse.breaks { imm := true } f then some 0x11 else none)
    (fun c e s => .go (s.modEng c e fun en => { en with mkv := f.imm })) s

/-- Is a DR word in flight one that updates the Bench? -/
def DrStore.updates (w : DrStore) : Bool :=
  match w.work with
  | .update _ _ _ _ | .entries _ | .lost true _ _ _ => true
  | _ => false

/-- Are the updates that a core has issued, for whichever task, all applied (R235, R239)? -/
def updatesApplied (s : State) (c : Nat) : Bool :=
  s.bankq.all (fun r => r.core != c) && !(s.core c).stores.any DrStore.updates

/-- The stream ends (R96): nothing further is fetched, and the rest of the section counts as retired.  In service the ESTOP is the
watermark, at which the engine holds (R78). -/
def endStream (en : EngSt) (v : BitVec 32) : EngSt :=
  { en with mkv := v, ended := true, inSec := false, hold := .none, held := en.held || en.wmLeft.isSome, wmLeft := none
            tracks := en.tracks.map fun t => if t.num = en.secNum then { t with issued := true } else t }

/-- ESTOP (R96).  In DR it first passes the merge window to the banks and waits until every update is applied (R235); a failure
is raised as UNCORR and the flag cleared. -/
def execEstop (g : Guard) (f : LpWord) (s : State) : Host.Outcome State Fault Refusal :=
  issueWord g 1 (fun _ _ => if LpUse.breaks { imm := true } f then some 0x11 else none)
    (fun c e s =>
      if e = .dr then
        let s1 := if (s.core c).stores.any DrStore.updates then s else s.flushWindow c
        if !updatesApplied s1 c then .stall .estop s1
        else if (s1.core c).scFail then .fail (s1.modCore c fun k => { k with scFail := false }) FCode.uncorr 2 noElem
        else .ended (s1.modEng c e fun en => endStream en f.imm)
      else .ended (s.modEng c e fun en => endStream en f.imm)) s

/-- UNASSIGNED_ENGINE_OPCODE (R64): ILLOP with detail 0x0010, or 0x0013 for an NXC met outside a VNEST, whatever its guard. -/
def execUnassignedEngineOpcode (w : BitVec 96) (s : State) : Host.Outcome State Fault Refusal :=
  match s.agent with
  | .seq c (.eng e) =>
    .next (s.issueFault c e FCode.illop (if e = .ma ∧ w.extractLsb' 88 8 = 0xFE#8 then 0x13 else 0x10) noElem)
  | _ => .next s

end Sys2Proof.Machine
end

