-- ==== Sys2Proof/Machine/Vector.lean ====
section
/-!
DEFINITION. The vector engine (08): the words of R252 to R268 and R243 to R246.
-/

namespace Sys2Proof.Machine

/-- The units of R247 and of the moment unit. -/
def unitFloat : Nat := 0
def unitInt : Nat := 1
def unitFun : Nat := 2
def unitNet : Nat := 3
def unitPred : Nat := 4
def unitMom : Nat := 5

/-- Would a result of an earlier MA word reach one of the registers in the same clk (R249)? -/
def wportHit (k : Core) (due : Nat) (dsts : List MaDst) : Bool :=
  k.vPend.any fun q => q.due == due && q.dst.any fun x => dsts.any x.same

/-- The word's results are due `lat` clk after issue, and its unit is occupied `occ` clk (R241, R248). -/
def maLaunch (s : State) (c : Nat) (e : Eng) (unit occ lat : Nat) (dsts : List MaDst) : State :=
  (s.modCore c fun k =>
    { k with
      vPend := k.vPend ++ [{ due := s.pcc + lat, dst := dsts, sec := (k.eng e).place.1 }]
      unitBusy := Tbl.put k.unitBusy unit (s.pcc + occ) }).launch c e

/-- Is the unit still occupied by the word before (R248)? -/
def unitHeld (s : State) (k : Core) (unit : Nat) : Bool := decide (s.pcc < Tbl.get 0 k.unitBusy unit)

/-- The issue of a vector word of form `F`: occupancy, REGCOLD, WPORT, then UNCORR at the element `pois` finds, then the
results. -/
def vWord (F : VForm) (unit occ lat : Nat) (pois : Core → VrWord → List Bool → Option Nat)
    (res : Core → VrWord → List Bool → List (Option Nat)) (g : Guard) (f : VrWord) (s : State) :
    Host.Outcome State Fault Refusal :=
  issueWord g 1 (fun _ _ => F.illop f)
    (fun c e s =>
      let k := s.core c
      if unitHeld s k unit then .stall .none s
      else if k.cold F f then .flt FCode.regcold 0 noElem
      else if wportHit k (s.pcc + lat) (k.out F.d f.d.toNat []) then .flt FCode.wport 0 noElem
      else
        let act := k.activeList f.me f.pm.toNat true
        match pois k f act with
        | some i => .flt FCode.uncorr 0 (elemNo i)
        | none => .go (maLaunch s c e unit occ lat (k.out F.d f.d.toNat (res k f act)))) s

/-- Three lists combined element by element. -/
def zip3 {α β γ δ : Type} (f : α → β → γ → δ) : List α → List β → List γ → List δ
  | a :: as, b :: bs, c :: cs => f a b c :: zip3 f as bs cs
  | _, _, _ => []

/-- The generic element-wise word of R251. -/
def vElem (F : VForm) (unit occ lat : Nat) (fn : Nat → Nat → Nat → Nat → Nat) (g : Guard) (f : VrWord) (s : State) :
    Host.Outcome State Fault Refusal :=
  vWord F unit occ lat (fun k f act => k.poisonedAt F f act)
    (fun k f act =>
      masked f.zm act
        (zip3 (fn f.sub.toNat) (k.operand F.a f.a.toNat) (k.operandB F f) (k.operand F.c f.c.toNat))) g f s

/-! ## Forms -/

/-- D, A and B or an immediate; SUB up to `n`. -/
def form2 (n : Nat) : VForm := { d := .v, a := .v, b := .v, bi := true, subUsed := true, subMax := n }
def form2NoSub : VForm := { d := .v, a := .v, b := .v, bi := true }
def form3 (n : Nat) : VForm := { d := .v, a := .v, b := .v, c := .v, bi := true, subUsed := true, subMax := n }
def form1 : VForm := { d := .v, a := .v }
def formCmp (n : Nat) : VForm := { d := .p, a := .v, b := .v, bi := true, subUsed := true, subMax := n }

/-! ## Floating-point words (R252) -/

/-- VADD. -/
def execVadd (g : Guard) (f : VrWord) (s : State) : Host.Outcome State Fault Refusal :=
  vElem (form2 4) unitFloat 4 4 (fun r a b _ => fadd (vRound r) a b) g f s

/-- VSUB. -/
def execVsub (g : Guard) (f : VrWord) (s : State) : Host.Outcome State Fault Refusal :=
  vElem (form2 4) unitFloat 4 4 (fun r a b _ => fsub (vRound r) a b) g f s

/-- VMUL. -/
def execVmul (g : Guard) (f : VrWord) (s : State) : Host.Outcome State Fault Refusal :=
  vElem (form2 4) unitFloat 4 4 (fun r a b _ => fmul (vRound r) a b) g f s

/-- VFMA. -/
def execVfma (g : Guard) (f : VrWord) (s : State) : Host.Outcome State Fault Refusal :=
  vElem (form3 4) unitFloat 4 4 (fun r a b c => ffma (vRound r) a b c) g f s

/-- VFMS. -/
def execVfms (g : Guard) (f : VrWord) (s : State) : Host.Outcome State Fault Refusal :=
  vElem (form3 4) unitFloat 4 4 (fun r a b c => ffms (vRound r) a b c) g f s

/-- VMAX. -/
def execVmax (g : Guard) (f : VrWord) (s : State) : Host.Outcome State Fault Refusal :=
  vElem form2NoSub unitFloat 4 4 (fun _ a b _ => fmax a b) g f s

/-- VMIN. -/
def execVmin (g : Guard) (f : VrWord) (s : State) : Host.Outcome State Fault Refusal :=
  vElem form2NoSub unitFloat 4 4 (fun _ a b _ => fmin a b) g f s

/-- VABS. -/
def execVabs (g : Guard) (f : VrWord) (s : State) : Host.Outcome State Fault Refusal :=
  vElem form1 unitFloat 4 4 (fun _ a _ _ => a % 2 ^ 31) g f s

/-- VNEG. -/
def execVneg (g : Guard) (f : VrWord) (s : State) : Host.Outcome State Fault Refusal :=
  vElem form1 unitFloat 4 4 (fun _ a _ _ => (a + 2 ^ 31) % 2 ^ 32) g f s

/-- VCMP. -/
def execVcmp (g : Guard) (f : VrWord) (s : State) : Host.Outcome State Fault Refusal :=
  vElem (formCmp 7) unitFloat 4 4 (fun c a b _ => b2n (fcond c a b)) g f s

/-- VSEL: a where the bit of p(C) is 1, else b; only the operand selected is consumed. -/
def execVsel (g : Guard) (f : VrWord) (s : State) : Host.Outcome State Fault Refusal :=
  let F : VForm := { d := .v, a := .v, b := .v, c := .p, bi := true }
  vWord F unitFloat 4 4
    (fun k f act =>
      if k.vPois.isEmpty then none
      else
        firstTrue 0 (zip3 (fun a q i =>
          a && (if q then k.poisNamed f.a.toNat i else !f.bi && k.poisNamed f.b.toNat i))
          act (bitList 1024 (k.readP f.c.toNat).toNat) (List.range 1024)))
    (fun k f act =>
      masked f.zm act
        (zip3 (fun q a b => if q then a else b) (bitList 1024 (k.readP f.c.toNat).toNat) (k.operand .v f.a.toNat)
          (k.operandB F f))) g f s

/-! ## Integer words (R253) -/

/-- VIADD. -/
def execViadd (g : Guard) (f : VrWord) (s : State) : Host.Outcome State Fault Refusal :=
  vElem (form2 2) unitInt 4 4 (fun n a b _ => iaddSat n a b) g f s

/-- VISUB. -/
def execVisub (g : Guard) (f : VrWord) (s : State) : Host.Outcome State Fault Refusal :=
  vElem (form2 2) unitInt 4 4 (fun n a b _ => isubSat n a b) g f s

/-- VIMUL. -/
def execVimul (g : Guard) (f : VrWord) (s : State) : Host.Outcome State Fault Refusal :=
  vElem (form2 2) unitInt 4 8 (fun n a b _ => imulSub n a b) g f s

/-- VIMAD. -/
def execVimad (g : Guard) (f : VrWord) (s : State) : Host.Outcome State Fault Refusal :=
  vElem (form3 0) unitInt 4 8 (fun _ a b c => (a * b + c) % 2 ^ 32) g f s

/-- VAND. -/
def execVand (g : Guard) (f : VrWord) (s : State) : Host.Outcome State Fault Refusal :=
  vElem (form2 0) unitInt 4 4 (fun _ a b _ => a &&& b) g f s

/-- VOR. -/
def execVor (g : Guard) (f : VrWord) (s : State) : Host.Outcome State Fault Refusal :=
  vElem (form2 0) unitInt 4 4 (fun _ a b _ => a ||| b) g f s

/-- VXOR. -/
def execVxor (g : Guard) (f : VrWord) (s : State) : Host.Outcome State Fault Refusal :=
  vElem (form2 0) unitInt 4 4 (fun _ a b _ => a ^^^ b) g f s

/-- VNOT. -/
def execVnot (g : Guard) (f : VrWord) (s : State) : Host.Outcome State Fault Refusal :=
  vElem { form1 with subUsed := true } unitInt 4 4 (fun _ a _ _ => 2 ^ 32 - 1 - a) g f s

/-- VSHL. -/
def execVshl (g : Guard) (f : VrWord) (s : State) : Host.Outcome State Fault Refusal :=
  vElem (form2 0) unitInt 4 4 (fun _ a b _ => shl32 a b) g f s

/-- VSHR. -/
def execVshr (g : Guard) (f : VrWord) (s : State) : Host.Outcome State Fault Refusal :=
  vElem (form2 0) unitInt 4 4 (fun _ a b _ => shr32 a b) g f s

/-- VSRA. -/
def execVsra (g : Guard) (f : VrWord) (s : State) : Host.Outcome State Fault Refusal :=
  vElem (form2 0) unitInt 4 4 (fun _ a b _ => sra32 a b) g f s

/-- VICMP. -/
def execVicmp (g : Guard) (f : VrWord) (s : State) : Host.Outcome State Fault Refusal :=
  vElem (formCmp 9) unitInt 4 4 (fun c a b _ => b2n (icond 32 c a b)) g f s

/-- VIMIN. -/
def execVimin (g : Guard) (f : VrWord) (s : State) : Host.Outcome State Fault Refusal :=
  vElem (form2 1) unitInt 4 4 (fun n a b _ => iminSub n a b) g f s

/-- VIMAX. -/
def execVimax (g : Guard) (f : VrWord) (s : State) : Host.Outcome State Fault Refusal :=
  vElem (form2 1) unitInt 4 4 (fun n a b _ => imaxSub n a b) g f s

/-! ## 64-bit words (R254) -/

def form64 : VForm := { d := .w, a := .w, b := .w, bi := true }
def formShift64 : VForm := { d := .w, a := .w, b := .v, bi := true }

/-- VADD64. -/
def execVadd64 (g : Guard) (f : VrWord) (s : State) : Host.Outcome State Fault Refusal :=
  vElem form64 unitInt 4 4 (fun _ a b _ => (a + b) % 2 ^ 64) g f s

/-- VSUB64. -/
def execVsub64 (g : Guard) (f : VrWord) (s : State) : Host.Outcome State Fault Refusal :=
  vElem form64 unitInt 4 4 (fun _ a b _ => (a + 2 ^ 64 - b) % 2 ^ 64) g f s

/-- VSHL64: the count stands in one register. -/
def execVshl64 (g : Guard) (f : VrWord) (s : State) : Host.Outcome State Fault Refusal :=
  vElem formShift64 unitInt 4 4 (fun _ a b _ => shl64 a b) g f s

/-- VSHR64. -/
def execVshr64 (g : Guard) (f : VrWord) (s : State) : Host.Outcome State Fault Refusal :=
  vElem formShift64 unitInt 4 4 (fun _ a b _ => shr64 a b) g f s

/-- VCMP64. -/
def execVcmp64 (g : Guard) (f : VrWord) (s : State) : Host.Outcome State Fault Refusal :=
  vElem { d := .p, a := .w, b := .w, bi := true, subUsed := true, subMax := 9 } unitInt 4 4
    (fun c a b _ => b2n (icond 64 c a b)) g f s

/-! ## Conversions (R255 to R257) -/

/-- Rounding to an integer format with bounds: NaN gives 0, an infinity the bound (R255). -/
def toInt (m : RMode) (lo hi : Int) (x : FVal) : Int :=
  match x with
  | .nan => 0
  | .inf s => if s then lo else hi
  | .fin s a => isat (roundInt m (FVal.toQ (.fin s a))) lo hi

/-- A value rounded to a narrow format and held as FP32 (R255). -/
def narrow (F : FFmt) (m : RMode) (x : Nat) : Nat := FFmt.fp32.round .rne (F.decode (F.round m (fpOf x)))

/-- VCVT's element, by kind and rounding mode. -/
def vcvtVal (kind rm a : Nat) : Nat :=
  let m := vRound rm
  let ofI := fun (x : Int) => FFmt.fp32.round m (FVal.ofQ (Q.ofInt x))
  match kind with
  | 0 => imod (toInt m (-2 ^ 31) (2 ^ 31 - 1) (fpOf a)) (2 ^ 32)
  | 1 => imod (toInt m 0 (2 ^ 32 - 1) (fpOf a)) (2 ^ 32)
  | 2 => ofI (signExt a 32)
  | 3 => ofI a
  | 4 => imod (toInt m (-2 ^ 63) (2 ^ 63 - 1) (fpOf a)) (2 ^ 64)
  | 5 => ofI (signExt a 64)
  | 6 => narrow FFmt.bf16 m a
  | 7 => narrow FFmt.fp16 m a
  | 8 => narrow FFmt.e4m3 m a
  | _ => narrow FFmt.e5m2 m a

def formCvt (kind : Nat) : VForm :=
  { d := if kind = 4 then .w else .v, a := if kind = 5 then .w else .v, subUsed := true, subMax := 9, immBits := 3, immMax := 4 }

/-- VCVT (R255). -/
def execVcvt (g : Guard) (f : VrWord) (s : State) : Host.Outcome State Fault Refusal :=
  vElem (formCvt f.sub.toNat) unitFloat 4 4 (fun kind a _ _ => vcvtVal kind f.imm.toNat a) g f s

/-- VRND's element: an integral value with the sign of the operand (R256). -/
def vrndVal (rm a : Nat) : Nat :=
  match fpOf a with
  | .nan => nan32.toNat
  | .inf _ => a
  | .fin n q => FFmt.fp32.round .rne (.fin n (Q.abs (Q.ofInt (roundInt (vRound rm) (FVal.toQ (.fin n q))))))

/-- VRND (R256). -/
def execVrnd (g : Guard) (f : VrWord) (s : State) : Host.Outcome State Fault Refusal :=
  vElem { form1 with mask := false, zm := false, subUsed := true, subMax := 4 } unitFloat 4 4 (fun r a _ _ => vrndVal r a) g f s

/-- Half a packed element (R257). -/
def packVal (kind rm x : Nat) : Nat :=
  match kind with
  | 0 => FFmt.bf16.round (vRound rm) (fpOf x)
  | 1 => FFmt.fp16.round (vRound rm) (fpOf x)
  | 2 => imod (isat (signExt x 32) (-32768) 32767) (2 ^ 16)
  | _ => imod (isat (signExt x 32) 0 65535) (2 ^ 16)

/-- A half widened (R257). -/
def unpackVal (kind x : Nat) : Nat :=
  match kind with
  | 0 => x * 2 ^ 16
  | 1 => FFmt.fp32.round .rne (FFmt.fp16.decode x)
  | 2 => imod (signExt x 16) (2 ^ 32)
  | _ => x

/-- VPACK (R257): a rounding mode stands for the formats that round. -/
def execVpack (g : Guard) (f : VrWord) (s : State) : Host.Outcome State Fault Refusal :=
  vElem { d := .v, a := .v, b := .v, mask := false, zm := false, subUsed := true, subMax := 3, immBits := if f.sub.toNat < 2 then 3 else 0,
          immMax := 4 } unitInt 4 4
    (fun kind a b _ => packVal kind f.imm.toNat a + 2 ^ 16 * packVal kind f.imm.toNat b) g f s

/-- VUNPK (R257). -/
def execVunpk (g : Guard) (f : VrWord) (s : State) : Host.Outcome State Fault Refusal :=
  vElem { d := .v, a := .v, mask := false, zm := false, subUsed := true, subMax := 3, immBits := 1 } unitInt 4 4
    (fun kind a _ _ => unpackVal kind (bitsOf a (16 * (f.imm.toNat % 2)) 16)) g f s

/-! ## Special functions (R258) -/

/-- VRSQA (R260). -/
def execVrsqa (g : Guard) (f : VrWord) (s : State) : Host.Outcome State Fault Refusal :=
  vElem form1 unitFun 16 20 (fun _ a _ _ => vrsqa a) g f s

/-- VRCPA (R259). -/
def execVrcpa (g : Guard) (f : VrWord) (s : State) : Host.Outcome State Fault Refusal :=
  vElem form1 unitFun 16 20 (fun _ a _ _ => vrcpa a) g f s

/-- VEXP2 (R261). -/
def execVexp2 (g : Guard) (f : VrWord) (s : State) : Host.Outcome State Fault Refusal :=
  vElem form1 unitFun 16 24 (fun _ a _ _ => vexp2 a) g f s

/-- VLOG2 (R262). -/
def execVlog2 (g : Guard) (f : VrWord) (s : State) : Host.Outcome State Fault Refusal :=
  vElem form1 unitFun 16 24 (fun _ a _ _ => vlog2 a) g f s

/-! ## Rows and columns (R263, R264) -/

/-- An element of a register held as an array. -/
def at_ (a : Array Nat) (i : Nat) : Nat := a.getD i 0

/-- The form of a row or column word with an amount up to `n`. -/
def formRow (n : Nat) : VForm := { d := .v, a := .v, immBits := 32, immMax := n }

/-- A word whose element i is the element `src` of A: masking is the destination's, and the sources of active elements are
consumed (R251, R263). -/
def vPerm (F : VForm) (occ lat : Nat) (src : Nat → Nat → Nat) (g : Guard) (f : VrWord) (s : State) :
    Host.Outcome State Fault Refusal :=
  vWord F unitNet occ lat
    (fun k f act =>
      if k.vPois.isEmpty then none
      else
        let used := (act.zip (List.range 1024)).filterMap fun e => if e.1 then some (src f.imm.toNat e.2) else none
        (List.range 1024).find? fun i => k.poisNamed f.a.toNat i && used.contains i)
    (fun k f act =>
      let a := (k.readV f.a.toNat).toArray
      masked f.zm act (tab 1024 fun i => at_ a (src f.imm.toNat i))) g f s

/-- VROTR. -/
def execVrotr (g : Guard) (f : VrWord) (s : State) : Host.Outcome State Fault Refusal :=
  vPerm (formRow 63) 4 4 (fun n i => 64 * (i / 64) + (i % 64 + n) % 64) g f s

/-- VROTC. -/
def execVrotc (g : Guard) (f : VrWord) (s : State) : Host.Outcome State Fault Refusal :=
  vPerm (formRow 15) 4 8 (fun n i => 64 * ((i / 64 + n) % 16) + i % 64) g f s

/-- VBCR. -/
def execVbcr (g : Guard) (f : VrWord) (s : State) : Host.Outcome State Fault Refusal :=
  vPerm (formRow 63) 4 4 (fun n i => 64 * (i / 64) + n) g f s

/-- VBCC. -/
def execVbcc (g : Guard) (f : VrWord) (s : State) : Host.Outcome State Fault Refusal :=
  vPerm (formRow 15) 4 8 (fun n i => 64 * n + i % 64) g f s

/-- VTRN: the four 16 by 16 blocks transposed. -/
def execVtrn (g : Guard) (f : VrWord) (s : State) : Host.Outcome State Fault Refusal :=
  vPerm (formRow 0) 16 20 (fun _ i => 64 * (i % 16) + 16 * (i % 64 / 16) + i / 64) g f s

/-- The combination of a reduction, by SUB (R264). -/
def redOp (op x y : Nat) : Nat :=
  match op with
  | 0 => fadd .rne x y
  | 1 => fmax x y
  | 2 => fmin x y
  | 3 => (x + y) % 2 ^ 32
  | 4 => imaxSub 0 x y
  | 5 => iminSub 0 x y
  | 6 => max x y
  | _ => min x y

/-- The identity of a reduction, by SUB (R264). -/
def redId (op : Nat) : Nat :=
  match op with
  | 0 => 0
  | 1 => 0xFF800000
  | 2 => 0x7F800000
  | 3 => 0
  | 4 => 0x80000000
  | 5 => 0x7FFFFFFF
  | 6 => 0
  | _ => 0xFFFFFFFF

/-- One level of the tree: neighbours combined. -/
def treeLevel (op : Nat) : List Nat → List Nat
  | x :: y :: t => redOp op x y :: treeLevel op t
  | l => l

/-- The fixed tree of R264 over 2^n values. -/
def treeRed (op : Nat) : Nat → List Nat → List Nat
  | 0, l => l
  | n + 1, l => treeRed op n (treeLevel op l)

/-- Elements with the identity where they do not take part. -/
def takePart (op : Nat) (act : List Bool) (a : List Nat) : List Nat := List.zipWith (fun t x => if t then x else redId op) act a

def poisActive (k : Core) (f : VrWord) (act : List Bool) : Option Nat :=
  if k.vPois.isEmpty then none
  else firstTrue 0 (List.zipWith (fun a i => a && k.poisNamed f.a.toNat i) act (List.range 1024))

/-- VREDR: row r's reduction goes to column IMM. -/
def execVredr (g : Guard) (f : VrWord) (s : State) : Host.Outcome State Fault Refusal :=
  vWord { d := .v, a := .v, zm := false, subUsed := true, subMax := 7, immBits := 32, immMax := 63 } unitNet 4 12 poisActive
    (fun k f act =>
      let op := f.sub.toNat
      let x := (takePart op act (k.readV f.a.toNat)).toArray
      let r := (tab 16 fun r => nth 0 (treeRed op 6 (tab 64 fun c => at_ x (64 * r + c))) 0).toArray
      tab 1024 fun i => if i % 64 = f.imm.toNat then some (at_ r (i / 64)) else none) g f s

/-- VREDC: column c's reduction goes to row IMM. -/
def execVredc (g : Guard) (f : VrWord) (s : State) : Host.Outcome State Fault Refusal :=
  vWord { d := .v, a := .v, zm := false, subUsed := true, subMax := 7, immBits := 32, immMax := 15 } unitNet 4 16 poisActive
    (fun k f act =>
      let op := f.sub.toNat
      let x := (takePart op act (k.readV f.a.toNat)).toArray
      let r := (tab 64 fun c => nth 0 (treeRed op 4 (tab 16 fun r => at_ x (64 * r + c))) 0).toArray
      tab 1024 fun i => if i / 64 = f.imm.toNat then some (at_ r (i % 64)) else none) g f s

/-- Running combinations from left to right. -/
def scanGo (op : Nat) : Nat → List Nat → List Nat
  | _, [] => []
  | acc, x :: t => let y := redOp op acc x; y :: scanGo op y t

def scanRow (op : Nat) : List Nat → List Nat
  | [] => []
  | x :: t => x :: scanGo op x t

/-- VSCANR: inactive sources stand as the identity, inactive destinations are masked. -/
def execVscanr (g : Guard) (f : VrWord) (s : State) : Host.Outcome State Fault Refusal :=
  vWord { d := .v, a := .v, subUsed := true, subMax := 7, immBits := 32, immMax := 0 } unitNet 8 16 poisActive
    (fun k f act =>
      let x := takePart f.sub.toNat act (k.readV f.a.toNat)
      masked f.zm act ((chunks 64 16 x).map (scanRow f.sub.toNat)).flatten) g f s

/-! ## Moves, exchange and partition (R265 to R267) -/

/-- VMOV. -/
def execVmov (g : Guard) (f : VrWord) (s : State) : Host.Outcome State Fault Refusal :=
  vElem form1 unitInt 4 4 (fun _ a _ _ => a) g f s

def formImm : VForm := { d := .v, immBits := 32 }

/-- VLI. -/
def execVli (g : Guard) (f : VrWord) (s : State) : Host.Outcome State Fault Refusal :=
  vElem formImm unitInt 4 4 (fun _ _ _ _ => f.imm.toNat) g f s

/-- VIOTA. -/
def execViota (g : Guard) (f : VrWord) (s : State) : Host.Outcome State Fault Refusal :=
  vWord formImm unitInt 4 4 (fun _ _ _ => none)
    (fun _ f act => masked f.zm act (tab 1024 fun i => (f.imm.toNat + i) % 2 ^ 32)) g f s

/-- VXG: element i takes a[b[i]], 0 beyond the register. -/
def execVxg (g : Guard) (f : VrWord) (s : State) : Host.Outcome State Fault Refusal :=
  vWord { d := .v, a := .v, b := .v } unitNet 16 20
    (fun k f act =>
      if k.vPois.isEmpty then none
      else
        let b := k.readV f.b.toNat
        let used := (act.zip b).filterMap fun e => if e.1 then some e.2 else none
        firstTrue 0 (List.zipWith (fun a i =>
          (a && k.poisNamed f.b.toNat i) || (k.poisNamed f.a.toNat i && used.contains i)) act (List.range 1024)))
    (fun k f act =>
      let a := (k.readV f.a.toNat).toArray
      masked f.zm act ((k.readV f.b.toNat).map fun j => if j < 1024 then at_ a j else 0)) g f s

/-- VXS: element b[i] takes a[i], the later i winning. -/
def execVxs (g : Guard) (f : VrWord) (s : State) : Host.Outcome State Fault Refusal :=
  vWord { d := .v, a := .v, b := .v, zm := false } unitNet 16 20
    (fun k f act =>
      if k.vPois.isEmpty then none
      else firstTrue 0 (List.zipWith (fun a i => a && (k.poisNamed f.b.toNat i || k.poisNamed f.a.toNat i)) act (List.range 1024)))
    (fun k f act =>
      let w := zip3 (fun t a b => (t, a, b)) act (k.readV f.a.toNat) (k.readV f.b.toNat)
      (w.foldl (fun (r : Array (Option Nat)) e => if e.1 ∧ e.2.2 < 1024 then r.setIfInBounds e.2.2 (some e.2.1) else r)
        (Array.replicate 1024 none)).toList) g f s

/-- The indices of the active elements of outcome `o` (R267). -/
def partOf (act : List Bool) (a : List Nat) (o : Nat) : List Nat :=
  (zip3 (fun t x i => (t && x % 4 == o, i)) act a (List.range 1024)).filterMap fun e => if e.1 then some e.2 else none

/-- VPART: the index list in D, the counts and their sums in D + 1. -/
def execVpart (g : Guard) (f : VrWord) (s : State) : Host.Outcome State Fault Refusal :=
  vWord { d := .w, a := .v, zm := false } unitNet 16 24 poisActive
    (fun k f act =>
      let a := k.readV f.a.toNat
      let ls := tab 4 fun o => partOf act a o
      let n := ls.map (·.length)
      let cum := tab 4 fun o => (n.take (o + 1)).foldl (· + ·) 0
      let lo := fit 0xFFFFFFFF 1024 ls.flatten
      let hi := fit 0 1024 (n ++ cum)
      List.zipWith (fun x y => some (x + 2 ^ 32 * y)) lo hi) g f s

/-! ## Predicate words (R268) -/

def formP (b : Bool) : VForm := { d := .p, a := .p, b := if b then .p else .none, mask := false, zm := false }

/-- The bits of a predicate as elements. -/
def bitsP (x : BitVec 1024) : List (Option Nat) := (bitList 1024 x.toNat).map fun b => some (b2n b)

def pWord (F : VForm) (res : Core → BitVec 1024) (g : Guard) (f : VrWord) (s : State) : Host.Outcome State Fault Refusal :=
  vWord F unitPred 1 2 (fun _ _ _ => none) (fun k _ _ => bitsP (res k)) g f s

/-- PAND. -/
def execPand (g : Guard) (f : VrWord) (s : State) : Host.Outcome State Fault Refusal :=
  pWord (formP true) (fun k => k.readP f.a.toNat &&& k.readP f.b.toNat) g f s

/-- POR. -/
def execPor (g : Guard) (f : VrWord) (s : State) : Host.Outcome State Fault Refusal :=
  pWord (formP true) (fun k => k.readP f.a.toNat ||| k.readP f.b.toNat) g f s

/-- PXOR. -/
def execPxor (g : Guard) (f : VrWord) (s : State) : Host.Outcome State Fault Refusal :=
  pWord (formP true) (fun k => k.readP f.a.toNat ^^^ k.readP f.b.toNat) g f s

/-- PNOT. -/
def execPnot (g : Guard) (f : VrWord) (s : State) : Host.Outcome State Fault Refusal :=
  pWord (formP false) (fun k => ~~~k.readP f.a.toNat) g f s

/-- The first `n` set bits. -/
def firstBits : Nat → List Bool → List Bool
  | _, [] => []
  | n, b :: t => if b then decide (0 < n) :: firstBits (n - 1) t else false :: firstBits n t

/-- PFX: the first b[e] set bits of p(A). -/
def execPfx (g : Guard) (f : VrWord) (s : State) : Host.Outcome State Fault Refusal :=
  vWord { d := .p, a := .p, b := .v, mask := false, zm := false, immBits := 32, immMax := 1023 } unitPred 1 2
    (fun k f _ => if k.poisNamed f.b.toNat f.imm.toNat then some f.imm.toNat else none)
    (fun k f _ =>
      (firstBits (nth 0 (k.readV f.b.toNat) f.imm.toNat) (bitList 1024 (k.readP f.a.toNat).toNat)).map fun b => some (b2n b)) g f s

/-- PCNT: the number of set bits, in every element. -/
def execPcnt (g : Guard) (f : VrWord) (s : State) : Host.Outcome State Fault Refusal :=
  vWord { d := .v, a := .p } unitPred 1 2 (fun _ _ _ => none)
    (fun k f act => masked f.zm act (List.replicate 1024 (popCount 1024 (k.readP f.a.toNat).toNat))) g f s

def formPmov (sub : Nat) : VForm :=
  { d := if sub = 2 then .v else .p, a := if sub = 1 then .v else .p, mask := false, zm := false, subUsed := true, subMax := 2 }

/-- PMOV: between predicates, from a vector, to a vector. -/
def execPmov (g : Guard) (f : VrWord) (s : State) : Host.Outcome State Fault Refusal :=
  vWord (formPmov f.sub.toNat) unitPred 1 2
    (fun k f _ => if f.sub = 1#4 then poisActive k f (List.replicate 1024 true) else none)
    (fun k f _ =>
      if f.sub = 1#4 then (k.readV f.a.toNat).map fun x => some (b2n (x != 0)) else bitsP (k.readP f.a.toNat)) g f s

/-! ## Banks and live depth (R243 to R246) -/

/-- File and bank of IMM[7:4], IMM[3:0] in range (R245). -/
def bankOk (imm : BitVec 32) : Bool :=
  let b := fld imm 0 4
  match fld imm 4 4 with
  | 0 => decide (b < 4)
  | 1 => decide (b < 2)
  | 2 => true
  | _ => false

/-- ILLOP of VSLEEP and VWAKE. -/
def bankIllop (f : VrWord) (subMax : Nat) : Option Nat :=
  ({ immBits := 8, mask := false, zm := false, subUsed := subMax != 0, subMax := subMax } : VForm).illop f
    |>.or (if bankOk f.imm then none else some 0x12)

def setBank (k : Core) (file b : Nat) (v : BankSt) : Core :=
  match file with
  | 0 => { k with bankV := fillAt .awake k.bankV b v }
  | 1 => { k with bankM := fillAt .awake k.bankM b v }
  | _ => { k with bankA := fillAt .awake k.bankA b v }

/-- The tiles that a matrix or attention command names (R284, R368). -/
def MqEntry.tiles (q : MqEntry) : List Nat :=
  let t := q.w.acc.toNat
  match q.opc.toNat with
  | 0x80 | 0x81 | 0x83 | 0x84 => [t]
  | 0x82 => [t, t + 1]
  | 0x85 => if q.w.sub = 0#4 then [t] else [t, t + 1]
  | 0x86 => [t, q.w.imm.toNat % 256]
  | _ => [t, t + 1, t + 2, t + 3]

/-- Is the bank free: nothing in flight writes or reads it, and no queued command names a tile of it (R245)?  A result that a dead register
has discarded is in flight no longer (R242). -/
def bankFree (k : Core) (pcc file b : Nat) : Bool :=
  match file with
  | 0 =>
    k.vPend.all (fun q => q.dst.all fun d =>
      match d with
      | .v p _ => p / 8 != b
      | _ => true) &&
    k.loads.all (fun l =>
      let w := l.f
      let out := fun (p : Nat) => p / 8 != b || l.drop.contains p
      l.op == 0 || w.sub.toNat % 4 == 2 || (out w.vd.toNat && (w.sub.toNat % 4 != 3 || out (w.vd.toNat + 1))))
  | 1 =>
    k.vPend.all (fun q => q.dst.all fun d =>
      match d with
      | .m r _ => r / 8 != b
      | _ => true) &&
    k.loads.all (fun l =>
      let w := l.f
      l.op == 0 || w.sub.toNat % 4 != 2 || w.vd.toNat / 8 != b)
  | _ =>
    k.mrun.all (fun r => decide (r.due ≤ pcc) || r.cmd.tiles.all fun t => t / 16 != b) && k.mq.all (fun q => q.tiles.all fun t => t / 16 != b)

/-- The contents of a bank are lost (R244). -/
def wipeBank (k : Core) (file b : Nat) : Core :=
  match file with
  | 0 => { k with v := k.v.filter (fun e => e.1 / 8 != b), vPois := k.vPois.filter (fun e => e / 4096 != b) }
  | 1 => { k with m := k.m.filter (fun e => e.1 / 8 != b), mPois := k.mPois.filter (fun e => e / 8192 != b) }
  | _ => { k with tiles := k.tiles.filter (fun e => e.1 / 16 != b) }

/-- VSLEEP (R245): at once without effect on a bank that is not AWAKE; otherwise it holds MA, and takes effect in the clk after
its conditions first hold (VSLEEP_EFFECT). -/
def execVsleep (g : Guard) (f : VrWord) (s : State) : Host.Outcome State Fault Refusal :=
  issueWord g 1 (fun _ _ => bankIllop f 1)
    (fun c _ s =>
      let k := s.core c
      let file := fld f.imm 4 4
      let b := fld f.imm 0 4
      if bankSt k file b != .awake then .go s
      else .stall (.vsleep (if bankFree k s.pcc file b then some (s.pcc + 1) else none)) s) s

/-- VWAKE (R246): the bank wakes 160 clk after issue. -/
def execVwake (g : Guard) (f : VrWord) (s : State) : Host.Outcome State Fault Refusal :=
  issueWord g 1 (fun _ _ => bankIllop f 0)
    (fun c _ s =>
      let file := fld f.imm 4 4
      let b := fld f.imm 0 4
      match bankSt (s.core c) file b with
      | .asleep => .go (s.modCore c fun k => setBank k file b (.waking (s.pcc + 160) true))
      | .off => .go (s.modCore c fun k => setBank k file b (.waking (s.pcc + 160) false))
      | _ => .go s) s

/-- The largest live depth of the task's code object (R100). -/
def liveMax (s : State) (c : Nat) : Nat :=
  match s.codeOf (s.crCode (s.core c).crid) with
  | some o => o.live
  | none => 16

/-- VLIVE (R243): LD changes in the clk after the issue, in which registers that become dead are cleared. -/
def execVlive (g : Guard) (f : VrWord) (s : State) : Host.Outcome State Fault Refusal :=
  let lim := match s.agent with
    | .seq c _ => liveMax s c
    | _ => 16
  issueWord g 1
    (fun _ _ =>
      (({ immBits := 32, mask := false, zm := false } : VForm).illop f).or
        (if f.imm = 0#32 ∨ lim < f.imm.toNat then some 0x12 else none))
    (fun c _ s => .go (s.modCore c fun k => { k with livePend := some (f.imm.truncate 5) })) s

/-- BANK_WAKE (R246, R457): at its wake clk the bank is AWAKE.  `bank` is 16 times the file plus the bank.  Of a bank that comes out of
Bivouac the words upset in the meantime are then corrected, or poisoned, each with its record (R458). -/
def execBankWake (bank : Nat) (s : State) : Host.Outcome State Fault Refusal :=
  let c := s.unit
  let file := bank / 16
  let b := bank % 16
  match bankSt (s.core c) file b with
  | .waking t _ => .next (if t ≤ s.pcc then (s.modCore c fun k => setBank k file b .awake).wakeUpsets c file b else s)
  | _ => .next s

end Sys2Proof.Machine
end

