-- ==== Sys2Proof/Machine/Nest.lean ====
section
/-!
DEFINITION. VNEST (R53, R269, R270) and the effect of VSLEEP (R245).
-/

namespace Sys2Proof.Machine

/-- A level of a nest: its extent and the strides of D, A and B. -/
structure NestLevel where
  n : Nat
  sd : Int
  sa : Int
  sb : Int
deriving DecidableEq, Repr

/-- All five levels of the three words (R53). -/
def nestLevels (f : NestWord) : List NestLevel :=
  let s := fun (w : BitVec 96) (lo : Nat) => signExt (fld w lo 9) 9
  [{ n := f.e0.toNat + 1, sd := s f.w1 59, sa := s f.w1 50, sb := s f.w1 41 },
   { n := f.e1.toNat + 1, sd := s f.w1 32, sa := s f.w1 23, sb := s f.w1 14 },
   { n := f.e2.toNat + 1, sd := s f.w1 5, sa := s f.w2 71, sb := s f.w2 62 },
   { n := f.e3.toNat + 1, sd := s f.w2 53, sa := s f.w2 44, sb := s f.w2 35 },
   { n := fld f.w1 68 12 + 1, sd := s f.w2 26, sa := s f.w2 17, sb := s f.w2 8 }]

/-- Are words 1 and 2 NXC words (R53)? -/
def nestWordsOk (f : NestWord) : Bool := fld f.w1 88 8 == 0xFE && fld f.w2 88 8 == 0xFE

/-- Are the bits of the NX family that must be zero so (R47, R53): those of the two NXC words, and the extents and strides of the levels
not used? -/
def nestZerosOk (f : NestWord) : Bool :=
  fld f.w1 80 8 == 0 && fld f.w2 80 8 == 0 && fld f.w1 0 5 == 0 && fld f.w2 0 8 == 0 &&
    ((nestLevels f).drop f.nl.toNat).all (fun l => l.n == 1 && l.sd == 0 && l.sa == 0 && l.sb == 0)

/-- Do the three slots stand in one section, unbroken by the end of an active body (R53)? -/
def nestPlaceOk (g : EngSt) : Bool :=
  let k := g.place.2
  decide (k + 2 < g.len) && g.loops.all fun l => !l.active || (l.le != k && l.le != k + 1)

/-- An operation of R269: does it read b, its unit and latency, and its value from d, a and b. -/
structure NestOp where
  useB : Bool
  unit : Nat
  lat : Nat
  fn : Nat → Nat → Nat → Nat

def nestOp (op : Nat) (rd : Bool) : Option NestOp :=
  let fl := fun (b : Bool) (fn : Nat → Nat → Nat → Nat) => some ({ useB := b, unit := unitFloat, lat := 4, fn := fn } : NestOp)
  let it := fun (b : Bool) (lat : Nat) (fn : Nat → Nat → Nat → Nat) => some ({ useB := b, unit := unitInt, lat := lat, fn := fn } : NestOp)
  match op, rd with
  | 0x10, false => fl true fun _ a b => fadd .rne a b
  | 0x10, true => fl false fun d a _ => fadd .rne d a
  | 0x11, false => fl true fun _ a b => fsub .rne a b
  | 0x12, false => fl true fun _ a b => fmul .rne a b
  | 0x13, true => fl true fun d a b => ffma .rne a b d
  | 0x15, false => fl true fun _ a b => fmax a b
  | 0x15, true => fl false fun d a _ => fmax d a
  | 0x16, false => fl true fun _ a b => fmin a b
  | 0x16, true => fl false fun d a _ => fmin d a
  | 0x17, false => fl false fun _ a _ => a % 2 ^ 31
  | 0x18, false => fl false fun _ a _ => (a + 2 ^ 31) % 2 ^ 32
  | 0x48, false => it false 4 fun _ a _ => a
  | 0x27, false => it false 4 fun _ a _ => 2 ^ 32 - 1 - a
  | 0x20, false => it true 4 fun _ a b => (a + b) % 2 ^ 32
  | 0x20, true => it false 4 fun d a _ => (d + a) % 2 ^ 32
  | 0x21, false => it true 4 fun _ a b => (a + 2 ^ 32 - b) % 2 ^ 32
  | 0x22, false => it true 8 fun _ a b => a * b % 2 ^ 32
  | 0x24, false => it true 4 fun _ a b => a &&& b
  | 0x24, true => it false 4 fun d a _ => d &&& a
  | 0x25, false => it true 4 fun _ a b => a ||| b
  | 0x25, true => it false 4 fun d a _ => d ||| a
  | 0x26, false => it true 4 fun _ a b => a ^^^ b
  | 0x26, true => it false 4 fun d a _ => d ^^^ a
  | 0x2C, false => it true 4 fun _ a b => iminSub 0 a b
  | 0x2C, true => it false 4 fun d a _ => iminSub 0 d a
  | 0x2D, false => it true 4 fun _ a b => imaxSub 0 a b
  | 0x2D, true => it false 4 fun d a _ => imaxSub 0 d a
  | _, _ => none

/-- The least and the greatest element index of an operand over the whole nest. -/
def nestSpan (ls : List NestLevel) (st : NestLevel → Int) : Int × Int :=
  ls.foldl (fun r l =>
    let x := st l * (l.n - 1)
    if x < 0 then (r.1 + x, r.2) else (r.1, r.2 + x)) (0, 0)

/-- Does an operand stay within the registers v0 to v31 (R269)? -/
def nestFits (base : Nat) (sp : Int × Int) : Bool := decide (0 ≤ sp.1) && decide (base + sp.2.toNat / 1024 ≤ 31)

/-- The iterations of a nest in order, level 0 outermost. -/
def nestGo {α : Type} (f : α → Nat → Nat → Nat → α) : List NestLevel → Int → Int → Int → α → α
  | [], d, a, b, acc => f acc d.toNat a.toNat b.toNat
  | l :: t, d, a, b, acc =>
    (List.range l.n).foldl (fun acc (i : Nat) => nestGo f t (d + (i : Int) * l.sd) (a + (i : Int) * l.sa) (b + (i : Int) * l.sb) acc) acc

/-- The registers an operand names, by name. -/
def nestRegs (base : Nat) (sp : Int × Int) : List Nat := tab (sp.2.toNat / 1024 + 1) fun i => base + i

/-- What the iterations leave: the destination's values, which of them are written, the least poisoned source index. -/
structure NestAcc where
  val : Array Nat
  hit : Array Bool
  bad : Option Nat

def leastOf (a : Option Nat) (b : Nat) : Option Nat :=
  match a with
  | none => some b
  | some x => some (min x b)

/-- The ILLOP detail of a VNEST that breaks R47, R53 or R269 (log entry 43). -/
def nestIllop (f : NestWord) (g : EngSt) : Option Nat :=
  let ls := (nestLevels f).take f.nl.toNat
  if !nestWordsOk f || !nestPlaceOk g then some 0x13
  else if !nestZerosOk f then some 0x11
  else if f.nl.toNat == 0 || decide (5 < f.nl.toNat) then some 0x12
  else
    match nestOp f.op.toNat f.rd with
    | none => some 0x12
    | some o =>
      if !o.useB && (f.b != 0#5 || ls.any fun l => l.sb != 0) then some 0x11
      else if !nestFits f.d.toNat (nestSpan ls (·.sd)) || !nestFits f.a.toNat (nestSpan ls (·.sa)) ||
          (o.useB && !nestFits f.b.toNat (nestSpan ls (·.sb))) then some 0x12
      else none

/-- The values, hits and poison of a nest. -/
def nestRun (k : Core) (f : NestWord) (o : NestOp) : NestAcc :=
  let ls := (nestLevels f).take f.nl.toNat
  let flat := fun (base : Nat) (sp : Int × Int) => ((nestRegs base sp).map fun n => k.readV n).flatten.toArray
  let d0 := flat f.d.toNat (nestSpan ls (·.sd))
  let a := flat f.a.toNat (nestSpan ls (·.sa))
  let b := if o.useB then flat f.b.toNat (nestSpan ls (·.sb)) else #[]
  let act := (k.activeList f.me f.pm.toNat true).toArray
  let pois := fun (base e : Nat) => !k.vPois.isEmpty && k.poisNamed (base + e / 1024) (e % 1024)
  nestGo (fun (r : NestAcc) di ai bi =>
    if !act.getD (di % 1024) false then r
    else
      let bad := if pois f.a.toNat ai then leastOf r.bad (ai % 1024) else r.bad
      let bad := if o.useB && pois f.b.toNat bi then leastOf bad (bi % 1024) else bad
      let bad := if f.rd && !r.hit.getD di false && pois f.d.toNat di then leastOf bad (di % 1024) else bad
      { val := r.val.setIfInBounds di (o.fn (r.val.getD di 0) (a.getD ai 0) (b.getD bi 0)),
        hit := r.hit.setIfInBounds di true, bad := bad })
    ls 0 0 0 { val := d0, hit := Array.replicate d0.size false, bad := none }

/-- VNEST: the whole nest is read and evaluated at issue, MA's issue and the unit are held for K clk, and the results are
written K + L clk after issue (R270). -/
def execVnest (g : Guard) (f : NestWord) (s : State) : Host.Outcome State Fault Refusal :=
  issueWord g 3 (fun _ en => nestIllop f en)
    (fun c e s =>
      let k := s.core c
      match nestOp f.op.toNat f.rd with
      | none => .flt FCode.illop 0x12 noElem
      | some o =>
        let ls := (nestLevels f).take f.nl.toNat
        let dr := nestRegs f.d.toNat (nestSpan ls (·.sd))
        let named := dr ++ nestRegs f.a.toNat (nestSpan ls (·.sa)) ++
          (if o.useB then nestRegs f.b.toNat (nestSpan ls (·.sb)) else [])
        let n := ls.foldl (fun p l => p * l.n) 1
        let kk := max 1 (if f.rd then (n + 15) / 16 else (n + 255) / 256)
        if unitHeld s k o.unit then .stall .none s
        else if named.any fun r => !k.awakeV (k.rotV r) then .flt FCode.regcold 0 noElem
        else if wportHit k (s.pcc + kk + o.lat) (dr.flatMap fun r => k.outV r []) then .flt FCode.wport 0 noElem
        else
          let r := nestRun k f o
          match r.bad with
          | some i => .flt FCode.uncorr 0 (elemNo i)
          | none =>
            let els := List.zipWith (fun h x => if h then some x else none) r.hit.toList r.val.toList
            let dsts := ((dr.zip (chunks 1024 32 els)).flatMap fun p => k.outV p.1 p.2)
            .go ((maLaunch s c e o.unit kk (kk + o.lat) dsts).modEng c e fun x => { x with busyTo := s.pcc + kk })) s

/-! ## The word at the head of an engine -/

/-- The word `i` slots beyond the head of an engine's stream, as its fetch reads it: zero beyond the section, none when it cannot
be fetched. -/
def slotWord (s : State) (c : Nat) (e : Eng) (i : Nat) : Option (BitVec 96) :=
  let g := (s.core c).eng e
  if g.len ≤ g.slot + i then some 0#96
  else (s.fetch c (g.hdrPc.toNat + 8 + 12 * (g.slot + i)) 12).map fun b => BitVec.ofNat 96 (leNat b)

/-- The instruction at the head of an engine's stream; none when it cannot be fetched. -/
def headInstr (s : State) (c : Nat) (e : Eng) : Option Instr :=
  match slotWord s c e 0 with
  | none => none
  | some w0 =>
    if e = .ma ∧ opcodeOf w0 = 0x58#8 then
      match slotWord s c e 1, slotWord s c e 2 with
      | some w1, some w2 => some (decodeEngine e w0 w1 w2)
      | _, _ => none
    else some (decodeEngine e w0 0#96 0#96)

/-- VSLEEP_EFFECT (R245): once its conditions have held, a held VSLEEP gives the bank its new state in the next clk and
retires, and MA issues its next word in that clk; until then the conditions are looked at again in each clk. -/
def execVsleepEffect (s : State) : Host.Outcome State Fault Refusal :=
  let c := s.unit
  match ((s.core c).eng .ma).hold, headInstr s c .ma with
  | .vsleep (some t), some (.vsleep _ f) =>
    if t ≤ s.pcc then
      let file := fld f.imm 4 4
      let b := fld f.imm 0 4
      .next (((s.modCore c fun k =>
        if f.sub = 0#4 then setBank k file b .asleep else setBank (wipeBank k file b) file b .off).issued c .ma 1
          ((s.core c).ma.place.2)).modEng c .ma fun g => { g with busyTo := (s.core c).ma.busyTo })
    else .next s
  | .vsleep none, some (.vsleep _ f) =>
    if bankFree (s.core c) s.pcc (fld f.imm 4 4) (fld f.imm 0 4) then
      .next (s.modEng c .ma fun g => { g with hold := .vsleep (some (s.pcc + 1)) })
    else .next s
  | _, _ => .next s

/-- GUARD_RELEASE (R25): a held word whose slot is resolved is sampled: it is discarded, or it executes, its engine's turn being
taken again in this clk. -/
def execGuardRelease (e : Eng) (s : State) : Host.Outcome State Fault Refusal :=
  let c := s.unit
  let g := (s.core c).eng e
  if g.hold ≠ .guard then .next s
  else
    match s.fetch c (g.hdrPc.toNat + 8 + 12 * g.slot) 12 with
    | none => .next s
    | some b =>
      match s.guardTake c (Guard.ofBits (BitVec.ofNat 96 (leNat b))) with
      | none => .next s
      | some _ =>
        .next { s.modEng c e fun x => { x with hold := .none } with turns := .seq c (.eng e) :: s.turns }

/-- GWAIT_RELEASE (R94): a held GWAIT whose slot is resolved retires. -/
def execGwaitRelease (e : Eng) (s : State) : Host.Outcome State Fault Refusal :=
  let c := s.unit
  match ((s.core c).eng e).hold, headInstr s c e with
  | .gwait, some (.gwait _ f) =>
    if s.guardSeen c (f.imm.truncate 4) = 0#2 then .next s
    else .next (s.issued c e 1 ((s.core c).eng e).place.2)
  | _, _ => .next s

end Sys2Proof.Machine
end

