-- ==== Sys2Proof/Machine/Rv64.lean ====
section
/-!
DEFINITION. The RV64 rows (03 R70 to R74, R77): integer instructions, jumps, loads and stores, FENCE, CSRs and the system
instructions, on a control sequencer (levels U and S) and on a hart.  The arithmetic of each instruction is that of RV64I,
M, Zba, Zbb and Zicond as ratified, which R70 names.
-/

namespace Sys2Proof.Machine

namespace Rv

/-- The low 32 bits sign-extended. -/
def sext32 (w : Word) : Word := (w.extractLsb' 0 32).signExtend 64

def lo32 (w : Word) : BitVec 32 := w.extractLsb' 0 32

def ofBool (b : Bool) : Word := if b then 1#64 else 0#64

/-- Signed division, rounding toward zero, with the corners of M: by zero all ones; the overflow gives the dividend. -/
def divS {w : Nat} (a b : BitVec w) : BitVec w := if b = 0 then BitVec.allOnes w else a.sdiv b
def divU {w : Nat} (a b : BitVec w) : BitVec w := if b = 0 then BitVec.allOnes w else a.udiv b
def remS {w : Nat} (a b : BitVec w) : BitVec w := if b = 0 then a else a.srem b
def remU {w : Nat} (a b : BitVec w) : BitVec w := if b = 0 then a else a.umod b

/-- The value of a register-register operation. -/
def rop (op : ROp) (a b : Word) : Word :=
  let sh := b.toNat % 64
  let sh32 := b.toNat % 32
  match op with
  | .add => a + b
  | .sub => a - b
  | .sll => a <<< sh
  | .slt => ofBool (a.slt b)
  | .sltu => ofBool (a.ult b)
  | .xor => a ^^^ b
  | .srl => a >>> sh
  | .sra => a.sshiftRight sh
  | .or => a ||| b
  | .and => a &&& b
  | .addw => (lo32 a + lo32 b).signExtend 64
  | .subw => (lo32 a - lo32 b).signExtend 64
  | .sllw => (lo32 a <<< sh32).signExtend 64
  | .srlw => (lo32 a >>> sh32).signExtend 64
  | .sraw => ((lo32 a).sshiftRight sh32).signExtend 64
  | .mul => a * b
  | .mulh => BitVec.ofInt 64 (a.toInt * b.toInt / 2 ^ 64)
  | .mulhsu => BitVec.ofInt 64 (a.toInt * b.toNat / 2 ^ 64)
  | .mulhu => BitVec.ofNat 64 (a.toNat * b.toNat / 2 ^ 64)
  | .div => divS a b
  | .divu => divU a b
  | .rem => remS a b
  | .remu => remU a b
  | .mulw => (lo32 a * lo32 b).signExtend 64
  | .divw => (divS (lo32 a) (lo32 b)).signExtend 64
  | .divuw => (divU (lo32 a) (lo32 b)).signExtend 64
  | .remw => (remS (lo32 a) (lo32 b)).signExtend 64
  | .remuw => (remU (lo32 a) (lo32 b)).signExtend 64
  | .addUw => (lo32 a).zeroExtend 64 + b
  | .sh1add => (a <<< 1) + b
  | .sh2add => (a <<< 2) + b
  | .sh3add => (a <<< 3) + b
  | .sh1addUw => ((lo32 a).zeroExtend 64 <<< 1) + b
  | .sh2addUw => ((lo32 a).zeroExtend 64 <<< 2) + b
  | .sh3addUw => ((lo32 a).zeroExtend 64 <<< 3) + b
  | .andn => a &&& ~~~b
  | .orn => a ||| ~~~b
  | .xnor => ~~~(a ^^^ b)
  | .max => if a.slt b then b else a
  | .maxu => if a.ult b then b else a
  | .min => if a.slt b then a else b
  | .minu => if a.ult b then a else b
  | .rol => a.rotateLeft sh
  | .ror => a.rotateRight sh
  | .rolw => ((lo32 a).rotateLeft sh32).signExtend 64
  | .rorw => ((lo32 a).rotateRight sh32).signExtend 64
  | .czeroEqz => if b = 0#64 then 0#64 else a
  | .czeroNez => if b = 0#64 then a else 0#64

/-- The value of an operation with a 12-bit immediate. -/
def iop (op : IOp) (a : Word) (imm : BitVec 12) : Word :=
  let i := imm.signExtend 64
  match op with
  | .addi => a + i
  | .slti => ofBool (a.slt i)
  | .sltiu => ofBool (a.ult i)
  | .xori => a ^^^ i
  | .ori => a ||| i
  | .andi => a &&& i
  | .addiw => (lo32 a + lo32 i).signExtend 64

/-- The value of a shift or rotation by an immediate. -/
def shop (op : ShOp) (a : Word) (k : Nat) : Word :=
  match op with
  | .slli => a <<< k
  | .srli => a >>> k
  | .srai => a.sshiftRight k
  | .rori => a.rotateRight k
  | .slliUw => (lo32 a).zeroExtend 64 <<< k
  | .slliw => (lo32 a <<< k).signExtend 64
  | .srliw => (lo32 a >>> k).signExtend 64
  | .sraiw => ((lo32 a).sshiftRight k).signExtend 64
  | .roriw => ((lo32 a).rotateRight k).signExtend 64

/-- The bytes of a word, the lowest first. -/
def bytesOf (a : Word) : List Nat := tab 8 fun i => fld a (8 * i) 8

/-- The value of an operation of one operand (Zbb). -/
def unop (op : UnOp) (a : Word) : Word :=
  let n := a.toNat
  let m := n % 2 ^ 32
  match op with
  | .clz => BitVec.ofNat 64 (clzNat 64 n)
  | .ctz => BitVec.ofNat 64 (ctzNat 64 n)
  | .cpop => BitVec.ofNat 64 (popCount 64 n)
  | .clzw => BitVec.ofNat 64 (clzNat 32 m)
  | .ctzw => BitVec.ofNat 64 (ctzNat 32 m)
  | .cpopw => BitVec.ofNat 64 (popCount 32 m)
  | .sextB => (a.extractLsb' 0 8).signExtend 64
  | .sextH => (a.extractLsb' 0 16).signExtend 64
  | .zextH => (a.extractLsb' 0 16).zeroExtend 64
  | .orcB => BitVec.ofNat 64 ((bytesOf a).foldr (fun b r => (if b = 0 then 0 else 255) + 256 * r) 0)
  | .rev8 => BitVec.ofNat 64 ((bytesOf a).foldl (fun r b => 256 * r + b) 0)

/-- Is a branch taken? -/
def taken (op : BrOp) (a b : Word) : Bool :=
  match op with
  | .beq => a == b
  | .bne => a != b
  | .blt => a.slt b
  | .bge => !(a.slt b)
  | .bltu => a.ult b
  | .bgeu => !(a.ult b)

def ldSize : LdOp → Nat
  | .lb | .lbu => 1
  | .lh | .lhu => 2
  | .lw | .lwu => 4
  | .ld => 8

/-- The value loaded from the number the bytes hold. -/
def ldVal (op : LdOp) (x : Nat) : Word :=
  match op with
  | .lb => (BitVec.ofNat 8 x).signExtend 64
  | .lh => (BitVec.ofNat 16 x).signExtend 64
  | .lw => (BitVec.ofNat 32 x).signExtend 64
  | .ld => BitVec.ofNat 64 x
  | .lbu => BitVec.ofNat 64 (x % 2 ^ 8)
  | .lhu => BitVec.ofNat 64 (x % 2 ^ 16)
  | .lwu => BitVec.ofNat 64 (x % 2 ^ 32)

def stSize : StOp → Nat
  | .sb => 1
  | .sh => 2
  | .sw => 4
  | .sd => 8

end Rv

namespace State

/-- A taken jump, which writes its link to `rd`: on a control sequencer a target that is not a multiple of 4 raises ALIGN at the jump and leaves
the pc (R71); a hart, which has compressed instructions, goes to every even address. -/
def jump (s : State) (rd : BitVec 5) (target : Word) : State :=
  match s.agent with
  | .seq c .ct =>
    if target.toNat % 4 ≠ 0 then s.raiseCt c FCode.align 0 target else (s.wx rd (s.pc + 4#64)).goto target
  | _ => (s.wx rd (s.pc + 4#64)).goto target

end State

/-- RV64_INTEGER_INSTRUCTION (R70, R71). -/
def execRv64IntegerInstruction (op : RvOp) (s : State) : Host.Outcome State Fault Refusal :=
  match op with
  | .r o rd a b => .next (s.done rd (Rv.rop o (s.rx a) (s.rx b)))
  | .i o rd a imm => .next (s.done rd (Rv.iop o (s.rx a) imm))
  | .sh o rd a k => .next (s.done rd (Rv.shop o (s.rx a) k.toNat))
  | .un o rd a => .next (s.done rd (Rv.unop o (s.rx a)))
  | .lui rd imm => .next (s.done rd ((imm ++ 0#12).signExtend 64))
  | .auipc rd imm => .next (s.done rd (s.pc + (imm ++ 0#12).signExtend 64))
  | .jal rd off => .next (s.jump rd (s.pc + (off ++ 0#1).signExtend 64))
  | .br o a b off =>
    .next (if Rv.taken o (s.rx a) (s.rx b) then s.jump 0#5 (s.pc + (off ++ 0#1).signExtend 64) else s.step4)

/-- JALR (R71): bit 0 of the target is cleared, as RV64I has it. -/
def execJalr (imm : BitVec 12) (rs1 rd : BitVec 5) (s : State) : Host.Outcome State Fault Refusal :=
  .next (s.jump rd ((s.rx rs1 + imm.signExtend 64) &&& ~~~1#64))

/-- VIEW_LOAD (R172): on a hart, the load by its own address. -/
def execViewLoad (op : LdOp) (imm : BitVec 12) (rs1 rd : BitVec 5) (s : State) : Host.Outcome State Fault Refusal :=
  let a := (s.rx rs1 + imm.signExtend 64).toNat
  match s.agent with
  | .seq c .ct => .next (s.viewRead c a (Rv.ldSize op) fun bs => s.done rd (Rv.ldVal op (leNat bs)))
  | .hart h => .next (s.hartLoad h a (Rv.ldSize op) fun s x => s.done rd (Rv.ldVal op x))
  | _ => .next s

namespace State

/-- The fault of a store of the control sequencer: one that waited in the clk before, and whose view has lost the write right since, comes
after the publish of the draft, VERGONE (R158). -/
def storeFault (s : State) (c : Nat) (f : Flt) : Flt :=
  if f = ⟨FCode.rights, 2⟩ ∧ (s.core c).storeHeld.any (fun t => t + 1 == s.pcc) then ⟨FCode.vergone, 2⟩ else f

/-- A store of bytes by the control sequencer: retired when made, raised when it faults, tried again in the next clk when it waits. -/
def ctStore (s : State) (c a : Nat) (bs : List Byte) : State :=
  match s.viewStore c a bs with
  | .ok s => s.step4
  | .bad f => s.raiseAccess c a (s.storeFault c f)
  | .wait s => s.modCore c fun k => { k with storeHeld := some s.pcc }

end State

/-- VIEW_STORE (R172). -/
def execViewStore (op : StOp) (imm : BitVec 12) (rs1 rs2 : BitVec 5) (s : State) : Host.Outcome State Fault Refusal :=
  let a := (s.rx rs1 + imm.signExtend 64).toNat
  let n := Rv.stSize op
  let x := (s.rx rs2).toNat % 2 ^ (8 * n)
  match s.agent with
  | .seq c .ct => .next (s.ctStore c a (leBytes n x))
  | .hart h => .next (s.hartStore h a n x State.step4)
  | _ => .next s

/-- FENCE, FENCE.TSO and PAUSE (R71): in a model whose accesses are performed whole and in order, they only retire. -/
def execFence (_imm : BitVec 12) (_rs1 _rd : BitVec 5) (s : State) : Host.Outcome State Fault Refusal := .next s.step4

/-- WFI (R71): retires with no effect; on a hart it may return at once (R461). -/
def execWfi (s : State) : Host.Outcome State Fault Refusal := .next s.step4

/-- ECALL (R71): service entry with scause 8 from U; ILLOP with detail 0x0025 in S. -/
def execEcall (s : State) : Host.Outcome State Fault Refusal :=
  match s.agent with
  | .seq c .ct =>
    let k := s.core c
    .next (if k.ct.sup then s.raiseCt c FCode.illop 0x25 0#64 else s.enterService c 8#64 0#64 k.ct.pc)
  | .hart h => .next (s.hartTrap h (8 + (s.hart h).mode) 0#64 0#64)
  | _ => .next s

/-- EBREAK (R71): service entry with scause 3; in S the task fails (R76). -/
def execEbreak (s : State) : Host.Outcome State Fault Refusal :=
  match s.agent with
  | .seq c .ct =>
    let k := s.core c
    .next (if k.ct.sup then s.failTask c 0 0 else s.enterService c 3#64 0#64 k.ct.pc)
  | .hart h => .next (s.hartTrap h Exc.breakpoint (s.hart h).pc 0#64)
  | _ => .next s

/-- SRET (R77): in S the return; in U ILLOP with detail 0x0025.  On a hart, that of the privileged architecture. -/
def execSret (s : State) : Host.Outcome State Fault Refusal :=
  match s.agent with
  | .seq c .ct => .next (if (s.core c).ct.sup then s.returnService c else s.raiseCt c FCode.illop 0x25 0#64)
  | .hart h =>
    let k := s.hart h
    .next (if k.mode = 0 ∨ (k.mode = 1 ∧ k.mstatus.getLsbD 22) then s.hartIllegal h 0x10200073#32 0 else s.modHart h Hart.sret)
  | _ => .next s

/-! ## CSRs of the control sequencer (R72) -/

/-- The value of a CSR; none for a number it does not have. -/
def ctCsr (s : State) (k : Core) (n : Nat) : Option Word :=
  if n = 0xC00 ∨ n = 0xC01 then some (BitVec.ofNat 64 s.pcc)
  else if n = 0xC02 then some k.ct.instret
  else if 0xC03 ≤ n ∧ n ≤ 0xC1F then some 0#64
  else if n = 0x100 then some (if k.ct.spp then 0x100#64 else 0#64)
  else if n = 0x105 then some k.ct.stvec
  else if n = 0x140 then some k.ct.sscratch
  else if n = 0x141 then some k.ct.sepc
  else if n = 0x142 then some k.ct.scause
  else if n = 0x143 then some k.ct.stval
  else none

/-- May the CSR be written? -/
def ctCsrWritable (n : Nat) : Bool := n == 0x100 || n == 0x140 || n == 0x141 || n == 0x142 || n == 0x143

/-- Writes a CSR: sstatus keeps SPP alone, sepc reads 0 in bits [1:0]. -/
def setCtCsr (t : Ct) (n : Nat) (w : Word) : Ct :=
  if n = 0x100 then { t with spp := w.getLsbD 8 }
  else if n = 0x140 then { t with sscratch := w }
  else if n = 0x141 then { t with sepc := w &&& ~~~3#64 }
  else if n = 0x142 then { t with scause := w }
  else { t with stval := w }

/-- The new value of a CSR instruction, none where it writes nothing (CSRRS and CSRRC of x0 or a zero immediate). -/
def csrNew (op : BitVec 3) (rs1 : BitVec 5) (x old : Word) : Option Word :=
  let v := if op.getLsbD 2 then rs1.zeroExtend 64 else x
  let k := op.toNat % 4
  if k = 1 then some v
  else if rs1 = 0#5 then none
  else if k = 2 then some (old ||| v)
  else some (old &&& ~~~v)

/-- CSR_ACCESS (R72). -/
def execCsrAccess (op : BitVec 3) (csr : BitVec 12) (rs1 rd : BitVec 5) (s : State) : Host.Outcome State Fault Refusal :=
  let n := csr.toNat
  match s.agent with
  | .seq c .ct =>
    let k := s.core c
    match ctCsr s k n with
    | none => .next (s.raiseCt c FCode.illop 0x25 0#64)
    | some old =>
      let new := csrNew op rs1 (s.rx rs1) old
      if (n < 0xC00 && !k.ct.sup) || (new.isSome && !ctCsrWritable n) then .next (s.raiseCt c FCode.illop 0x25 0#64)
      else
        match new with
        | none => .next (s.done rd old)
        | some w => .next ((s.modCt c fun t => setCtCsr t n w).done rd old)
  | .hart h =>
    let old := s.hartCsrRead h n
    let new := csrNew op rs1 (s.rx rs1) old
    let word := Sys2Proof.Rv.iType csr rs1 op rd 0x73#7
    if !State.hartCsrMay (s.hart h) n || (new.isSome && n / 1024 = 3) then .next (s.hartIllegal h word 0)
    else
      match new with
      | none => .next (s.done rd old)
      | some w => .next ((s.hartCsrWrite h n w).done rd old)
  | _ => .next s

end Sys2Proof.Machine
end

