-- ==== Sys2Proof/Machine/Fork.lean ====
section
/-!
DEFINITION. Starting, joining and stopping a fork (R79 to R87), guard slots (R88), the sections of an engine (R16 to R19, R22, R23,
R26), power leave (R31, R451, R452) and service entry for engine faults (R75, R78).
-/

namespace Sys2Proof.Machine

/-- A scalar Linant instruction of the control sequencer.  On a hart it is an illegal instruction (R416). -/
def ctOnly (i : Instr) (body : Nat → State → State) (s : State) : Host.Outcome State Fault Refusal :=
  match s.agent with
  | .seq c .ct => .next (body c s)
  | .hart h => .next (s.hartIllegal h ((encode32 i).getD 0#32) 0)
  | _ => .next s

namespace State

/-- The control sequencer of core `c` writes `rd` and retires. -/
def ctDone (s : State) (c : Nat) (rd : BitVec 5) (w : Word) : State := s.modCore c fun k => (k.setX rd w).retire

/-- An ILLOP of a scalar instruction (R65, R73). -/
def ctIllop (s : State) (c detail : Nat) : State := s.raiseCt c FCode.illop detail 0#64

/-- The control sequencer begins to wait at its instruction (R140). -/
def waitAt (s : State) (c : Nat) (kind : WaitKind) (a b d : BitVec 5) : State :=
  s.modCt c fun t => { t with wait := some { kind := kind, a := a, b := b, d := d, since := s.pcc } }

/-- The instruction that a control sequencer waits at, if it is of the kind given. -/
def waiting (s : State) (c : Nat) (kind : WaitKind) : Option Waiting :=
  match (s.core c).ct.wait with
  | some w => if w.kind = kind then some w else none
  | none => none

/-! ## Power leave (R451 to R453) -/

/-- Section tokens that may be held (R451, R453). -/
def tokensAllowed (s : State) (g : Gov) : Nat := if s.therm = 0 then g.gtok else if s.therm = 1 then max 1 (g.gtok / 4) else 0

/-- Grants the requests of a die in their order while a token is free (R451). -/
def grantLeave (s : State) (d : Nat) : Nat → State
  | 0 => s
  | n + 1 =>
    let g := s.gov d
    match g.reqs with
    | [] => s
    | (_, c, e) :: t =>
      if g.busy s.pcc < s.tokensAllowed g then
        let s1 := s.setGov d { g with reqs := t, held := g.held ++ [(c, e)] }
        grantLeave (match engOf e with
          | some q => s1.modEng c q fun x => { x with leaveOk := true }
          | none => s1) d n
      else s

/-- Does a booking of the core stand for a section that has not asked for leave before its granted PCC, so that it needs no grant (R87; log
entry 33)? -/
def bookingRuns (s : State) (c : Nat) (e : Eng) : Bool :=
  ((s.core c).eng e).leaveReq.isNone && (s.gov (c / 256)).books.any fun b =>
    b.1 == c && decide (b.2.grant ≤ s.pcc) && decide (s.pcc < b.2.grant + b.2.dur)

/-- Asks for leave, if it has not been asked for, and takes what the governor grants in this clk. -/
def askLeave (s : State) (c : Nat) (e : Eng) : State :=
  let g := (s.core c).eng e
  let d := c / 256
  if g.leaveOk then s
  else if g.leaveReq.isSome then s.grantLeave d (s.gov d).reqs.length
  else
    let s1 := s.modEng c e fun g => { g with leaveReq := some s.pcc }
    let v := s1.gov d
    (s1.setGov d { v with reqs := v.reqs ++ [(s.pcc, c, engNo e)] }).grantLeave d (v.reqs.length + 1)

/-- A section gives its token back: it is free from the next clk (R451). -/
def freeToken (s : State) (c : Nat) (e : Eng) : State :=
  let d := c / 256
  let g := s.gov d
  s.setGov d { g with held := g.held.erase (c, engNo e), freed := g.freed.filter (fun t => decide (s.pcc < t)) ++ [s.pcc + 1] }

/-- Releases the booking of a core. -/
def dropBooking (s : State) (c : Nat) : State :=
  let d := c / 256
  let g := s.gov d
  s.setGov d { g with books := g.books.filter fun b => b.1 != c }

end State

/-- Bookings that stand at a clk. -/
def standing (bs : List Booking) (t : Nat) : Nat := (bs.filter fun b => decide (b.grant ≤ t) && decide (t < b.grant + b.dur)).length

/-- Do fewer than `n` bookings stand throughout [g, g + d)? -/
def bookFits (bs : List Booking) (n g d : Nat) : Bool :=
  decide (standing bs g < n) && bs.all fun b => !(decide (g < b.grant) && decide (b.grant < g + d)) || decide (standing bs b.grant < n)

/-- The grant of a booking (R452): the earliest value, which is `first` or the end of a booking; none when refused. -/
def bookGrant (bs : List Booking) (n now d : Nat) : Option Nat :=
  let first := now + 16
  let cands := first :: (bs.map fun b => b.grant + b.dur).filter fun t => decide (first ≤ t)
  let ok := cands.filter fun g => bookFits bs n g d
  match ok.foldl (fun (m : Option Nat) g => some (match m with | some x => min x g | none => g)) none with
  | some g => if 2 ^ 24 < d ∨ now + 2 ^ 20 < g then none else some g
  | none => none

/-! ## The fork instructions -/

/-- An engine at the first header of its stream (R80). -/
def forkEngine (ent : Word) (pcc : Nat) : EngSt := { hdrPc := ent, ended := ent = 0#64, busyTo := pcc + 2, hdrAt := pcc + 2 }

namespace State

/-- LIVE of the code object of a core's task (R100). -/
def liveOf (s : State) (c : Nat) : Nat := ((s.codeOf (s.crCode (s.core c).crid)).map CodeObj.live).getD 16

/-- The effect of FORK (R80). -/
def startFork (s : State) (c : Nat) (e1 e2 e3 : Word) : State :=
  s.modCore c fun k =>
    ({ k with
      fe := forkEngine e1 s.pcc, ma := forkEngine e2 s.pcc, dr := forkEngine e3 s.pcc
      vrb := 0#4, prb := 0#3, live := BitVec.ofNat 5 (s.liveOf c), forkOut := true, forkStall := none } : Core).buryDead k

/-- The entries of a fork table from entry `n` on (R80). -/
def forkTable (s : State) (c a : Nat) : Nat → List Word → (List Word → State) → State
  | 0, got, cont => cont got
  | n + 1, got, cont =>
    s.viewRead c a 8 fun bs =>
      let ent := BitVec.ofNat 64 (leNat bs)
      if ent.toNat % 4 ≠ 0 then s.raiseCt c FCode.align 0 ent else forkTable s c (a + 8) n (got ++ [ent]) cont

end State

/-- FORK (R80). -/
def execFork (a : BitVec 5) (s : State) : Host.Outcome State Fault Refusal :=
  ctOnly (.fork a) (fun c s =>
    let x := s.rx a
    if (s.core c).forkOut then s.ctIllop c 0x24
    else if x.toNat % 8 ≠ 0 then s.raiseCt c FCode.align 0 x
    else
      s.forkTable c x.toNat 3 [] fun es =>
        (s.startFork c (nth 0#64 es 0) (nth 0#64 es 1) (nth 0#64 es 2)).step4) s

/-- May RDV complete (R81): every stream ended, every section retired, the issue queue empty? -/
def rdvReady (k : Core) : Bool :=
  engines.all (fun e => (k.eng e).ended && (k.eng e).tracks.isEmpty && (k.eng e).redo.isEmpty) && k.mq.isEmpty

namespace State

/-- The fork ends by RDV (R81): FORKS is counted and the booking ends (R87). -/
def joinFork (s : State) (c : Nat) : State :=
  (s.modCore c fun k => { k with forkOut := false, forkStall := none
                                 forks := if k.forks = 0xFFFF#16 then k.forks else k.forks + 1#16 }).dropBooking c

/-- The fork ends by ABORTE (R82). -/
def killFork (s : State) (c : Nat) : State := s.modCore c fun k => { k with forkOut := false, forkStall := none }

end State

/-- RDV (R81). -/
def execRdv (s : State) : Host.Outcome State Fault Refusal :=
  ctOnly .rdv (fun c s =>
    let k := s.core c
    if !k.forkOut then s.step4
    else if rdvReady k then (s.joinFork c).step4
    else s.waitAt c .rdv 0#5 0#5 0#5) s

/-- RDV_COMPLETE (R81). -/
def execRdvComplete (s : State) : Host.Outcome State Fault Refusal :=
  let c := s.unit
  match s.waiting c .rdv with
  | none => .next s
  | some _ => .next (if rdvReady (s.core c) then (s.joinFork c).modCore c Core.retire else s)

/-- ABORTE (R82): power leave is released at once.  The engines may still issue in its own clk: it retires in it only where they have no word
to issue and none in flight. -/
def execAborte (s : State) : Host.Outcome State Fault Refusal :=
  ctOnly .aborte (fun c s =>
    if !(s.core c).forkOut then s.step4
    else if s.quietNow c then ((s.abortEngines c).killFork c).step4
    else (s.dropLeave c).waitAt c .aborte 0#5 0#5 0#5) s

namespace State

/-- The engines of a core stop, if they have not stopped yet (R82). -/
def stopFork (s : State) (c : Nat) : State := if s.aborted c then s else s.abortEngines c

end State

/-- ABORTE_RETIRE (R82): from the clk after the ABORTE the engines stand stopped, and it retires when nothing of the fork remains in
flight. -/
def execAborteRetire (s : State) : Host.Outcome State Fault Refusal :=
  let c := s.unit
  match s.waiting c .aborte with
  | none => .next s
  | some w =>
    if s.pcc ≤ w.since then .next s
    else
      let s1 := s.stopFork c
      .next (if (s1.core c).flying then s1 else (s1.killFork c).modCore c Core.retire)

/-- PLEAVE (R87, R452). -/
def execPleave (a d : BitVec 5) (s : State) : Host.Outcome State Fault Refusal :=
  ctOnly (.pleave a d) (fun c s =>
    let x := (s.rx a).toNat
    let dur := x % 2 ^ 32
    if x / 2 ^ 32 ≠ 0 then s.ctIllop c 0x26
    else
      let s1 := s.dropBooking c
      if dur = 0 ∨ !(s.core c).forkOut then s1.done d 0#64
      else
        let die := c / 256
        let g := s1.gov die
        let r := if 2 ≤ s1.therm then none else bookGrant (g.books.map (·.2)) g.gbook s1.pcc dur
        match r with
        | none => s1.done d 0#64
        | some t => (s1.setGov die { g with books := g.books ++ [(c, { grant := t, dur := dur })] }).done d (BitVec.ofNat 64 t)) s

/-- The word that SECQ reads (R83). -/
def secqWord (forkOut : Bool) (g : EngSt) : Word :=
  g.mkv ++ 0#12 ++ BitVec.ofBool g.held ++ BitVec.ofBool g.fault.v ++ BitVec.ofBool g.ended ++ BitVec.ofBool forkOut ++ g.retired

/-- SECQ (R83). -/
def execSecq (e : BitVec 2) (d : BitVec 5) (s : State) : Host.Outcome State Fault Refusal :=
  ctOnly (.secq e d) (fun c s =>
    match engOf e.toNat with
    | none => s.ctIllop c 0x26
    | some q => s.done d (secqWord (s.core c).forkOut ((s.core c).eng q))) s

/-- GSET (R88). -/
def execGset (g : BitVec 4) (a : BitVec 5) (s : State) : Host.Outcome State Fault Refusal :=
  ctOnly (.gset g a) (fun c s =>
    (s.modCore c fun k => { k with gNow := fillAt 0#2 k.gNow g.toNat (if s.rx a = 0#64 then 2#2 else 3#2) }).step4) s

/-- GCLR (R88). -/
def execGclr (g : BitVec 4) (s : State) : Host.Outcome State Fault Refusal :=
  ctOnly (.gclr g) (fun c s => (s.modCore c fun k => { k with gNow := fillAt 0#2 k.gNow g.toNat 0#2 }).step4) s

/-- GRD (R88). -/
def execGrd (g : BitVec 4) (d : BitVec 5) (s : State) : Host.Outcome State Fault Refusal :=
  ctOnly (.grd g d) (fun c s => s.done d ((nth 0#2 (s.core c).gNow g.toNat).zeroExtend 64)) s

/-- The record of sequencer `e` of a core, with its number in ENG (R37). -/
def recordBits (k : Core) (e : Nat) : BitVec 128 :=
  match engOf e with
  | none => k.ct.fault.bits 0
  | some q => (k.eng q).fault.bits e

/-- FAULTRD (R85). -/
def execFaultrd (h : BitVec 1) (e : BitVec 2) (d : BitVec 5) (s : State) : Host.Outcome State Fault Refusal :=
  ctOnly (.faultrd h e d) (fun c s => s.done d ((recordBits (s.core c) e.toNat).extractLsb' (64 * h.toNat) 64)) s

/-- The engine after RESUME (R84): the words kept since the record was set come first, the recorded one at their head, then what an
earlier RESUME had left to issue again. -/
def resumeEngine (g : EngSt) (pcc : Nat) : EngSt :=
  let g := if g.held then g.release else g
  if !g.fault.v then g
  else
    let late := g.fault.late
    { g with
      fault := { g.fault with v := false, more := false }
      redo := g.kept ++ g.redo
      kept := []
      missed := if late then [] else g.missed
      stampBase :=
        if late && g.fault.code == BitVec.ofNat 8 FCode.schedmiss && g.inSec && g.secNum == g.fault.sec then pcc + 64
        else g.stampBase }

/-- RESUME (R84). -/
def execResume (e : BitVec 2) (s : State) : Host.Outcome State Fault Refusal :=
  ctOnly (.resume e) (fun c s =>
    match engOf e.toNat with
    | none => s.ctIllop c 0x26
    | some q => (s.modEng c q fun g => resumeEngine g s.pcc).step4) s

/-- SVC (R86). -/
def execSvc (n : BitVec 12) (s : State) : Host.Outcome State Fault Refusal :=
  ctOnly (.svc n) (fun c s =>
    let k := s.core c
    if k.ct.sup then s.ctIllop c 0x25 else s.enterService c 26#64 (n.zeroExtend 64) k.ct.pc) s

/-! ## Sections -/

namespace State

/-- Is a wait met by a retired count (R17)? -/
def waitMet (count w : Half) : Bool := w == 0xFFFF#16 || decide ((count - w).toNat < 2 ^ 15)

/-- The engines that the waits of a header name (R17). -/
def waitsOn : Eng → Eng × Eng
  | .fe => (.ma, .dr)
  | .ma => (.fe, .dr)
  | .dr => (.fe, .ma)

/-- The detail of a header that breaks R22 for an engine that requires section number `sec`. -/
def headerFault (h : Word) (sec : Half) : Option Nat :=
  if fld h 50 14 = 0 then some 3
  else if h.extractLsb' 32 16 ≠ sec then some 4
  else if h.getLsbD 48 ∧ !h.getLsbD 49 then some 5
  else none

/-- Are the waits of a header met, now or already before (R17)? -/
def waitsNow (k : Core) (e : Eng) (h : Word) : Bool × Bool :=
  let g := k.eng e
  (g.waMet || waitMet (k.eng (waitsOn e).1).retiredVis (h.extractLsb' 16 16),
   g.wbMet || waitMet (k.eng (waitsOn e).2).retiredVis (h.extractLsb' 0 16))

/-- The header an engine stands at. -/
def headerAt (s : State) (c : Nat) (e : Eng) : Option Word :=
  (s.fetch c ((s.core c).eng e).hdrPc.toNat 8).map fun b => BitVec.ofNat 64 (leNat b)

/-- May an engine look at a header: a stream that goes on, in no section, with no fault, stop or hold (R18, R36, R78)? -/
def atHeader (k : Core) (e : Eng) (pcc : Nat) : Bool :=
  let g := k.eng e
  k.forkOut && !g.inSec && !g.ended && !g.fault.v && !g.stopped && !g.held && decide (g.hdrAt ≤ pcc) && g.redo.isEmpty

/-- WATERMARK_HOLD (R78). -/
def holdEngine (s : State) (c : Nat) (e : Eng) : State := s.modEng c e fun g => { g with held := true, wmLeft := none }

/-- The section starts (R16, R18, R28). -/
def beginSection (s : State) (c : Nat) (e : Eng) (h : Word) (token : Bool) : State :=
  s.modEng c e fun g =>
    { g with
      inSec := true, hdr := h, slot := 0, cmds := [], hold := .none, stampBase := s.pcc + 64, leaveReq := none, leaveOk := false, reLeave := false
      tracks := g.tracks ++ [{ num := g.secNum, token := token }] }

/-- An engine that stands at a header it cannot start in this clk: it holds there at its watermark (R78). -/
def cannotStart (s : State) (c : Nat) (e : Eng) : State := if ((s.core c).eng e).wmLeft.isSome then s.holdEngine c e else s

/-- What an engine does at a header (R17, R18, R22, R31, R39): the header is fetched and checked, its waits are looked at, leave is
asked for, and the section starts; its first word may issue in the same clk. -/
def enterSection (s : State) (c : Nat) (e : Eng) : State :=
  match s.headerAt c e with
  | none => s.raiseEng c e FCode.fetcherr 0 noElem
  | some h =>
    let k := s.core c
    let g := k.eng e
    match headerFault h g.secNum with
    | some d => s.raiseEng c e FCode.illop d noElem
    | none =>
      let (wa, wb) := waitsNow k e h
      let s1 := s.modEng c e fun g => { g with waMet := wa, wbMet := wb }
      if !(wa && wb) then s1.cannotStart c e
      else
        let go := fun (s : State) (token : Bool) => { s.beginSection c e h token with turns := .seq c (.eng e) :: s.turns }
        if !h.getLsbD 49 || s1.bookingRuns c e then go s1 false
        else
          let s2 := s1.askLeave c e
          if ((s2.core c).eng e).leaveOk then go s2 true else s2.cannotStart c e

end State

/-- SECTION_START (R18). -/
def execSectionStart (e : Eng) (s : State) : Host.Outcome State Fault Refusal :=
  let c := s.unit
  .next (if State.atHeader (s.core c) e s.pcc then s.enterSection c e else s)

/-- SECTION_RETIRE (R16, R19, R31): the front section has retired, its number becomes the count, and its token is given back. -/
def execSectionRetire (e : Eng) (s : State) : Host.Outcome State Fault Refusal :=
  let c := s.unit
  let g := (s.core c).eng e
  match g.tracks with
  | t :: rest =>
    if State.frontDone g then
      let s1 := s.modEng c e fun g => { g with tracks := rest, retired := t.num }
      .next (if t.token then s1.freeToken c e else s1)
    else .next s
  | [] => .next s

/-- GOVERNOR_GRANT (R451): the requests that can be granted in this clk. -/
def execGovernorGrant (s : State) : Host.Outcome State Fault Refusal :=
  let d := s.unit
  .next (s.grantLeave d (s.gov d).reqs.length)

/-- WATERMARK_HOLD (R78): an engine in service that has issued its 256 slots, or stands at a header it cannot start. -/
def execWatermarkHold (e : Eng) (s : State) : Host.Outcome State Fault Refusal :=
  let c := s.unit
  let g := (s.core c).eng e
  .next (if g.wmLeft = some 0 ∧ !g.fault.v ∧ !g.ended then s.holdEngine c e else s)

/-- Is an engine held at a header whose waits are unmet (R18, R23)? -/
def heldAtHeader (s : State) (c : Nat) (e : Eng) : Bool :=
  let k := s.core c
  State.atHeader k e s.pcc &&
    (match s.headerAt c e with
     | none => false
     | some h => (State.headerFault h (k.eng e).secNum).isNone && !((State.waitsNow k e h).1 && (State.waitsNow k e h).2))

/-- Can the fork go no further (R23)? -/
def forkStuck (s : State) (c : Nat) : Bool :=
  let k := s.core c
  k.forkOut && !k.anyFault && !k.flying &&
    engines.all (fun e =>
      let g := k.eng e
      (g.ended || heldAtHeader s c e) && g.retired == g.retiredVis && g.redo.isEmpty && !State.frontDone g) &&
    engines.any fun e => heldAtHeader s c e

/-- FORK_STALL_DETECT (R23): every engine held at a header raises ILLOP with detail 1. -/
def execForkStallDetect (s : State) : Host.Outcome State Fault Refusal :=
  let c := s.unit
  if forkStuck s c then
    .next (engines.foldl (fun u e => if heldAtHeader s c e then u.raiseEng c e FCode.illop 1 noElem else u) s)
  else .next s

/-- The guard slot that a held word or a held GWAIT waits for. -/
def heldSlot (s : State) (c : Nat) (e : Eng) : Option (BitVec 4) :=
  let g := (s.core c).eng e
  if g.hold = .guard then
    (s.fetch c (g.hdrPc.toNat + 8 + 12 * g.slot) 12).map fun b => (Guard.ofBits (BitVec.ofNat 96 (leNat b))).gs
  else if g.hold = .gwait then
    match headInstr s c e with
    | some (.gwait _ f) => some (f.imm.truncate 4)
    | _ => none
  else none

/-- Is an engine held at a guarded word or a GWAIT on a slot that is unresolved, and that no GSET committed before can resolve (R24,
R140)? -/
def State.heldUnresolved (s : State) (c : Nat) (e : Eng) : Bool :=
  let k := s.core c
  match heldSlot s c e with
  | some g => nth 0#2 k.gNow g.toNat == 0#2 && nth 0#2 k.gPrev g.toNat == 0#2 && nth 0#2 k.gSeen g.toNat == 0#2
  | none => false

/-- Does the control sequencer wait as RDV does: in RDV, or in TEXIT with a fork outstanding (R81, R120)? -/
def joining (s : State) (c : Nat) : Bool := (s.waiting c .rdv).isSome || ((s.waiting c .texit).isSome && (s.core c).failed.isNone)

/-- Is an engine held on a slot that no GSET can resolve any more, the control sequencer being in RDV or waiting as RDV does (R26,
R81, R120)? -/
def guardStuck (s : State) (c : Nat) (e : Eng) : Bool :=
  let k := s.core c
  k.forkOut && joining s c && !(k.eng e).fault.v &&
    s.heldUnresolved c e

/-- GUARD_STALL_DETECT (R26). -/
def execGuardStallDetect (e : Eng) (s : State) : Host.Outcome State Fault Refusal :=
  let c := s.unit
  .next (if guardStuck s c e then s.raiseEng c e FCode.illop 2 noElem else s)

/-- SERVICE_ENTRY_ENGINE_FAULT (R75). -/
def execServiceEntryEngineFault (s : State) : Host.Outcome State Fault Refusal :=
  let c := s.unit
  let k := s.core c
  .next (if k.anyFault && !k.ct.sup && k.phase == .running then s.enterService c 24#64 0#64 k.ct.pc else s)

end Sys2Proof.Machine
end

