-- ==== Sys2Proof/Machine/Fetch.lean ====
section
/-!
DEFINITION. The fetch engine (06): stream descriptors (R183 to R187), tiles and their scales (R185, R205), the words of R209 and the
completion of loads (R218).
-/

namespace Sys2Proof.Machine

/-! ## Stream descriptors (R183) -/

namespace Desc

def w (d : List Word) (i : Nat) : Word := nth 0#64 d i
def handle (d : List Word) : Word := w d 0
def bound (d : List Word) : Bool := handle d != 0#64
def ver (d : List Word) : Nat := fld (w d 1) 32 32
def pl (d : List Word) : Nat := fld (w d 1) 27 5
def rax (d : List Word) : Nat := fld (w d 1) 24 3
def cax (d : List Word) : Nat := fld (w d 1) 21 3
def pad (d : List Word) : Bool := (w d 1).getLsbD 20
def tr (d : List Word) : Nat := fld (w d 1) 13 7
def tc (d : List Word) : Nat := fld (w d 1) 6 7
def draft (d : List Word) : Bool := (w d 1).getLsbD 5
/-- The draft was discarded (log entry 21). -/
def gone (d : List Word) : Bool := (w d 1).getLsbD 0
def cur (d : List Word) : List Nat :=
  [fld (w d 2) 0 32, fld (w d 2) 32 32, fld (w d 3) 0 32, fld (w d 3) 32 32, fld (w d 4) 0 32]
def sh (d : List Word) : Word := w d 5
def sc (d : List Word) : Nat := fld (w d 6) 32 32
def spt (d : List Word) : Nat := fld (w d 6) 16 16
def sver (d : List Word) : Nat := fld (w d 7) 32 32

/-- The version that accesses through the descriptor name (R187). -/
def sel (d : List Word) : VSel := if gone d then .gone else if draft d then .draft else .ver (ver d)

/-- The index tuple of tile element (r, c) (R185). -/
def tuple (d : List Word) (r c : Nat) : List Nat :=
  if rax d = cax d then modAt (· + (r + c)) (cur d) (rax d) else modAt (· + c) (modAt (· + r) (cur d) (rax d)) (cax d)

/-- The tuples of a tile in the order TC·r + c. -/
def tuples (d : List Word) : List (List Nat) := tab (tr d * tc d) fun n => tuple d (n / tc d) (n % tc d)

/-- Is the element beyond an extent along RAX or CAX (R185)? -/
def beyond (d : List Word) (l : Layout) (t : List Nat) : Bool :=
  decide (l.e (rax d) ≤ nth 0 t (rax d)) || decide (l.e (cax d) ≤ nth 0 t (cax d))

/-- Are all of an element's indices within the extents (R205)? -/
def within (l : Layout) (t : List Nat) : Bool := (List.range l.rank).all fun p => decide (nth 0 t p < l.e p)

/-- Does the element read as zero under PAD? -/
def zeroed (d : List Word) (l : Layout) (t : List Nat) : Bool := pad d && beyond d l t

/-- Does an image of R210 break R183? -/
def imageBad (d : List Word) : Bool :=
  fld (w d 1) 0 5 != 0 || fld (w d 4) 32 32 != 0 || w d 5 != 0#64 || w d 6 != 0#64 || w d 7 != 0#64 ||
  pl d == 1 || decide (25 < pl d) || tr d == 0 || decide (64 < tr d) || tc d == 0 || decide (64 < tc d) ||
  (draft d && ver d != 0) || (rax d == cax d && tr d != 1 && tc d != 1)

end Desc

namespace Core

/-- The state of a descriptor; all zero when unbound (R43). -/
def desc (k : Core) (n : Nat) : List Word := Tbl.get (List.replicate 8 0#64) k.sd n

def setDesc (k : Core) (n : Nat) (d : List Word) : Core := { k with sd := Tbl.put k.sd n d }

/-- The frame view of the task (R97). -/
def frame (k : Core) : Option View := k.views.find? fun v => v.kind == .frame

end Core

/-- The number of the descriptor that a DX word names (R52). -/
def DrStore.sdOf (x : DrStore) : Nat := fld x.w 62 4

/-- Do words in flight still use a descriptor's binding (R184)? -/
def descInUse (k : Core) (n : Nat) : Bool :=
  k.loads.any (fun x => x.f.sd.toNat == n) || k.stores.any fun x => x.sdOf == n

/-! ## Fields and forms (R209) -/

/-- The fields of an ST word that a form uses. -/
structure StUse where
  sd : Bool := false
  slot : Bool := false
  vd : Bool := false
  vi : Bool := false
  mask : Bool := false
  cb : Bool := false
  sub : Bool := false
  imm : Bool := false

/-- Does the word set a field that its form does not use (R47)? -/
def StUse.breaks (u : StUse) (f : StWord) : Bool :=
  f.z32 != 0#15 || (!u.sd && f.sd != 0#4) || (!u.slot && f.slot != 0#6) || (!u.vd && f.vd != 0#5) || (!u.vi && f.vi != 0#5) ||
  (!u.mask && (f.pm != 0#4 || f.me)) || (!u.cb && f.cb != 0#4) || (!u.sub && f.sub != 0#4) || (!u.imm && f.imm != 0#32)

/-- The checks of ISSUE on the fields alone: 0x0011, then 0x0012. -/
def StUse.illop (u : StUse) (f : StWord) (range : Bool) : Option Nat :=
  if u.breaks f then some 0x11 else if range then some 0x12 else none

/-- Kind of a register load, and whether its VD breaks R206. -/
def loadKind (f : StWord) : Nat := f.sub.toNat % 4
def badDest (f : StWord) : Bool := (loadKind f == 2 && decide (16 ≤ f.vd.toNat)) || (loadKind f == 3 && f.vd.toNat % 2 == 1)

/-- Does a kind accept a format (R206)? -/
def kindTakes (kind f : Nat) : Bool :=
  match kind with
  | 0 => planeFmt f
  | 1 => f == 0x00 || f == 0x01 || f == 0x02 || f == 0x03 || f == 0x04 || f == 0x05
  | 2 => planeFmt f || f == 0x30 || f == 0x31
  | _ => f == 0x05 || f == 0x06

/-- Does a form accept a format (R204)? -/
def formTakes (form f : Nat) : Bool :=
  match form with
  | 0 => fmtBits f != 0
  | 3 => isSmb f
  | 5 | 6 | 7 => planeFmt f || f == 0x30 || f == 0x31
  | _ => planeFmt f

/-- Is a tile's shape outside the limits that do not depend on the object (R204)? -/
def shapeBad (form : Nat) (d : List Word) : Bool :=
  match form with
  | 0 => false
  | 1 | 4 => decide (32 < Desc.tr d) || decide (64 < Desc.tc d)
  | 3 => decide (16 < Desc.tr d) || Desc.tc d != 32
  | _ => decide (16 < Desc.tr d) || decide (32 < Desc.tc d)

/-- Is it outside those that do? -/
def shapeBadFor (form : Nat) (d : List Word) (l : Layout) : Bool :=
  let rows := Desc.cax d + 1 != l.rank || nth 0 (Desc.cur d) (Desc.cax d) % 32 != 0
  match form with
  | 0 =>
    decide (0x1FF0 < rawEnd l.fmt (Desc.tr d * Desc.tc d)) || ((isMx l.fmt || isSmb l.fmt) && (rows || Desc.tc d % 32 != 0))
  | 3 => rows
  | _ => false

/-- The word that an engine is issuing. -/
def State.issuing (s : State) (c : Nat) (e : Eng) : BitVec 96 :=
  let g := (s.core c).eng e
  match g.redo with
  | x :: _ => x.w0
  | [] =>
    match s.fetch c (g.hdrPc.toNat + 8 + 12 * g.slot) 12 with
    | some b => BitVec.ofNat 96 (leNat b)
    | none => 0#96

/-- The descriptor that a load reads at its issue: of a load executed again after RESUME, the one that it read first (R186, R219). -/
def State.loadDesc (s : State) (c : Nat) (f : StWord) : List Word :=
  match (s.core c).fe.redo with
  | x :: _ => x.desc.getD ((s.core c).desc f.sd.toNat)
  | [] => (s.core c).desc f.sd.toNat

/-! ## Issue of loads -/

/-- Registers that a load in flight writes. -/
def FeLoad.dests (x : FeLoad) : List Nat :=
  if x.op = 0 ∨ loadKind x.f = 2 then [] else if loadKind x.f = 3 then [x.f.vd.toNat, x.f.vd.toNat + 1] else [x.f.vd.toNat]

/-- Must the word wait for a load in flight whose effect it sees (R20): its index register, its mask, the scale cursor? -/
def loadHazard (k : Core) (op : Nat) (f : StWord) : Bool :=
  k.loads.any fun x =>
    (decide (2 ≤ op) && x.dests.contains f.vi.toNat) || (f.me && x.op == 3 && x.f.pm == f.pm) ||
    (x.f.sd == f.sd && Desc.sh (k.desc f.sd.toNat) != 0#64 && decide (x.op < 2))

/-- The banks that a register load names (R206, R244). -/
def loadCold (k : Core) (op : Nat) (f : StWord) : Bool :=
  op != 0 &&
    ((if loadKind f = 2 then !k.awakeM f.vd.toNat else !k.awakeV f.vd.toNat) || (decide (2 ≤ op) && !k.awakeV f.vi.toNat))

/-- The elements of the index register that a gather consumes (R207). -/
def usedIdx (f : StWord) (d : List Word) (act : List Bool) : List Nat :=
  if f.sub.getLsbD 2 then
    (List.range 16).filterMap fun r => if (List.range (Desc.tc d)).any fun c => nth false act (64 * r + c) then some (64 * r) else none
  else (act.zip (List.range 1024)).filterMap fun e => if e.1 then some e.2 else none

/-- The lowest active element of a gather whose index is poisoned (R207, R208). -/
def poisonedIdx (k : Core) (f : StWord) (d : List Word) (act : List Bool) : Option Nat :=
  (usedIdx f d act).findSome? fun j =>
    if k.deadV f.vi.toNat || !k.poisV f.vi.toNat j then none
    else if !f.sub.getLsbD 2 then some j
    else ((List.range (Desc.tc d)).find? fun c => nth false act (j + c)).map fun c => j + c

/-! ## Reading the elements of a load -/

/-- Elements read, each with its code and scale and, of an SMB object, its block; or the first fault, with its element and tuple. -/
inductive Got where
  | ok (l : List (Nat × Item × Nat))
  | bad (elem : Nat) (f : Flt) (t : List Nat)

/-- Reads the cells of a load in their order; a cell without a tuple reads as zero. -/
def readCells (s : State) (pr : Principal) (h : Word) (l : Layout) (v : VSel) (own : Bool) : List (Nat × Option (List Nat)) → Got
  | [] => .ok []
  | (i, none) :: t =>
    match readCells s pr h l v own t with
    | .ok r => .ok ((i, Item.zero, 0) :: r)
    | .bad e f u => .bad e f u
  | (i, some x) :: t =>
    match s.readElem pr h l x v own with
    | .bad f => .bad i f x
    | .ok y =>
      match readCells s pr h l v own t with
      | .ok r => .ok ((i, y.1, y.2) :: r)
      | .bad e f u => .bad e f u

/-- The block of R189 or R191 that holds an element: its shard, and its number there. -/
def blockOf (l : Layout) (t : List Nat) : Nat × Nat :=
  let (sh, t') := l.shard t
  (sh, if l.tord = 3 ∧ isMx l.fmt then scaleByte l (l.shardExt sh) t' else placeIndex l (l.shardExt sh) t' / 32)

/-- The blocks that hold elements of the tuples, in order of first element (R205). -/
def blocksOf (l : Layout) (ts : List (List Nat)) : List (Nat × Nat) :=
  ts.foldl (fun acc t => let b := blockOf l t; if acc.contains b then acc else acc ++ [b]) []

/-- The DESYNC detail of a load's separate scales, from the number of blocks (R205). -/
def desyncOf (d : List Word) (nb : Nat) (e0 : Option Nat) : Option Nat :=
  if nb ≠ Desc.spt d then some 1
  else
    match e0 with
    | some e => if e < Desc.sc d + Desc.spt d then some 2 else none
    | none => none

/-- The scales of a tile from the scale object, or its fault. -/
def readScales (s : State) (pr : Principal) (d : List Word) (l : Layout) : Nat → Rs (List Nat)
  | 0 => .ok []
  | n + 1 =>
    match readScales s pr d l n with
    | .bad f => .bad f
    | .ok r =>
      match s.readElem pr (Desc.sh d) l [Desc.sc d + n] (.ver (Desc.sver d)) false with
      | .bad f => .bad f
      | .ok x => .ok (r ++ [x.1.code])

/-- Can a load use a separate scale (R205)? -/
def takesScale (x : FeLoad) (f : Nat) : Bool :=
  if x.op = 0 then (if x.f.sub.toNat = 0 then isMx f else x.f.sub.toNat != 3)
  else if x.op = 1 then loadKind x.f == 0 || loadKind x.f == 2
  else false

/-- What a tile load reads: its elements with their scales, or a fault. -/
inductive TileGot where
  | ok (l : List (Nat × Item × Nat))
  | desync (detail : Nat)
  | elem (i : Nat) (f : Flt) (t : List Nat)
  | scale (f : Flt)

/-- Reads the tile at the cursor (R185, R205, R211). -/
def readTile (s : State) (pr : Principal) (x : FeLoad) (l : Layout) : TileGot :=
  let d := x.desc
  let ts := Desc.tuples d
  let cells := (List.range ts.length).zip (ts.map fun t => if Desc.zeroed d l t then none else some t)
  let h := Desc.handle d
  if Desc.sh d = 0#64 then
    match readCells s pr h l (Desc.sel d) true cells with
    | .ok r => .ok r
    | .bad i f t => .elem i f t
  else if !takesScale x l.fmt then .desync 3
  else
    let inside := ts.filter (Desc.within l)
    let bs := blocksOf l inside
    let sl := s.lookupEl pr (Desc.sh d) fun _ => [Desc.sc d]
    match desyncOf d bs.length (match sl with
      | .ok m => some (m.e 0)
      | .bad _ => none) with
    | some n => .desync n
    | none =>
      match readCells s pr h l (Desc.sel d) false cells with
      | .bad i f t => .elem i f t
      | .ok r =>
        match sl with
        | .bad f => .scale f
        | .ok m =>
          match readScales s pr d m (Desc.spt d) with
          | .bad f => .scale f
          | .ok sc =>
            .ok (List.zipWith (fun (e : Nat × Item × Nat) t =>
              if Desc.beyond d l t then e
              else
                match (bs.zip sc).find? fun b => b.1 = blockOf l t with
                | some b => (e.1, { e.2.1 with sc := some b.2 }, e.2.2)
                | none => e) r ts)

/-- The slot that an SLOAD writes (R202). -/
def loadSlot (x : FeLoad) (f : Nat) (els : List (Item × Nat)) : Slot :=
  let d := x.desc
  let form := x.f.sub.toNat
  let groups := chunks 32 128 els
  if form = 0 then
    rawSlot f (Desc.tr d) (Desc.tc d) (if isSmb f then groups.map fun g => (nth (Item.zero, 0) g 0).2 else els.map (·.1.code))
      (groups.map fun g => ((g.findSome? fun e => e.1.sc).getD 0))
  else if form = 3 then smbSlot f (Desc.tr d) (groups.map fun g => (nth (Item.zero, 0) g 0).2)
  else formSlot form f (Desc.tr d) (Desc.tc d) (planesOf form f (Desc.pl d)) (els.map (·.1))

/-- An element converted to a destination register (R206): its first and second word. -/
def convElem (kind f : Nat) (x : Item) : Nat × Nat :=
  let int : Int :=
    match intFmt f with
    | some (n, sg) => if sg then signExt x.code n else (x.code % 2 ^ n : Nat)
    | none => (x.code : Int)
  match kind with
  | 0 => ((rne32 (x.val f)).toNat, 0)
  | 1 => (imod int (2 ^ 32), 0)
  | 2 =>
    if x.sc.isSome then ((rne32 (x.val f)).toNat, (rne32 (x.var f)).toNat)
    else if f = 0x30 then (x.code % 2 ^ 32, x.code / 2 ^ 32)
    else if f = 0x31 then (x.code % 2 ^ 16 * 2 ^ 16, x.code / 2 ^ 16 * 2 ^ 16)
    else ((rne32 (x.val f)).toNat, 0)
  | _ => (imod int (2 ^ 64) % 2 ^ 32, imod int (2 ^ 64) / 2 ^ 32)

/-- Writes the destination of a register load; a dead register is not written (R206, R242). -/
def Core.putLoad (k : Core) (x : FeLoad) (els : List (Option (Nat × Nat))) : Core :=
  let n := x.f.vd.toNat
  let put := fun (k : Core) (p : Nat) (l : List (Option Nat)) =>
    if x.drop.contains p then k else k.writeV p (l.map fun o => o.map (BitVec.ofNat 32))
  match loadKind x.f with
  | 2 => k.writeM n (els.map fun o => o.map fun e => (BitVec.ofNat 32 e.1, BitVec.ofNat 32 e.2))
  | 3 => put (put k n (els.map fun o => o.map (·.1))) (n + 1) (els.map fun o => o.map (·.2))
  | _ => put k n (els.map fun o => o.map (·.1))

/-- The cells of a gather: active elements with their tuples, none for one that is written with zero (R207). -/
def gatherCells (x : FeLoad) (l : Layout) : List (Nat × Option (List Nat)) :=
  let d := x.desc
  let l0 := linear l.rank l.ext (Desc.cur d)
  let a := x.idx.toArray
  (List.range 1024).filterMap fun i =>
    if !x.mask.getLsbD i then none
    else if !x.f.sub.getLsbD 2 then some (i, some (unlinear l.rank l.ext (l0 + a.getD i 0)))
    else if i % 64 < Desc.tc d then some (i, some (unlinear l.rank l.ext (l0 + a.getD (i / 64 * 64) 0 + i % 64)))
    else some (i, none)

/-- The tuple of the first element that a load reads. -/
def firstTuple (x : FeLoad) (l : Layout) : List Nat :=
  if x.op < 2 then Desc.tuple x.desc 0 0 else ((gatherCells x l).findSome? (·.2)).getD []

/-- The first element that a load would read when its handle cannot be looked up. -/
def firstRead (x : FeLoad) : Option Nat :=
  if x.op < 2 then some 0
  else (List.range 1024).find? fun i => x.mask.getLsbD i && (!x.f.sub.getLsbD 2 || decide (i % 64 < Desc.tc x.desc))

/-- The fault of the element of a gather whose index is poisoned: of the checks, those that no index decides come first (R38, R150). -/
def State.cutFault (s : State) (c : Nat) (x : FeLoad) (l : Layout) : Flt :=
  let h := Desc.handle x.desc
  match s.checkRights (s.principal c) h l Right.read false with
  | some f => f
  | none => (s.checkVer (s.principal c) (Handle.key h) l (Desc.sel x.desc)).getD ⟨FCode.uncorr, 0⟩

/-- Is UNCORR of the poisoned index the fault that a gather reports, so that it is found at issue: no DESYNC comes first, no element below
faults, and no SGATHF commits one (R36, R38, R205, R208)? -/
def State.cutAtIssue (s : State) (c : Nat) (x : FeLoad) : Bool :=
  let pr := s.principal c
  let h := Desc.handle x.desc
  Desc.sh x.desc == 0#64 &&
    (match s.lookup pr h with
     | .bad _ => false
     | .ok l =>
       let below := (gatherCells x l).filter fun e => e.1 < x.cut
       s.cutFault c x l == ⟨FCode.uncorr, 0⟩ && (x.op != 3 || below.isEmpty) &&
         (match readCells s pr h l (Desc.sel x.desc) true below with
          | .ok _ => true
          | .bad _ _ _ => false))

/-- The issue of SLOAD, SLOADV, SGATH and SGATHF (R211 to R213, R218): the word-level checks that the object decides come last; a
handle that cannot be looked up is an element fault, found later. -/
def issueLoad (op : Nat) (f : StWord) (c : Nat) (s : State) : Iss :=
  let k := s.core c
  let d := s.loadDesc c f
  let h := Desc.handle d
  let pr := s.principal c
  if 8 ≤ k.loads.length ∨ loadHazard k op f then .stall .none s
  else if (op = 0 ∧ shapeBad f.sub.toNat d) ∨ (op = 1 ∧ 16 < Desc.tr d) then .flt FCode.illop 0x32 noElem
  else
    let l := if Desc.bound d && s.walkReady pr h then (match s.lookup pr h with
      | .ok l => some l
      | .bad _ => none) else none
    let act := k.activeList f.me f.pm.toNat false
    match l with
    | some l =>
      if op = 0 ∧ shapeBadFor f.sub.toNat d l then .flt FCode.illop 0x32 noElem
      else if loadCold k op f then .flt FCode.regcold 0 noElem
      else if !(if op = 0 then formTakes f.sub.toNat l.fmt else kindTakes (loadKind f) l.fmt) then .flt FCode.fmtbad 1 noElem
      else go k d act
    | none =>
      if loadCold k op f then .flt FCode.regcold 0 noElem
      else if !Desc.bound d then .flt FCode.missobj 1 noElem
      else if !s.walkReady pr h then .stall .none s
      else go k d act
where
  go (k : Core) (d : List Word) (act : List Bool) : Iss :=
    let cut := if 2 ≤ op then (poisonedIdx k f d act).getD 1024 else 1024
    let g := k.fe.place
    let w := s.issuing c .fe
    let x : FeLoad :=
      { op := op, f := f, w := w, sec := g.1, widx := g.2, desc := d
        idx := if op < 2 then [] else if k.deadV f.vi.toNat then zeros else k.physV f.vi.toNat
        mask := BitVec.ofNat 1024 (ofBits act), cut := cut, drop := (List.range 32).filter k.deadV }
    if cut < 1024 && s.cutAtIssue c x then .flt FCode.uncorr 0 (elemNo cut)
    else .go ((s.launch c .fe).modCore c fun k => { k with loads := k.loads ++ [x] })

/-- The elements of a gather that a table of cells writes, from the cells read so far. -/
def gatherEls (x : FeLoad) (f lim : Nat) (r : List (Nat × Item × Nat)) : List (Option (Nat × Nat)) :=
  let conv := r.map fun e => (e.1, convElem (loadKind x.f) f e.2.1)
  let t := conv.foldl (fun (a : Array (Option (Nat × Nat))) e => a.setIfInBounds e.1 (some e.2)) (List.replicate 1024 (none : Option (Nat × Nat))).toArray
  (t.toList.zip (List.range 1024)).map fun e => if e.2 < lim then e.1 else none

namespace State

/-- A load has retired (R218): it leaves the list, and its section counts one word less. -/
def landLoad (s : State) (c : Nat) (x : FeLoad) : State :=
  (s.modCore c fun k => { k with loads := k.loads.drop 1 }).modEng c .fe fun g => landWord g x.sec

/-- A load has faulted (R36, R218): it commits nothing, and is kept. -/
def failLoad (s : State) (c : Nat) (x : FeLoad) (f : Flt) (elem : BitVec 32) : State :=
  let s := (s.modCore c fun k => { k with loads := k.loads.drop 1 }).modEng c .fe fun g => stickWord g x.sec
  s.raiseLate c .fe f.code f.detail elem 
    { sec := x.sec, widx := x.widx, w0 := x.w, w1 := 0#96, w2 := 0#96, desc := some x.desc }

/-- A load that commits moves the scale cursor, while the scale binding is the one it read (R205). -/
def stepScale (s : State) (c : Nat) (x : FeLoad) : State :=
  let n := x.f.sd.toNat
  s.modCore c fun k =>
    let d := k.desc n
    if Desc.sh x.desc = 0#64 ∨ Desc.sh d ≠ Desc.sh x.desc ∨ Desc.w d 7 ≠ Desc.w x.desc 7 then k
    else k.setDesc n (modAt (fun w => setFld w 32 32 (Desc.sc d + Desc.spt x.desc)) d 6)

/-- SLOAD and SLOADV, resolved (R211, R212). -/
def resolveTile (s : State) (c : Nat) (x : FeLoad) (l : Layout) : State :=
  let pr := s.principal c
  match readTile s pr x l with
  | .desync n => s.failLoad c x ⟨FCode.desync, n⟩ noElem
  | .elem i f t => (s.noteMiss (Desc.handle x.desc) l t (Desc.sel x.desc) f).failLoad c x f (elemNo i)
  | .scale f =>
    (match s.lookup pr (Desc.sh x.desc) with
      | .ok m => s.noteMiss (Desc.sh x.desc) m [Desc.sc x.desc] (.ver (Desc.sver x.desc)) f
      | .bad _ => s).failLoad c x f noElem
  | .ok els =>
    let s1 := (s.landLoad c x).stepScale c x
    if x.op = 0 then s1.modCore c fun k => { k with slots := Tbl.put k.slots x.f.slot.toNat (loadSlot x l.fmt (els.map (·.2))) }
    else
      let d := x.desc
      let kind := loadKind x.f
      let a := (els.map fun e => convElem kind l.fmt e.2.1).toArray
      s1.modCore c fun k => k.putLoad x (tab 1024 fun i =>
        if !x.mask.getLsbD i then none
        else if i / 64 < Desc.tr d ∧ i % 64 < Desc.tc d then some (a.getD (Desc.tc d * (i / 64) + i % 64) (0, 0))
        else some (0, 0))

/-- SGATH and SGATHF, resolved (R207, R208). -/
def resolveGather (s : State) (c : Nat) (x : FeLoad) (l : Layout) : State :=
  let pr := s.principal c
  let h := Desc.handle x.desc
  let v := Desc.sel x.desc
  let all := gatherCells x l
  let cells := all.filter fun e => e.1 < x.cut
  let commit := fun (s : State) (lim : Nat) (r : List (Nat × Item × Nat)) =>
    (s.landLoad c x).modCore c fun k => k.putLoad x (gatherEls x l.fmt lim r)
  if Desc.sh x.desc ≠ 0#64 then s.failLoad c x ⟨FCode.desync, 3⟩ noElem
  else
    match readCells s pr h l v true cells with
    | .ok r =>
      if x.cut = 1024 then commit s 1024 r
      else if x.op ≠ 3 ∨ cells = [] then s.failLoad c x (s.cutFault c x l) (elemNo x.cut)
      else (commit s x.cut r).modCore c fun k => k.writeP x.f.pm.toNat (BitVec.allOnes 1024 <<< x.cut) 0#1024
    | .bad i f t =>
      if x.op = 3 ∧ (cells.any fun e => decide (e.1 < i)) then
        match readCells s pr h l v true (cells.filter fun e => e.1 < i) with
        | .ok r =>
          (commit s i r).modCore c fun k =>
            k.writeP x.f.pm.toNat (BitVec.allOnes 1024 <<< i) 0#1024
        | .bad _ f t => (s.noteMiss h l t v f).failLoad c x f (elemNo i)
      else (s.noteMiss h l t v f).failLoad c x f (elemNo i)

/-- A load whose handle cannot be looked up: DESYNC with detail 3 where the form alone decides it (R205, R219), else the fault stands at the
first element it would read. -/
def resolveLost (s : State) (c : Nat) (x : FeLoad) (f : Flt) : State :=
  let form := if x.op = 0 then x.f.sub.toNat == 3 else decide (2 ≤ x.op) || loadKind x.f % 2 == 1
  if Desc.sh x.desc ≠ 0#64 ∧ form then s.failLoad c x ⟨FCode.desync, 3⟩ noElem
  else
    match firstRead x with
    | some i =>
      if x.op = 3 ∧ (List.range i).any (fun j => x.mask.getLsbD j) then
        (s.landLoad c x).modCore c fun k =>
          (k.putLoad x (tab 1024 fun j => if j < i ∧ x.mask.getLsbD j then some (0, 0) else none)).writeP x.f.pm.toNat
            (BitVec.allOnes 1024 <<< i) 0#1024
      else s.failLoad c x f (elemNo i)
    | none =>
      (s.landLoad c x).modCore c fun k =>
        k.putLoad x (tab 1024 fun j => if x.mask.getLsbD j then some (0, 0) else none)

/-- The oldest load of a core is resolved; it waits while an entry it needs is locked (R420). -/
def resolveLoad (s : State) (c : Nat) : State :=
  match (s.core c).loads with
  | [] => s
  | x :: _ =>
    let pr := s.principal c
    let h := Desc.handle x.desc
    if !s.walkReady pr h || (Desc.sh x.desc != 0#64 && !s.walkReady pr (Desc.sh x.desc)) then s
    else
      match s.lookupEl pr h (firstTuple x) with
      | .bad f => s.resolveLost c x f
      | .ok l =>
        let s := if l.bench then s.settle c else s
        if x.op < 2 then s.resolveTile c x l else s.resolveGather c x l

end State

/-- FE_LOAD_RESOLVE (R218). -/
def execFeLoadResolve (s : State) : Host.Outcome State Fault Refusal := .next (s.resolveLoad s.unit)

/-! ## The words -/

/-- A fault of an image read from the frame, with the notice it posts. -/
def imageFault (s : State) (c a : Nat) (f : Flt) : Iss := .fail (s.noteAbsent (s.core c) a f) f.code f.detail noElem

/-- Reads `n` bytes at FT - off in the task's frame, as the control sequencer would (R210). -/
def readFrame (s : State) (c off n : Nat) (cont : List Word → Iss) : Iss :=
  match (s.core c).frame with
  | none => .flt FCode.bounds 0x100 noElem
  | some v =>
    if v.size < off then .flt FCode.bounds 0x100 noElem
    else
      let a := v.base + v.size - off
      if s.viewHeld c a n 1 then .stall .none s
      else
      match s.viewLoad c a n with
      | .bad f => imageFault s c a f
      | .ok bs => cont (words64 (n / 8) bs)

/-- SBIND with an image (R210, R223); it waits at the head while the pin count of the version is full (R184; log entry 47). -/
def bindDesc (n : Nat) (img : List Word) (c : Nat) (s : State) : Iss :=
  let pr := s.principal c
  let h := Desc.handle img
  let key := Handle.key h
  let dr := Desc.draft img
  let bad := fun (f : Flt) => Iss.flt f.code f.detail noElem
  if Desc.imageBad img then .flt FCode.illop 0x31 noElem
  else if s.handleForm h && s.entryLocked h then .stall .none s
  else
    match s.lookupHome pr h with
    | .bad f => bad f
    | .ok l =>
      match s.checkRights pr h l (if dr then Right.write else Right.read) false with
      | some f => bad f
      | none =>
        let put := fun (s : State) (v : Nat) =>
          let s1 := s.unpinDesc ((s.core c).desc n)
          Iss.go (s1.modCore c fun k =>
            k.setDesc n [h, setFld (Desc.w img 1) 32 32 v, Desc.w img 2, Desc.w img 3, Desc.w img 4, 0#64, 0#64, 0#64])
        if l.rank ≤ Desc.rax img ∨ l.rank ≤ Desc.cax img then .flt FCode.illop 0x31 noElem
        else if l.bench then
          (if dr then .flt FCode.rights 0x41 noElem
           else if 1 < Desc.ver img then .flt FCode.vergone 3 noElem
           else put s 1)
        else if dr then
          (match s.checkVer pr key l .draft with
           | some f => bad f
           | none => put s 0)
        else
          let v := if Desc.ver img = 0 then s.curv key else Desc.ver img
          match s.checkVer pr key l (.ver v) with
          | some f => bad f
          | none =>
            match s.pin key v with
            | none => .stall .none s
            | some s1 => put s1 v

/-- SBIND (R210). -/
def execSbind (g : Guard) (f : StWord) (s : State) : Host.Outcome State Fault Refusal :=
  issueWord g 1 (fun _ _ => StUse.illop { sd := true, imm := true } f (f.imm.toNat % 64 != 0))
    (fun c _ s =>
      let n := f.sd.toNat
      if descInUse (s.core c) n then .stall .none s
      else if f.imm = 0#32 then
        .go ((s.unpinDesc ((s.core c).desc n)).modCore c fun k => { k with sd := Tbl.erase k.sd n })
      else readFrame s c f.imm.toNat 64 fun img => bindDesc n img c s) s

/-- SLOAD (R211). -/
def execSload (g : Guard) (f : StWord) (s : State) : Host.Outcome State Fault Refusal :=
  issueWord g 1 (fun _ _ => StUse.illop { sd := true, slot := true, sub := true } f (decide (7 < f.sub.toNat)))
    (fun c _ s => issueLoad 0 f c s) s

/-- SLOADV (R212). -/
def execSloadv (g : Guard) (f : StWord) (s : State) : Host.Outcome State Fault Refusal :=
  issueWord g 1
    (fun _ _ => StUse.illop { sd := true, vd := true, sub := true, mask := true } f (decide (3 < f.sub.toNat) || badDest f))
    (fun c _ s => issueLoad 1 f c s) s

/-- SGATH (R213). -/
def execSgath (g : Guard) (f : StWord) (s : State) : Host.Outcome State Fault Refusal :=
  issueWord g 1
    (fun _ _ =>
      StUse.illop { sd := true, vd := true, vi := true, sub := true, mask := true } f (decide (7 < f.sub.toNat) || badDest f))
    (fun c _ s => issueLoad 2 f c s) s

/-- SGATHF (R208). -/
def execSgathf (g : Guard) (f : StWord) (s : State) : Host.Outcome State Fault Refusal :=
  issueWord g 1
    (fun _ _ =>
      StUse.illop { sd := true, vd := true, vi := true, sub := true, mask := true } f
        (decide (7 < f.sub.toNat) || badDest f || !f.me))
    (fun c _ s => issueLoad 3 f c s) s

/-- SADV (R214). -/
def execSadv (g : Guard) (f : StWord) (s : State) : Host.Outcome State Fault Refusal :=
  issueWord g 1 (fun _ _ => StUse.illop { sd := true, sub := true, imm := true } f (decide (4 < f.sub.toNat)))
    (fun c _ s =>
      let n := f.sd.toNat
      let p := f.sub.toNat
      .go (s.modCore c fun k =>
        let d := k.desc n
        k.setDesc n (modAt (fun w => setFld w (32 * (p % 2)) 32 (nth 0 (Desc.cur d) p + f.imm.toNat)) d (2 + p / 2)))) s

/-- SSCALE with an image (R215); it waits at the head while the pin count of the version is full (R184; log entry 47). -/
def bindScale (n : Nat) (img : List Word) (c : Nat) (s : State) : Iss :=
  let pr := s.principal c
  let h := nth 0#64 img 0
  let w1 := nth 0#64 img 1
  let spt := fld w1 16 16
  let bad := fun (f : Flt) => Iss.flt f.code f.detail noElem
  if fld w1 0 16 ≠ 0 ∨ spt = 0 ∨ 64 < spt ∨ nth 0#64 img 2 ≠ 0#64 ∨ nth 0#64 img 3 ≠ 0#64 then .flt FCode.illop 0x31 noElem
  else if s.handleForm h && s.entryLocked h then .stall .none s
  else
    match s.lookupHome pr h with
    | .bad f => bad f
    | .ok l =>
      match s.checkRights pr h l Right.read false with
      | some f => bad f
      | none =>
        if l.fmt ≠ 0 ∨ l.rank ≠ 1 then .flt FCode.fmtbad 4 noElem
        else
          let v := if l.bench then 1 else s.curv (Handle.key h)
          match if l.bench then some s else s.pin (Handle.key h) v with
          | none => .stall .none s
          | some s1 =>
            let d := (s.core c).desc n
            let s2 := if Desc.sh d = 0#64 then s1 else s1.unpin (Handle.key (Desc.sh d)) (Desc.sver d)
            .go (s2.modCore c fun k =>
              k.setDesc n (d.take 5 ++ [h, setFld (setFld 0#64 32 32 (fld w1 32 32)) 16 16 spt, BitVec.ofNat 64 (v * 2 ^ 32)]))

/-- SSCALE (R215). -/
def execSscale (g : Guard) (f : StWord) (s : State) : Host.Outcome State Fault Refusal :=
  issueWord g 1 (fun _ _ => StUse.illop { sd := true, imm := true } f (f.imm.toNat % 64 != 0))
    (fun c _ s =>
      let n := f.sd.toNat
      let d := (s.core c).desc n
      if descInUse (s.core c) n then .stall .none s
      else if f.imm = 0#32 then
        let s1 := if Desc.sh d = 0#64 then s else s.unpin (Handle.key (Desc.sh d)) (Desc.sver d)
        .go (s1.modCore c fun k => k.setDesc n (d.take 5 ++ [0#64, 0#64, 0#64]))
      else readFrame s c f.imm.toNat 32 fun img => bindScale n img c s) s

/-- SPREF (R216): no architectural effect. -/
def execSpref (g : Guard) (f : StWord) (s : State) : Host.Outcome State Fault Refusal :=
  issueWord g 1
    (fun _ _ =>
      StUse.illop { sd := true, sub := true, imm := true } f
        (decide (4 < f.sub.toNat) || f.imm == 0#32 || decide (64 < f.imm.toNat)))
    (fun _ _ s => .go s) s

/-! ## Barriers (R217, R355) -/

namespace Core

def full (k : Core) (b : Nat) : Bool := nth false k.cb b
def owned (k : Core) (b : Nat) : Bool := (Tbl.find k.cbOwner b).isSome
/-- A barrier set at once; a value of CBQ that is not seen yet still comes in its clk (R365). -/
def setCb (k : Core) (b : Nat) (v : Bool) : Core := { k with cb := fillAt false k.cb b v }

end Core

/-- Will an accepted job of the task on the core still set the barrier FULL, or EMPTY (R217, R307)? -/
def jobWillSet (s : State) (c b : Nat) (full : Bool) : Bool :=
  let t := (s.core c).crid
  s.jobs.any fun j =>
    j.crid == t && !j.ended && j.bmode == (if full then 1 else 2) &&
      (List.range (min (j.nbm1 + 1) (j.nt - j.tdone))).any fun i => j.ringOf (j.tdone + i) == b

/-- SWAITB (R217). -/
def execSwaitb (g : Guard) (f : StWord) (s : State) : Host.Outcome State Fault Refusal :=
  issueWord g 1 (fun _ _ => StUse.illop { cb := true } f false)
    (fun c _ s => if (s.core c).full f.cb.toNat then .go s else .stall .swaitb s) s

/-- SREL may act (R217, R355). -/
def srelReady (k : Core) (b : Nat) : Bool := k.loads.isEmpty && !k.owned b

/-- SREL (R217). -/
def execSrel (g : Guard) (f : StWord) (s : State) : Host.Outcome State Fault Refusal :=
  issueWord g 1 (fun _ _ => StUse.illop { cb := true } f false)
    (fun c _ s =>
      if srelReady (s.core c) f.cb.toNat then .go (s.modCore c fun k => k.setCb f.cb.toNat false) else .stall .srel s) s

/-- SWAITB_PASS (R217): a held SWAITB whose barrier is FULL retires. -/
def execSwaitbPass (s : State) : Host.Outcome State Fault Refusal :=
  let c := s.unit
  match (s.core c).fe.hold, headInstr s c .fe with
  | .swaitb, some (.swaitb _ f) =>
    if (s.core c).full f.cb.toNat then .next (s.issued c .fe 1 (s.core c).fe.place.2) else .next s
  | _, _ => .next s

/-- SREL_RELEASE (R217): a held SREL sets its barrier EMPTY and retires. -/
def execSrelRelease (s : State) : Host.Outcome State Fault Refusal :=
  let c := s.unit
  match (s.core c).fe.hold, headInstr s c .fe with
  | .srel, some (.srel _ f) =>
    if srelReady (s.core c) f.cb.toNat then
      .next ((s.modCore c fun k => k.setCb f.cb.toNat false).issued c .fe 1 (s.core c).fe.place.2)
    else .next s
  | _, _ => .next s

/-- Is FE held at an SWAITB that nothing will meet, the control sequencer being in RDV or waiting as RDV does (R120, R217)? -/
def swaitbStuck (s : State) (c : Nat) : Bool :=
  let k := s.core c
  match k.fe.hold, headInstr s c .fe with
  | .swaitb, some (.swaitb _ f) =>
    k.forkOut && joining s c && !k.fe.fault.v && !k.full f.cb.toNat && !jobWillSet s c f.cb.toNat true &&
      !k.cbPend.any fun p => p.2.1 == f.cb.toNat && p.2.2.1
  | _, _ => false

/-- SWAITB_STALL_DETECT (R217). -/
def execSwaitbStallDetect (s : State) : Host.Outcome State Fault Refusal :=
  let c := s.unit
  .next (if swaitbStuck s c then s.raiseEng c .fe FCode.illop 0x30 noElem else s)

end Sys2Proof.Machine
end

