-- ==== Sys2Proof/Machine/Place.lean ====
section
/-!
DEFINITION. Placing and stopping tasks (04): pops (R112, R113, R115), frames (R124, R460), gangs (R130, R131), task start (R42, R117),
stop by save or discard (R139 to R141), restore (R141), the moves of entries between queues (R114, R456).
-/

namespace Sys2Proof.Machine

/-- The end FT of a frame view of `size` bytes, placed by the dispatcher below 0x4000_0000_0000 (R97, R169) clear of the task's code.
The spec names no place: `w` is a free value (log entry 12), taken where the frame fits. -/
def frameTop (views : List View) (size w : Nat) : Nat :=
  let fits := fun (ft : Nat) => decide (size ≤ ft ∧ ft ≤ 2 ^ 46) && views.all fun v => decide (ft ≤ v.base) || decide (v.base + v.size + size ≤ ft)
  let free := 65536 * (w % 2 ^ 31)
  if fits free then free
  else ((2 ^ 46 :: views.map fun v => v.base / 65536 * 65536).find? fits).getD (2 ^ 46)

/-- Bytes of storage that a task of a code object needs in its frame object (R97, R124, R141). -/
def frameNeed (o : CodeObj) : Nat := roundUp o.frame 65536 + saveArea o.live

/-- The tiles, slots and registers that a save keeps (R141). -/
def keptTiles (k : Core) : Tbl Tile := k.tiles.filter fun e => e.2.valid && k.awakeA e.1
def keptSlots (k : Core) : Tbl Slot := k.slots.filter fun e => e.2.valid
def keptV (k : Core) (p : Nat) : Bool := k.awakeV p && !k.deadV p
def keptM (k : Core) (r : Nat) : Bool := k.awakeM r

/-- Bytes that the save of a core writes (R141). -/
def saveBytes (k : Core) : Nat :=
  9216 + 8192 * ((List.range 16).filter (keptM k)).length + 4096 * ((List.range 32).filter (keptV k)).length +
    8192 * (keptSlots k).length + 16384 * (keptTiles k).length

/-- Clocks that a save or a restore of `n` bytes takes. -/
def saveClks (n : Nat) : Nat := (n + 127) / 128

/-- A bank after a restore: one that was not awake is off (R141). -/
def restoredBank (b : BankSt) : BankSt := if b == .awake then .awake else .off

/-- What is left of an engine's state in the save area: its requests and delays are gone. -/
def savedEngine (g : EngSt) : EngSt :=
  { g with busyTo := 0, hdrAt := 0, leaveReq := none, leaveOk := false, stallSince := none, retiredVis := g.retired
           tracks := g.tracks.map fun t => { t with token := false } }

/-- The context that a save keeps (R141): sleeping banks and dead registers are left out, and the CT record holds PREEMPT with the
detail given (R139). -/
def savedCore (k : Core) (detail : Nat) : Core :=
  { k with
    ct := { k.ct with wait := none
                      fault := { ctRecord FCode.preempt detail with v := false } }
    fe := savedEngine k.fe, ma := savedEngine k.ma, dr := savedEngine k.dr
    v := k.v.filter fun e => keptV k e.1
    m := k.m.filter fun e => keptM k e.1
    vPois := k.vPois.filter fun e => keptV k (e / 512)
    mPois := k.mPois.filter fun e => keptM k (e / 1024)
    tiles := keptTiles k, slots := keptSlots k
    gPrev := k.gNow, gSeen := k.gNow
    cb := (k.cbPend.foldl (fun cb p => fillAt false cb p.2.1 p.2.2.1) k.cb)
    cbOwner := k.cbOwner.filter fun e => !k.cbPend.any fun p => p.2.1 == e.1 && p.2.2.2 == e.2
    cbPend := []
    bankV := k.bankV.map restoredBank, bankM := k.bankM.map restoredBank, bankA := k.bankA.map restoredBank
    vPend := [], unitBusy := [], mq := [], mrun := [], arrBusy := [], loads := [], stores := [], win := []
    poolNote := false, storeHeld := none, forkStall := none, placed := 0, phase := .idle }

/-- Offset of the slots in a save area (R141), for a .live value. -/
def saveEnd (l : Nat) : Nat := 0x22400 + 4096 * (16 + l)

/-- Names of the registers that a save keeps, for a .live value (R141). -/
def savedNames (l : Nat) (k : Core) : List Nat := (List.range (16 + l)).filter fun n => keptV k (k.rotV n)

/-- The parts of the save area that have a layout (R141), each with its offset: descriptors, predicates, ANC and VALID of the
tiles, moment and vector registers, slots and tiles. -/
def saveImage (l : Nat) (k : Core) : List (Nat × List Byte) :=
  let word := fun (w : Word) => leBytes 8 w.toNat
  (tab 16 fun i => (0x1000 + 64 * i, (tab 8 fun j =>
    word (nth 0#64 (modAt (fun w => setFld w 0 2 0) (Tbl.get [] k.sd i) 1) j)).flatten)) ++
  (tab 16 fun i => (0x1400 + 128 * i, leBytes 128 (k.readP i).toNat)) ++
  (tab 256 fun i =>
    let t := Tbl.get {} (keptTiles k) i
    (0x1C00 + 8 * i, leBytes 8 (if t.valid then t.anc.toNat + 65536 else 0))) ++
  ((List.range 16).filter (keptM k)).map (fun r =>
    (0x2400 + 8192 * r, ((k.physM r).map fun e => leBytes 4 e.1.toNat ++ leBytes 4 e.2.toNat).flatten)) ++
  (savedNames l k).map (fun n => (0x22400 + 4096 * n, ((k.readV n).map fun x => leBytes 4 x).flatten)) ++
  (keptSlots k).map (fun e => (saveEnd l + 8192 * e.1, tab 8192 fun i => Tbl.get 0#8 e.2.bytes i)) ++
  (keptTiles k).map (fun e =>
    (saveEnd l + 0x80000 + 16384 * e.1, (tab 1024 fun i => leBytes 16 (Tbl.get 0#128 e.2.els i).toNat).flatten))

/-- The numbers of `n` little-endian bytes each that a list of bytes holds. -/
def unpackNums (n : Nat) : Nat → List Byte → List Nat
  | 0, _ => []
  | k + 1, bs => leNat (bs.take n) :: unpackNums n k (bs.drop n)

namespace State

/-- Writes bytes into the storage of an object at a byte offset, page by page. -/
def writeObj (s : State) (h : Word) : Nat → Nat → List Byte → State
  | 0, _, _ => s
  | fuel + 1, off, bs =>
    let n := 65536 - off % 65536
    let s1 := match s.storeKey h off with
      | some k => (s.write k (bs.take n)).noteRemote ((List.range ((min n bs.length + 31) / 32)).map fun i => k + 32 * i)
      | none => s
    if bs.length ≤ n then s1 else writeObj s1 h fuel (off + n) (bs.drop n)

/-- Reads bytes of the storage of an object at a byte offset; none where a page of them is not there. -/
def readObj (s : State) (h : Word) : Nat → Nat → Nat → Option (List Byte)
  | 0, _, _ => some []
  | fuel + 1, off, n =>
    let m := 65536 - off % 65536
    (s.storeKey h off).bind fun k =>
      if n ≤ m then some (s.bytes k n) else (readObj s h fuel (off + m) (n - m)).map fun t => s.bytes k m ++ t

/-- An item of a table as `n` bytes of the storage of an object give it; unchanged where they are not there. -/
def loadObj {α : Type} (s : State) (h : Word) (t : Tbl α) (key off n : Nat) (f : List Byte → α) : Tbl α :=
  match s.readObj h 2 off n with
  | some bs => Tbl.put t key (f bs)
  | none => t

/-- The place of the save area of a task in its frame object: the highest pages (R141). -/
def saveBase (s : State) (crid l : Nat) : Nat := s.storageBytes (s.cr crid 1) - saveArea l

/-- `n` free words written from an offset on: the first block of a save area, whose inner layout the spec does not give (log entry 41). -/
def writeFree (s : State) (h : Word) (off : Nat) : Nat → State
  | 0 => s
  | n + 1 =>
    let a := s.draw
    writeFree (a.2.writeObj h 2 off (leBytes 8 a.1.toNat)) h (off + 8) n

/-- Writes the save area of the task on a core: the highest pages of its frame object (R141). -/
def writeSave (s : State) (c : Nat) : State :=
  let k := s.core c
  let h := s.cr k.crid 1
  let l := s.liveOf c
  let base := s.saveBase k.crid l
  (saveImage l k).foldl (fun s e => s.writeObj h 2 (base + e.1) e.2) (s.writeFree h base 512)

/-- May a save or a restore of the task on a core go through the frame object: its entry is not locked, or a handle cache holds it
(R420)? -/
def frameReady (s : State) (c : Nat) : Bool := s.walkReady (s.principal c) (s.cr (s.core c).crid 1)

/-- What the save area of a task holds (R141): the registers, slots and tiles that have a place in it are read from it, where its pages
are there; the rest of the context is `was`. A descriptor whose draft has been published since the save names that version (R187). -/
def readSave (s : State) (crid l : Nat) (was : Core) : Core :=
  let h := s.cr crid 1
  let base := s.saveBase crid l
  let sd := (List.range 16).foldl (fun (t : Tbl (List Word)) i =>
    let old := Tbl.get [] was.sd i
    s.loadObj h t i (base + 0x1000 + 64 * i) 64 fun bs =>
      let ws := (unpackNums 8 8 bs).map (BitVec.ofNat 64)
      let o1 := nth 0#64 old 1
      if old = [] ∧ ws.all (· == 0#64) then []
      else
        modAt (fun w => setFld w 0 2 (fld o1 0 2))
          (if o1.getLsbD 1 then descBound (Handle.key (nth 0#64 old 0)) (fld o1 32 32) ws else ws) 1) was.sd
  let p := (List.range 16).foldl (fun (t : Tbl (BitVec 1024)) i =>
    s.loadObj h t (was.rotP i) (base + 0x1400 + 128 * i) 128 fun bs => BitVec.ofNat 1024 (leNat bs)) was.p
  let m := ((List.range 16).filter (keptM was)).foldl (fun (t : Tbl (List (Elem32 × Elem32))) r =>
    s.loadObj h t r (base + 0x2400 + 8192 * r) 8192 fun bs =>
      let xs := unpackNums 4 2048 bs
      tab 1024 fun i => (BitVec.ofNat 32 (nth 0 xs (2 * i)), BitVec.ofNat 32 (nth 0 xs (2 * i + 1)))) was.m
  let v := (savedNames l was).foldl (fun (t : Tbl (List Elem32)) n =>
    s.loadObj h t (was.rotV n) (base + 0x22400 + 4096 * n) 4096 fun bs => (unpackNums 4 1024 bs).map (BitVec.ofNat 32)) was.v
  let slots := was.slots.foldl (fun (t : Tbl Slot) e =>
    s.loadObj h t e.1 (base + saveEnd l + 8192 * e.1) 8192 fun bs =>
      { e.2 with bytes := (bs.zip (List.range 8192)).foldl (fun t b => Tbl.set 0#8 t b.2 b.1) [] }) was.slots
  let anchors := (List.range 256).foldl (fun (t : Tbl Tile) i =>
    s.loadObj h t i (base + 0x1C00 + 8 * i) 8 fun bs => { Tbl.get {} was.tiles i with anc := BitVec.ofNat 16 (leNat bs), valid := bitOf (leNat bs) 16 }) was.tiles
  let kept := anchors.filter fun e => e.2.valid && was.awakeA e.1
  let tiles := kept.foldl (fun (t : Tbl Tile) e =>
    s.loadObj h t e.1 (base + saveEnd l + 0x80000 + 16384 * e.1) 16384 fun bs =>
      { e.2 with els := ((unpackNums 16 1024 bs).zip (List.range 1024)).foldl (fun t b => Tbl.set 0#128 t b.2 (BitVec.ofNat 128 b.1)) [] })
    kept
  { was with sd := sd, p := p, m := m, v := v, slots := slots, tiles := tiles }

/-! ## Stopping -/

/-- Releases every token and request of a core, and its booking (R140); an engine inside a PWR section must ask again. -/
def releaseLeave (s : State) (c : Nat) : State :=
  engines.foldl (fun s e => s.modEng c e fun g => { g with reLeave := g.reLeave || (g.inSec && g.hdr.getLsbD 49) }) (s.dropLeave c)

/-- An abandoned instruction, unless it is a KVHAND, which a stop never abandons (R389). -/
def abandonAt (s : State) (c : Nat) : State := if (s.waiting c .kvhand).isSome then s else s.abandon c

/-- Has an engine come to the point where it stops (R140): it stands in no stamped section, or cannot go on in it? -/
def engineStopped (s : State) (c : Nat) (e : Eng) : Bool :=
  let g := (s.core c).eng e
  !(g.inSec && g.hdr.getLsbD 48) || g.fault.v || g.stopped || g.ended || g.held || s.heldUnresolved c e

/-- Has everything in flight retired (R140, R359, R389)? -/
def coreQuiet (s : State) (c : Nat) : Bool :=
  engines.all (s.engineStopped c) && !(s.core c).flying && (s.waiting c .kvhand).isNone && !(s.jobs.any fun j =>
    j.core == c && j.crid == (s.core c).crid && j.slotEnd && !j.ended && s.passed j)

/-- The save begins: the window leaves (R234), and the bytes are written at 128 per clk (R141). -/
def beginSave (s : State) (c : Nat) : State :=
  (s.flushWindow c).modCore c fun k => { k with phase := .saving (s.pcc + saveClks (saveBytes k)) }

/-! ## Placing -/

/-- The registers at task start (R42, R117): the frame, code and service views, all of them counted in the table of 256 (log
entry 47), the arguments, the entry point. -/
def taskStart (s : State) (c : Nat) : State :=
  let k0 := s.core c
  let t := k0.crid
  match s.codeOf (s.crCode t) with
  | none => s
  | some o =>
    let size := roundUp o.frame 65536
    let h := s.cr t 1
    let was := Tbl.get {} s.saved t
    let code : View := { base := o.base, size := o.isize, back := .phys o.pa, r := true, w := false, x := true, kind := .code }
    let svc : List View :=
      if s.svcSize = 0 then []
      else [{ base := s.svcVec.toNat, size := s.svcSize, back := .phys s.svcPa, r := true, w := false, x := true, kind := .service }]
    let fr := s.draw
    let ft := frameTop (code :: svc) size fr.1.toNat
    let frame : View := { base := ft - size, size := size, back := .live (Handle.key h) h, r := true, w := true, x := false,
                          kind := .frame }
    let pr := s.cr t 7
    let eng := fun (n : Nat) => ({ retired := pr.extractLsb' n 16, retiredVis := pr.extractLsb' n 16 } : EngSt)
    let x := setAt (setAt (setAt (List.replicate 32 0#64) 2 (BitVec.ofNat 64 ft)) 10 (s.cr t 3)) 11 (s.cr t 4)
    let k : Core :=
      { ct := { x := x, pc := BitVec.ofNat 64 (o.base + nth 0 o.entries (s.crEntry t)), stvec := s.svcVec
                fault := was.ct.fault }
        fe := eng 48, ma := eng 32, dr := eng 16, forks := pr.extractLsb' 0 16
        live := BitVec.ofNat 5 o.live
        views := code :: frame :: svc
        crid := t, j := k0.j, frameSup := k0.frameSup, framePages := s.storageBytes h / 65536, popQ := k0.popQ, placed := k0.placed, phase := .running }
    { fr.2.setCore c k with saved := Tbl.erase s.saved t }

/-- The restore is complete (R141): the saved context stands on the core, and the task runs.  SV is 0 from then on (log entry 43). -/
def restoreTask (s : State) (c : Nat) : State :=
  let k0 := s.core c
  let t := k0.crid
  let was := s.readSave t (s.liveOf c) (Tbl.get {} s.saved t)
  let k := { was with crid := t, popQ := k0.popQ, placed := k0.placed, phase := .running, frameSup := k0.frameSup
                      ct := { was.ct with stvec := s.svcVec } }
  let s1 := { s.setCore c k with saved := Tbl.erase s.saved t }
  let s2 := s1.setCrFld t 0 12 1 0
  { s2 with jobs := s2.jobs.map fun j => if j.crid = t ∧ !j.orphan then { j with core := c } else j }

/-- The context of the task on a core: of one still being restored, that of its save (R115). -/
def context (s : State) (c : Nat) : Core :=
  let k := s.core c
  match k.phase with
  | .starting _ _ => if s.crSv k.crid then Tbl.get {} s.saved k.crid else k
  | _ => k

/-- The task on a starting core stands on it: restored, or at its start. -/
def completeStart (s : State) (c : Nat) : State := if s.crSv (s.core c).crid then s.restoreTask c else s.taskStart c

/-- A core stops its task (R140): at an instruction boundary, leave released, the record STOPPING. -/
def beginStop (s : State) (c : Nat) (discard : Bool) : State :=
  let s :=
    match (s.core c).phase with
    | .starting _ _ => s.completeStart c
    | _ => s
  match (s.core c).phase with
  | .running =>
    if (s.core c).failed.isSome then s
    else (((s.abandonAt c).releaseLeave c).setSt (s.core c).crid 4).modCore c fun k => { k with phase := .stopping discard }
  | _ => s

/-- The cores on which tasks stand. -/
def coresOf (s : State) (crids : List Nat) : List Nat :=
  s.cores.filterMap fun e => if e.2.crid != 0 && crids.contains e.2.crid then some e.1 else none

/-- The members of a task's team that have not left, or the task alone. -/
def gangOf (s : State) (crid : Nat) : List Nat :=
  match s.team (s.teamOf crid) with
  | some t => (t.members.filter fun m => !m.left).map Member.crid
  | none => [crid]

/-- A yield (R125, R130): the task, or its whole team, stops by save; a pre-emption of it that has begun is carried out instead (R142). -/
def yieldTask (s : State) (c : Nat) : State :=
  let g := s.gangOf (s.core c).crid
  if s.preempts.any fun p => p.left.any g.contains then s else (s.coresOf g).foldl (fun s x => s.beginStop x false) s

/-- Enqueues what has been saved: a lone task in its die queue, or a team as one gang entry once every member that has not left stands
saved (R130, R140, R142). -/
def enqueueSaved (s : State) (die crid : Nat) : State :=
  match s.team (s.teamOf crid) with
  | none => s.enqueue (128 + die) crid
  | some t =>
    (s.setTeam { t with members := t.members.map fun m => if m.crid = crid then { m with saved := true } else m }).tryGang t.id

/-- The save is written (R140): the record is QUEUED with SV, the entry is enqueued, the core is idle. -/
def finishSave (s : State) (c : Nat) : State :=
  let k := s.core c
  let t := k.crid
  let s := s.writeSave c
  let s := { s with saved := Tbl.put s.saved t (savedCore k 1) }
  let s := ((s.setCr t 7 (s.progress c)).setCrFld t 0 12 1 1).setSt t 2
  let s := (s.setCore c { placed := k.placed }).leftCore t
  s.enqueueSaved (c / 256) t

/-! ## Pops -/

/-- Is the cluster of a core degraded, so that the core pops nothing (R456)? -/
def degraded (s : State) (c : Nat) : Bool := (s.cluster (c / 16)).degr

/-- Cores of a die that may pop (R131). -/
def healthy (s : State) (die : Nat) : Nat := 256 - 16 * ((List.range 16).filter fun i => (s.cluster (16 * die + i)).degr).length

/-- Gives each record without a frame one from the die's pool (R124, R460); none when the pool holds none large enough. -/
def giveFrames (s : State) (die : Nat) : List Nat → Option State
  | [] => some s
  | c :: t =>
    if s.cr c 1 ≠ 0#64 then giveFrames s die t
    else
      match s.codeOf (s.crCode c) with
      | none => none
      | some o =>
        match s.takeFp die (frameNeed o) (s.regN (0xD000 + 64 * die + 24)) with
        | none => none
        | some (h, s1) =>
          let was := Tbl.get {} s1.saved c
          giveFrames { s1.setCr c 1 h with saved := Tbl.put s1.saved c { was with frameSup := some die } } die t

/-- The continuation that a record has already made; 0 for none. -/
def contOf (s : State) (crid : Nat) : Nat := (Tbl.get {} s.saved crid).cont

/-- May a core of the die take the entry: the kinds fit (R12), frames are to be had (R124), a spare slot stands for each task's TCONT
(R119), a gang has cores enough (R131)? -/
def eligible (s : State) (die : Nat) (e : QEntry) : Bool :=
  let cs := if e.gang.isEmpty then [e.crid] else e.gang
  cs.all (fun c => kindFits die (s.crKind c)) && (e.gang.isEmpty || decide (e.gang.length ≤ s.healthy die)) &&
    decide (1 + s.usedRecs + s.spareRecs + (cs.filter fun c => s.contOf c == 0).length ≤ s.nrec) && (s.giveFrames die cs).isSome

/-- The entry that a pop of a core from a queue takes (R112). -/
def popFrom (s : State) (c q : Nat) : Option QEntry := popChoice (s.queue q) (s.qPop q) (s.eligible (c / 256))

/-- A task is placed on a core in the clk of its pop (R115, R117): ST is RUNNING, and J is PARENT at the first placement. -/
def place (s : State) (q : Nat) (x : Nat × Nat) : State :=
  let (c, crid) := x
  let sv := s.crSv crid
  let was := Tbl.get {} s.saved crid
  let delay := if q < 128 then 32 else 64
  let n := if sv then saveClks (saveBytes was) else 0
  let k : Core :=
    { crid := crid, popQ := q, placed := s.pcc, frameSup := was.frameSup, cont := was.cont
      j := if sv then was.j else s.crFld crid 5 32 32
      phase := .starting (s.pcc + n) (s.pcc + max delay n) }
  { (s.setSt crid 3).setCore c k with lastDie := Tbl.put s.lastDie crid (c / 256) }

/-- Cores of a die reserved for the gang that a record heads (R130). -/
def reservedFor (s : State) (die g : Nat) : List Nat :=
  s.cores.filterMap fun e => if e.1 / 256 = die ∧ e.2.phase = .reserved g then some e.1 else none

/-- Places one task, or reserves the core for a gang and places the gang when a core stands for each member (R130). -/
def takeEntry (s : State) (c q : Nat) (e : QEntry) : State :=
  let die := c / 256
  if e.gang.isEmpty then
    let s := s.qTake q e
    ((s.giveFrames die [e.crid]).getD s).place q (c, e.crid)
  else
    let g := nth 0 e.gang 0
    let s := s.modCore c fun k => { k with phase := .reserved g }
    let cs := s.reservedFor die g
    if cs.length < e.gang.length then s
    else
      let s := s.qTake q e
      (cs.zip e.gang).foldl (fun s x => s.place q x) ((s.giveFrames die e.gang).getD s)

/-- What an idle core pops (R113): its cluster queue first, then its die queue; a core that an entry of its cluster queue fits is so not
reserved for a gang at the head of the die queue (log entry 43). -/
def pop (s : State) (c : Nat) : State :=
  let k := s.core c
  if k.phase ≠ .idle ∨ s.degraded c then s
  else
    match s.popFrom c (c / 16) with
    | some e => s.takeEntry c (c / 16) e
    | none =>
      match s.popFrom c (128 + c / 256) with
      | some e => s.takeEntry c (128 + c / 256) e
      | none => s

/-- Would an idle core's pop find something?  It is tried in every clk, whatever has made an entry eligible (R113; log entry 43). -/
def popFinds (s : State) (c : Nat) : Bool :=
  (s.core c).phase == .idle && !s.degraded c && ((s.popFrom c (c / 16)).isSome || (s.popFrom c (128 + c / 256)).isSome)

/-- Reservations that stand while a die has too few healthy cores for their gang, or on a degraded cluster, are released
(R131). -/
def releaseGangs (s : State) (die : Nat) : State :=
  s.cores.foldl (fun s e =>
    match e.2.phase with
    | .reserved g =>
      let n := ((s.queue (128 + die)).head.find? fun q => q.gang.head? = some g).elim 0 fun q => q.gang.length
      if e.1 / 256 = die ∧ (s.degraded e.1 ∨ s.healthy die < n) then s.modCore e.1 fun k => { k with phase := .idle } else s
    | _ => s) s

/-! ## Moves between queues -/

/-- The die to which the package interpreter moves an entry: eligible, not wholly degraded, with room, with the fewest entries (R114,
R456). -/
def moveDie (s : State) (e : QEntry) : Option Nat :=
  ((List.range 8).filter fun d => kindFits d e.kind && s.healthy d != 0 && s.qRoom (128 + d)).foldl (fun m d =>
    match m with
    | none => some d
    | some x => if s.qCount (128 + d) < s.qCount (128 + x) then some d else some x) none

/-- May the package interpreter move an entry of a queue: out of the package queue, or out of the queue of a die whose clusters are all
degraded, from which a gang entry, bound to its team's die, does not move (R114, R456; log entry 43)? -/
def movable (s : State) (q : Nat) (e : QEntry) : Bool :=
  (q == 136 || (s.healthy (q - 128) == 0 && e.gang.isEmpty)) && (s.moveDie e).isSome

/-- The queue from which the package interpreter moves next, with the entry (R114, R456): the package queue goes first (log entry 43). -/
def moveNext (s : State) : Option (Nat × QEntry) :=
  (136 :: (List.range 8).map (128 + ·)).findSome? fun q => (popChoice (s.queue q) (s.qPop q) (s.movable q)).map fun e => (q, e)

/-- Takes an entry out of a queue, wherever it stands. -/
def dropEntry (k : Queue) (e : QEntry) : Queue :=
  { k with head := k.head.filter (fun f => f.seq != e.seq), ring := k.ring.filter (fun f => f.seq != e.seq),
           spill := k.spill.filter fun f => f.seq != e.seq }

/-- Of the entries that pass `ok`, the one that leaves a degraded cluster's queue first (R456): head, ring, spill list. -/
def drainChoice (k : Queue) (ok : QEntry → Bool) : Option QEntry := (popChoice k 0 ok).or ((k.ring ++ k.spill).find? ok)

/-- The entry that leaves a degraded cluster's queue next, with the queue that is left (R456): the entries that stood there when DEGR was
set, those below `mark`, go before the others. -/
def drainNext (mark : Nat) (k : Queue) : Option (QEntry × Queue) :=
  ((drainChoice k fun e => decide (e.seq < mark)).or (drainChoice k fun _ => true)).map fun e => (e, dropEntry k e)

end State

/-! ## The rows -/

/-- CORE_POP (R112, R113, R124, R130). -/
def execCorePop (s : State) : Host.Outcome State Fault Refusal := .next (s.pop s.unit)

/-- TASK_START (R42, R115). -/
def execTaskStart (s : State) : Host.Outcome State Fault Refusal :=
  let c := s.unit
  match (s.core c).phase with
  | .starting _ first => .next (if first ≤ s.pcc ∧ !s.crSv (s.core c).crid then s.taskStart c else s)
  | _ => .next s

/-- RESTORE_COMPLETE (R115, R141); it waits while the entry of the frame object is locked (R420). -/
def execRestoreComplete (s : State) : Host.Outcome State Fault Refusal :=
  let c := s.unit
  match (s.core c).phase with
  | .starting _ first => .next (if first ≤ s.pcc ∧ s.crSv (s.core c).crid ∧ s.frameReady c then s.restoreTask c else s)
  | _ => .next s

/-- SAVE_WRITTEN (R140); it waits while the entry of the frame object is locked (R420). -/
def execSaveWritten (s : State) : Host.Outcome State Fault Refusal :=
  let c := s.unit
  match (s.core c).phase with
  | .saving t => .next (if t ≤ s.pcc ∧ s.frameReady c then s.finishSave c else s)
  | _ => .next s

/-- LATE_BAND_ENTRY (R111). -/
def execLateBandEntry (s : State) : Host.Outcome State Fault Refusal :=
  let q := s.unit
  .next (s.setQueue q (State.markLate s.pcc (s.qGrace q) (s.queue q)))

/-- QUEUE_RING_REFILL (R108). -/
def execQueueRingRefill (s : State) : Host.Outcome State Fault Refusal :=
  let q := s.unit
  .next (s.setQueue q (State.refill s.pcc (s.qGrace q) (s.queue q)))

/-- SPILL_TO_RING (R110). -/
def execSpillToRing (s : State) : Host.Outcome State Fault Refusal :=
  let q := s.unit
  .next (s.putQueue q (State.unspill s.pcc (s.qGrace q) (s.queue q) (s.qCap q)))

/-- PACKAGE_QUEUE_MOVE (R114, R456). -/
def execPackageQueueMove (s : State) : Host.Outcome State Fault Refusal :=
  match s.moveNext with
  | none => .next s
  | some (q, e) =>
    match s.moveDie e with
    | none => .next s
    | some d => .next ((s.qTake q e).qPut (128 + d) { e with late := none })

/-- DEGRADED_QUEUE_MOVE (R456): the next entry of a degraded cluster's queue goes to its die queue. -/
def execDegradedQueueMove (s : State) : Host.Outcome State Fault Refusal :=
  let cl := s.unit
  if !(s.cluster cl).degr then .next s
  else
    match State.drainNext (s.cluster cl).degrSeq (s.queue cl) with
    | none => .next s
    | some (e, k) => .next ((s.setQueue cl k).qPut (128 + cl / 16) { e with late := none })

namespace State

/-- The first two records that pops of kind ANY would take from a cluster queue (R143): a pop that considers every entry, whatever its kind
(log entry 47). -/
def nextKernels (s : State) (q : Nat) : List Nat :=
  let k := s.queue q
  match popChoice k (s.qPop q) (fun _ => true) with
  | none => []
  | some e =>
    match popChoice { k with head := k.head.filter fun f => f.seq != e.seq } ((s.qPop q + 1) % 8) (fun _ => true) with
    | none => [e.crid]
    | some f => [e.crid, f.crid]

/-- The code that prefetch brings in for a record: up to 16 KiB from its entry point on (R143). -/
def kernelCode (s : State) (crid : Nat) : Nat × Nat × Nat :=
  match s.codeOf (s.crCode crid) with
  | none => (crid, 0, 0)
  | some o =>
    let off := nth 0 o.entries (s.crEntry crid)
    (crid, o.pa + off, min 16384 (o.isize - off))

/-- Does prefetch have a fill to issue for a cluster: has its first or second record changed (R143)? -/
def fillDue (s : State) (cl : Nat) : Bool := s.nextKernels cl != (s.cluster cl).ways.map (·.1)

/-- Ways 6 and 7 of the caches of a cluster are filled for its next records; a sector that cannot be read is counted (R143). -/
def fillWays (s : State) (cl : Nat) : State :=
  let k := s.cluster cl
  let old := k.ways.map (·.1)
  let new := (s.nextKernels cl).map s.kernelCode
  let bad := (new.filter fun w => !old.contains w.1).flatMap fun w => (protWords w.2.1 w.2.2).filter s.poison.contains
  let kept := k.wayBad.filter fun p => new.any fun w => old.contains w.1 && (protWords w.2.1 w.2.2).contains p
  s.setCluster cl { k with ways := new, wayBad := kept ++ bad, fetchErrs := k.fetchErrs + bad.length }

end State

/-- NEXT_KERNEL_PREFETCH (R143): nothing but the contents of ways 6 and 7, and the count of fetch errors, changes. -/
def execNextKernelPrefetch (s : State) : Host.Outcome State Fault Refusal := .next (s.fillWays s.unit)

/-- Instructions whose wait yields the core after 4,096 clk (R34, R161, R391, R409). -/
def yieldsAfter (k : WaitKind) (forkOut : Bool) : Bool :=
  match k with
  | .osub | .flacq | .tbar | .oclaim | .kvtake => true
  | .clwait => !forkOut
  | _ => false

/-- WAIT_YIELD_TIMEOUT (R34): performed as a TYIELD at the instruction that waits. -/
def execWaitYieldTimeout (s : State) : Host.Outcome State Fault Refusal :=
  let c := s.unit
  let k := s.core c
  match k.ct.wait with
  | some w => .next (if k.phase = .running ∧ yieldsAfter w.kind k.forkOut ∧ w.since + 4096 < s.pcc then s.yieldTask c else s)
  | none => .next s

/-- Does the deadline trap stand (R122)? -/
def deadlineDue (s : State) (c : Nat) : Bool :=
  let k := s.core c
  k.phase == .running && !k.ct.sup && k.dlArmed && k.failed.isNone && (s.reg (0x100 + 8 * s.crClass k.crid)).getLsbD 0 &&
    decide (s.crDeadline k.crid + s.qGrace k.popQ < s.pcc)

/-- DEADLINE_TRAP (R122). -/
def execDeadlineTrap (s : State) : Host.Outcome State Fault Refusal :=
  let c := s.unit
  .next (if deadlineDue s c then (s.modCore c fun k => { k with dlArmed := false }).raiseCt c FCode.deadline 0 0#64 else s)

end Sys2Proof.Machine
end

