-- ==== Sys2Proof/Machine/Drain.lean ====
section
/-!
DEFINITION. The drain engine (10): the value drained (R295 to R298), the words of R302 to R307, and the acceptance of words in flight
(R294), Bench updates and window entries among them (07 R231, R233, R238).
-/

namespace Sys2Proof.Machine

/-! ## Fields (R302) -/

/-- The fields of a DX word that a form uses. -/
structure DxUse where
  acc : Bool := false
  slot : Bool := false
  sd : Bool := false
  rm : Bool := false
  fmt : Bool := false
  cb : Bool := false
  vi : Bool := false
  sub : Bool := false
  imm : Bool := false

def DxUse.breaks (u : DxUse) (f : DxWord) : Bool :=
  f.z32 != 0#6 || (!u.acc && f.acc != 0#8) || (!u.slot && f.slot != 0#6) || (!u.sd && f.sd != 0#4) || (!u.rm && f.rm != 0#3) ||
  (!u.fmt && f.fmt != 0#8) || (!u.cb && f.cb != 0#4) || (!u.vi && f.vi != 0#5) || (!u.sub && f.sub != 0#4) ||
  (!u.imm && f.imm != 0#32)

def DxUse.illop (u : DxUse) (f : DxWord) (range : Bool) : Option Nat :=
  if u.breaks f then some 0x11 else if range then some 0x12 else none

/-- The four drain words. -/
inductive DrainKind where
  | plain | mx | mom | cmpr
deriving DecidableEq, Repr

/-- Does a drain word accept a format (R302)? -/
def DrainKind.takes (k : DrainKind) (f : Nat) : Bool :=
  match k with
  | .plain =>
    f == 0x01 || f == 0x02 || f == 0x03 || f == 0x04 || f == 0x05 || f == 0x06 || f == 0x10 || f == 0x11 || f == 0x12 ||
      f == 0x13 || f == 0x14 || f == 0x40
  | .mx => isMx f
  | .mom => f == 0x30 || f == 0x31
  | .cmpr => isSmb f

/-- Does the word work on blocks of 32? -/
def DrainKind.blocks (k : DrainKind) : Bool := k == .mx || k == .cmpr

/-- DEST, CLR, TO and TL of a drain word. -/
def toSlot (f : DxWord) : Bool := f.sub.getLsbD 0
def clears (f : DxWord) : Bool := f.sub.getLsbD 1
def trapOvf (f : DxWord) : Bool := f.sub.getLsbD 2
def trapLoss (f : DxWord) : Bool := f.sub.getLsbD 3

/-- DSCALE (R295). -/
def dscale (f : DxWord) : FVal := fp32 f.imm

/-- The checks of a drain word on its fields alone (R302, R309). -/
def drainIllop (k : DrainKind) (f : DxWord) : Option Nat :=
  DxUse.illop { acc := true, slot := toSlot f, sd := !toSlot f, rm := true, fmt := true, vi := f.rm == 6#3, sub := true, imm := true } f
    (f.rm == 7#3 || !(dscale f).isFin || (k == .mom && f.acc.getLsbD 0) || (k == .cmpr && toSlot f && decide (62 < f.slot.toNat)) ||
      (k == .plain && f.fmt == 0x40#8 && (f.rm != 0#3 || f.imm != 0x3F800000#32 || trapOvf f || trapLoss f)))

/-! ## The value drained (R295 to R298) -/

/-- Fault codes of one element, the lowest first. -/
def leastFault : List Flt → Option Flt
  | [] => none
  | f :: t =>
    match leastFault t with
    | none => some f
    | some g => if g.code < f.code then some g else some f

/-- The poison fault of a tile element (R275, R297). -/
def poisonOf (t : Tile) (i : Nat) : List Flt :=
  match Tbl.find t.poison i with
  | none => []
  | some c => [⟨c, if c = FCode.fmtbad then 2 else 0⟩]

/-- The faults of element `i` of a tile, and its value; none stands for OVFVAL (R295). -/
def drainElem (t : Tile) (i : Nat) (tov tl : Bool) (d : FVal) : List Flt × Option FVal :=
  let x := t.ra i
  if x.overflows then (poisonOf t i ++ (if tov then [⟨FCode.accovf, 1⟩] else []), none)
  else
    (poisonOf t i ++ (if x.loss && tl then [⟨FCode.accovf, 2⟩] else []),
     some (FVal.ofQ (Q.mul (Q.mul (Q.ofInt x.crt) (Q.pow2 t.anchor)) d.toQ)))

/-- The mode of RM with a draw. -/
def drainMode (f : DxWord) (u : Nat) : RMode := (RMode.ofNat f.rm.toNat u).getD .rne

/-- A drained value in a format (R295, R296). -/
def drainCode (fmt : Nat) (m : RMode) (v : Option FVal) : Nat := roundElem fmt m (v.getD .nan)

/-- Is a rounded variance below zero (R304)? -/
def belowZero (fmt code : Nat) : Bool :=
  let v := codeVal (if fmt = 0x30 then 0x10 else 0x11) code
  !v.isNan && v.sign && !v.isZero

/-- Element `i` of a DRAIN or a DRAINM: its faults, its bits, and whether NVS is set (R303, R304). -/
def drainOne (k : DrainKind) (f : DxWord) (nvc : Bool) (x y : Tile) (ds : Array Nat) (i : Nat) : List Flt × Nat × Bool :=
  let d := dscale f
  let fmt := f.fmt.toNat
  match k with
  | .mom =>
    let h := if fmt = 0x30 then 0x10 else 0x11
    let a := drainElem x i (trapOvf f) (trapLoss f) d
    let b := drainElem y i (trapOvf f) (trapLoss f) (d.mul d)
    let mean := drainCode h (drainMode f (ds.getD (2 * i) 0)) a.2
    let var := drainCode h (drainMode f (ds.getD (2 * i + 1) 0)) b.2
    let below := b.2.isSome && belowZero fmt var
    (a.1 ++ b.1 ++ (if below && !nvc then [⟨FCode.negvar, 0⟩] else []),
     mean + (if below then 0 else var) * 2 ^ (fmtBits fmt / 2), below && nvc)
  | _ =>
    if fmt = 0x40 then
      let r := x.ra i
      (poisonOf x i, ({ r with ovf := r.overflows } : Ra).toNat, false)
    else
      let a := drainElem x i (trapOvf f) (trapLoss f) d
      (a.1, drainCode fmt (drainMode f (ds.getD i 0)) a.2, false)

/-- A block of 32 elements of a DRAINMX or a DCMPR: the element codes and the scale byte, or the code that holds the whole sparse-mask
block in the first element (R299, R300). -/
def drainBlock (f : DxWord) (x : Tile) (ds : Array Nat) (es : List Nat) : List (Option Nat) × Nat :=
  let fmt := f.fmt.toNat
  let vs := es.map fun i => (drainElem x i (trapOvf f) (trapLoss f) (dscale f)).2
  let ms := es.map fun i => drainMode f (ds.getD i 0)
  if isMx fmt then
    let r := mxBlock fmt vs ms
    (r.2.map some, r.1)
  else
    let b := smbBlock fmt (List.zipWith (fun v m => drainCode fmt m v) vs ms)
    (some b :: (es.drop 1).map fun _ => none, 0)

/-! ## Issue -/

/-- Slots that a word in flight writes. -/
def DrStore.slotsOf (w : DrStore) : List Nat :=
  match w.work with
  | .slots l => l.map (·.1)
  | .update _ _ _ (some (n, _, _)) => [n]
  | _ => []

/-- Can no more drain and store words be issued, sixteen of them being in flight, updates of the Bench not counted (R294), or must this
one see the effect of one in flight on a slot (R20)? -/
def drBusy (k : Core) (reads : List Nat) : Bool :=
  decide (16 ≤ (k.stores.filter fun w => !w.updates).length) || k.stores.any fun w => w.slotsOf.any reads.contains

/-- The word being issued is in flight with the work given. -/
def sendDr (s : State) (c : Nat) (desc : List Word) (work : DrWork) : State :=
  let g := (s.core c).dr.place
  let x : DrStore := { w := s.issuing c .dr, sec := g.1, widx := g.2, desc := desc, work := work }
  (s.launch c .dr).modCore c fun k => { k with stores := k.stores ++ [x] }

/-- DR's issue is held for the occupancy of the word (R294). -/
def occupy (s : State) (c n : Nat) : State := s.modEng c .dr fun g => { g with busyTo := s.pcc + n }

/-- Check 1 of R301, of a tile written in format `fmt`; the rank is none when the object cannot be looked up. -/
def destShape (d : List Word) (fmt : Nat) (rank : Option Nat) (tr tc : Nat) : Bool :=
  decide (16 < tr) || decide (64 < tc) ||
    ((isMx fmt || isSmb fmt) &&
      ((rank.map fun r => Desc.cax d + 1 != r).getD false || (tc != 32 && tc != 64) || nth 0 (Desc.cur d) (Desc.cax d) % 32 != 0))

/-- A draft that has become a version since the descriptor was bound to it (log entry 21). -/
def Desc.published (d : List Word) : Bool := (Desc.w d 1).getLsbD 1

/-- Check 3 of R301: VERGONE of a store through the descriptor. Of an object that cannot be looked up, only the version that the
descriptor names is known: 0 may be a Bench object. -/
def destVer (s : State) (c : Nat) (d : List Word) (l : Option Layout) : Option Flt :=
  if Desc.gone d || Desc.published d then some ⟨FCode.vergone, 2⟩
  else if Desc.draft d || (match l with
    | some l => l.bench && s.benchHere (s.principal c) l
    | none => Desc.ver d == 0) then none
  else some ⟨FCode.vergone, 4⟩

/-- The elements of a tile that are not skipped under PAD (R301): (r, c) and the tuple; all of them when the object cannot be looked
up. -/
def destCells (d : List Word) (l : Option Layout) : List (Nat × Nat × List Nat) :=
  (tab (Desc.tr d * Desc.tc d) fun n => (n / Desc.tc d, n % Desc.tc d, Desc.tuple d (n / Desc.tc d) (n % Desc.tc d))).filter fun e =>
    match l with
    | some l => !Desc.zeroed d l e.2.2
    | none => true

/-- The layout behind a descriptor, when its handle can be looked up. -/
def descLayout (s : State) (c : Nat) (d : List Word) : Option Layout :=
  if !Desc.bound d then none
  else
    match s.lookup (s.principal c) (Desc.handle d) with
    | .ok l => some l
    | .bad _ => none

/-- The fault of an element, with its tuple, behind a descriptor whose handle cannot be looked up. -/
def descFlt (s : State) (c : Nat) (d : List Word) (t : List Nat) : Flt :=
  match s.lookupEl (s.principal c) (Desc.handle d) (fun _ => t) with
  | .ok _ => ⟨FCode.missobj, 1⟩
  | .bad f => f

/-- Scale bytes of the blocks written: at the place of each block's first element, or of each element in a KV page (R191, R301). -/
def scalesFor (l : Layout) (ts : List (List Nat)) (sc : Nat) : List (List Nat × Nat) :=
  (if l.tord = 3 then ts else ts.take 1).map fun t => (t, sc)

/-- What a drain word computes at issue from the tiles it has read: a fault, or the elements written with their numbers and the blocks'
scales, and NVS. -/
def drainResult (k : DrainKind) (f : DxWord) (nvc : Bool) (x y : Tile) (seed : Nat) (cells : List (Nat × List Nat)) :
    (Flt × Nat) ⊕ (List (Nat × List Nat × Option Nat) × List (List (List Nat) × Nat) × Bool) :=
  let ds := (if f.rm = 6#3 then draws (if k = .mom then 2048 else 1024) (seedOf seed) else []).toArray
  if k.blocks then
    let bad := cells.findSome? fun e =>
      (leastFault (drainElem x e.1 (trapOvf f) (trapLoss f) (dscale f)).1).map fun t => (t, e.1)
    match bad with
    | some b => .inl b
    | none =>
      let rs := (chunks 32 128 cells).map fun g => (g, drainBlock f x ds (g.map (·.1)))
      .inr ((rs.map fun r => List.zipWith (fun e v => (e.1, e.2, v)) r.1 r.2.1).flatten,
        if k = .mx then rs.map fun r => (r.1.map (·.2), r.2.2) else [], false)
  else
    let rs := cells.map fun e => (e, drainOne k f nvc x y ds e.1)
    match rs.findSome? fun r => (leastFault r.2.1).map fun t => (t, r.1.1) with
    | some b => .inl b
    | none => .inr (rs.map fun r => (r.1.1, r.1.2, some r.2.2.1), [], rs.any fun r => r.2.2.2)

/-- The slots that a drain word writes (R301). -/
def drainSlots (k : DrainKind) (f : DxWord) (els : List (Nat × List Nat × Option Nat)) (scales : List (List (List Nat) × Nat)) :
    List (Nat × Slot) :=
  let fmt := f.fmt.toNat
  let n := f.slot.toNat
  if k = .cmpr then
    let bs := els.filterMap fun e => e.2.2.map fun v => (e.1, v)
    let half := fun (h : Nat) => bs.filterMap fun e => if e.1 / 32 % 2 = h then some e.2 else none
    [(n, smbSlot fmt 16 (half 0)), (n + 1, smbSlot fmt 16 (half 1))]
  else [(n, rawSlot fmt 16 64 (els.map fun e => e.2.2.getD 0) (scales.map (·.2)))]

/-- The commit of a drain word at issue: NVS, the .clr writes, the work in flight, its occupancy. -/
def drainCommit (k : DrainKind) (f : DxWord) (c : Nat) (d : List Word) (work : DrWork) (nvs : Bool) (s : State) : State :=
  let s1 := if nvs then s.modCore c fun q => { q with mctl := q.mctl ||| 0x200#32 } else s
  let t := f.acc.toNat
  let s2 :=
    if clears f then
      s1.modCore c fun q =>
        let ts := Tbl.erase q.tiles t
        { q with tiles := if k = .mom then Tbl.erase ts (t + 1) else ts }
    else s1
  occupy (sendDr s2 c d work) c (if k = .mom then 64 else 32)

/-- DRAIN, DRAINMX, DRAINM and DCMPR (R303, R304). -/
def drainWord (k : DrainKind) (f : DxWord) (c : Nat) (s : State) : Iss :=
  let q := s.core c
  let fmt := f.fmt.toNat
  let t := f.acc.toNat
  let d := q.desc f.sd.toNat
  let v := f.vi.toNat
  let l := if toSlot f then none else descLayout s c d
  let cold := !q.awakeA t || (f.rm == 6#3 && !q.awakeV v)
  let shape :=
    if toSlot f then k.takes fmt && k != .cmpr && decide (0x1FF0 < rawEnd fmt 1024)
    else Desc.bound d && destShape d (if k.blocks then fmt else (l.map (·.fmt)).getD 0) (l.map (·.rank)) (Desc.tr d) (Desc.tc d)
  let seed := if q.deadV v then 0 else nth 0 (q.physV v) 0
  let seedBad := f.rm == 6#3 && !q.deadV v && q.poisV v 0
  if drBusy q [] then .stall .none s
  else if shape then .flt FCode.illop 0x32 noElem
  else if cold then .flt FCode.regcold 0 noElem
  else if !toSlot f && !Desc.bound d then .flt FCode.missobj 1 noElem
  else if !k.takes fmt then .flt FCode.fmtbad 1 noElem
  else if !toSlot f && !s.walkReady (s.principal c) (Desc.handle d) then .stall .none s
  else
    let ver : Option Flt :=
      if toSlot f then none
      else if (l.map fun l => l.fmt != fmt).getD false then some ⟨FCode.fmtbad, 6⟩
      else destVer s c d l
    match ver with
    | some e => .flt e.code e.detail noElem
    | none =>
      if toSlot f then
        match drainResult k f (q.mctl.getLsbD 2) (q.tile t) (q.tile (t + 1)) seed (tab 1024 fun i => (i, [])) with
        | .inl (e, i) => if seedBad && i != 0 then .flt FCode.uncorr 0 (elemNo 0) else .flt e.code e.detail (elemNo i)
        | .inr (els, sc, nvs) =>
          if seedBad then .flt FCode.uncorr 0 (elemNo 0)
          else .go (drainCommit k f c [] (.slots (drainSlots k f els sc)) nvs s)
      else
        let cells := (destCells d l).map fun e => (64 * e.1 + e.2.1, e.2.2)
        match l with
        | none =>
          (match drainResult k f (q.mctl.getLsbD 2) (q.tile t) (q.tile (t + 1)) seed cells with
           | .inl (e, i) => if seedBad && i != 0 then .flt FCode.uncorr 0 (elemNo 0) else .flt e.code e.detail (elemNo i)
           | .inr (_, _, nvs) =>
             let e := descFlt s c d (Desc.tuple d 0 0)
             if seedBad then .flt FCode.uncorr 0 (elemNo 0) else .go (drainCommit k f c d (.lost false e.code e.detail 0) nvs s))
        | some l =>
          match drainResult k f (q.mctl.getLsbD 2) (q.tile t) (q.tile (t + 1)) seed cells with
          | .inl (e, i) => if seedBad && i != 0 then .flt FCode.uncorr 0 (elemNo 0) else .flt e.code e.detail (elemNo i)
          | .inr (els, sc, nvs) =>
            if seedBad then .flt FCode.uncorr 0 (elemNo 0)
            else
              .go (drainCommit k f c d
                (.store (els.map fun e => { elem := e.1, t := e.2.1, val := e.2.2 })
                  ((sc.map fun b => scalesFor l b.1 b.2).flatten)) nvs s)

/-- DRAIN (R303). -/
def execDrain (g : Guard) (f : DxWord) (s : State) : Host.Outcome State Fault Refusal :=
  issueWord g 1 (fun _ _ => drainIllop .plain f) (fun c _ s => drainWord .plain f c s) s

/-- DRAINMX (R299, R303). -/
def execDrainmx (g : Guard) (f : DxWord) (s : State) : Host.Outcome State Fault Refusal :=
  issueWord g 1 (fun _ _ => drainIllop .mx f) (fun c _ s => drainWord .mx f c s) s

/-- DRAINM (R304). -/
def execDrainm (g : Guard) (f : DxWord) (s : State) : Host.Outcome State Fault Refusal :=
  issueWord g 1 (fun _ _ => drainIllop .mom f) (fun c _ s => drainWord .mom f c s) s

/-- DCMPR (R300, R303). -/
def execDcmpr (g : Guard) (f : DxWord) (s : State) : Host.Outcome State Fault Refusal :=
  issueWord g 1 (fun _ _ => drainIllop .cmpr f) (fun c _ s => drainWord .cmpr f c s) s

/-! ## DSTORE and DSTSC (R305, R306) -/

/-- Is a byte of element `n` of a RAW or SMB slot poisoned? -/
def slotPois (x : Slot) (f total n : Nat) : Bool :=
  let (o, b, k) := Slot.rawPlace f n
  x.pois o ((b + k + 7) / 8) || (isMx f && x.pois (Slot.rawScaleAt f total n) 1)

/-- The elements that DSTORE or DSTSC writes, from (n, tuple) with n the tile index, and the scales of MX blocks. -/
def slotEls (x : Slot) (l : Layout) (cells : List (Nat × List Nat)) : List StEl × List (List Nat × Nat) :=
  let f := x.fmt
  let total := x.tr * x.tc
  let els := cells.map fun e =>
    ({ elem := e.1, t := e.2, val := if isSmb f && e.1 % 32 != 0 then none else some (x.rawCode f e.1) } : StEl)
  let scs :=
    if isMx f then
      cells.filterMap fun e =>
        if e.1 % 32 = 0 ∨ l.tord = 3 then some (e.2, (x.byte (Slot.rawScaleAt f total e.1)).toNat) else none
    else []
  (els, scs)

/-- The rows of a DSTSC that are not skipped, and its elements: tile index and linear index above the cursor's (R306). -/
def scatterCells (x : Slot) (vi : List Nat) : List (Nat × Nat) :=
  (tab (x.tr * x.tc) fun n => n).filterMap fun n =>
    let i := nth 0 vi (64 * (n / x.tc))
    if i = 2 ^ 32 - 1 then none else some (n, i + n % x.tc)

/-- The word-level checks of DSTORE that need the object or its descriptor, in R305's order; `l` is none when the lookup fails. -/
def dstoreCheck (s : State) (c : Nat) (d : List Word) (x : Slot) (l : Option Layout) : Option Flt :=
  if (l.map fun l => x.fmt != l.fmt).getD false then some ⟨FCode.fmtbad, 6⟩
  else if x.tr != Desc.tr d || x.tc != Desc.tc d || destShape d x.fmt (l.map (·.rank)) x.tr x.tc then some ⟨FCode.illop, 0x32⟩
  else destVer s c d l

/-- Those of DSTSC, the lowest code first (R38, R306). -/
def dstscCheck (s : State) (c : Nat) (d : List Word) (x : Slot) (l : Option Layout) : Option Flt :=
  match destVer s c d l with
  | some e => some e
  | none =>
    if x.form ≠ 0 ∧ x.form ≠ 3 then some ⟨FCode.fmtbad, 7⟩
    else if (l.map fun l => x.fmt != l.fmt).getD false then some ⟨FCode.fmtbad, 6⟩
    else if isMx x.fmt || isSmb x.fmt then some ⟨FCode.fmtbad, 1⟩
    else none

/-- The work of a DSTORE or a DSTSC whose checks have passed, from its elements (n, tuple): UNCORR of the first poisoned one, else the
store in flight. -/
def dstoreGo (c : Nat) (s : State) (d : List Word) (x : Slot) (l : Option Layout) (cells : List (Nat × List Nat))
    (row : Nat → Bool) : Iss :=
  match cells.find? fun e => slotPois x x.fmt (x.tr * x.tc) e.1 || row (e.1 / x.tc) with
  | some e => .flt FCode.uncorr 0 (elemNo e.1)
  | none =>
    match l with
    | some l =>
      let r := slotEls x l cells
      .go (sendDr s c d (.store r.1 r.2))
    | none =>
      match cells with
      | [] => .go (sendDr s c d (.store [] []))
      | n :: _ =>
        let e := descFlt s c d n.2
        .go (sendDr s c d (.lost false e.code e.detail n.1))

/-- The issue of a DSTORE (R305): the checks in their order, an unbound descriptor before an illegal tag (log entry 47), and the work in
flight. -/
def dstoreWord (f : DxWord) (c : Nat) (s : State) : Iss :=
  let q := s.core c
  let d := q.desc f.sd.toNat
  let x := Tbl.get {} q.slots f.slot.toNat
  if drBusy q [f.slot.toNat] then .stall .none s
  else if !Desc.bound d then .flt FCode.missobj 1 noElem
  else if x.form ≠ 0 ∧ x.form ≠ 3 then .flt FCode.fmtbad 7 noElem
  else if !s.walkReady (s.principal c) (Desc.handle d) then .stall .none s
  else
    let l := descLayout s c d
    match dstoreCheck s c d x l with
    | some e => .flt e.code e.detail noElem
    | none => dstoreGo c s d x l ((destCells d l).map fun e => (x.tc * e.1 + e.2.1, e.2.2)) fun _ => false

/-- The issue of a DSTSC (R306). -/
def dstscWord (f : DxWord) (c : Nat) (s : State) : Iss :=
  let q := s.core c
  let d := q.desc f.sd.toNat
  let x := Tbl.get {} q.slots f.slot.toNat
  let v := f.vi.toNat
  if drBusy q [f.slot.toNat] then .stall .none s
  else if Desc.bound d && (x.tc != Desc.tc d || decide (16 < x.tr)) then .flt FCode.illop 0x32 noElem
  else if !q.awakeV v then .flt FCode.regcold 0 noElem
  else if !Desc.bound d then .flt FCode.missobj 1 noElem
  else if !s.walkReady (s.principal c) (Desc.handle d) then .stall .none s
  else
    let l := descLayout s c d
    match dstscCheck s c d x l with
    | some e => .flt e.code e.detail noElem
    | none =>
      let r := layoutOf (Handle.home (Desc.handle d)) (s.layoutWords (s.principal c) (Desc.handle d))
      let cells := (scatterCells x (if q.deadV v then zeros else q.physV v)).map fun e =>
        (e.1, unlinear r.rank r.ext (linear r.rank r.ext (Desc.cur d) + e.2))
      dstoreGo c s d x l cells fun r => !q.deadV v && q.poisV v (64 * r)

/-- DSTORE (R305). -/
def execDstore (g : Guard) (f : DxWord) (s : State) : Host.Outcome State Fault Refusal :=
  issueWord g 1 (fun _ _ => DxUse.illop { slot := true, sd := true } f false) (fun c _ s => dstoreWord f c s) s

/-- DSTSC (R306). -/
def execDstsc (g : Guard) (f : DxWord) (s : State) : Host.Outcome State Fault Refusal :=
  issueWord g 1 (fun _ _ => DxUse.illop { slot := true, sd := true, vi := true } f false) (fun c _ s => dstscWord f c s) s

/-! ## Acceptance (R294) -/

/-- Elements with their places, or the first fault: its element, and its tuple. -/
inductive Placed where
  | ok (l : List (StEl × State.Place))
  | bad (elem : Nat) (f : Flt) (t : List Nat)

/-- Resolves every element of a store in order (R301). -/
def placeEls (s : State) (pr : Principal) (h : Word) (l : Layout) (need : Nat) (v : VSel) : List StEl → Placed
  | [] => .ok []
  | e :: t =>
    match s.resolve pr h l e.t need v with
    | .bad f => .bad e.elem f e.t
    | .ok p =>
      match placeEls s pr h l need v t with
      | .ok r => .ok ((e, p) :: r)
      | .bad i f u => .bad i f u

/-- The fault of the scale byte of an element, where the store writes one (R195). -/
def scaleFault (s : State) (h : Word) (l : Layout) (v : VSel) (scaled : Bool) (t : List Nat) : Option Flt :=
  if scaled then
    match s.scalePlace (Handle.key h) l t v with
    | .ok _ => none
    | .bad f => some f
  else none

/-- Resolves every element of a store and, with `scaled`, the byte of its scale: the lowest element that has a fault, and of its two faults
the lower code (R301, R357). -/
def placeScaled (s : State) (pr : Principal) (h : Word) (l : Layout) (v : VSel) (scaled : Bool) : List StEl → Placed
  | [] => .ok []
  | e :: t =>
    match s.resolve pr h l e.t Right.write v, scaleFault s h l v scaled e.t with
    | .bad f, some g => .bad e.elem (if g.code < f.code then g else f) e.t
    | .bad f, none => .bad e.elem f e.t
    | .ok _, some g => .bad e.elem g e.t
    | .ok p, none =>
      match placeScaled s pr h l v scaled t with
      | .ok r => .ok ((e, p) :: r)
      | .bad i f u => .bad i f u

namespace State

/-- The oldest DR word has retired. -/
def landStore (s : State) (c : Nat) (x : DrStore) : State :=
  (s.modCore c fun k => { k with stores := k.stores.drop 1, poolNote := false }).modEng c .dr fun g => landWord g x.sec

/-- The oldest DR word has faulted: it writes nothing, and is kept (R36, R294). -/
def failStore (s : State) (c : Nat) (x : DrStore) (f : Flt) (elem : BitVec 32) : State :=
  let s := (s.modCore c fun k => { k with stores := k.stores.drop 1, poolNote := false }).modEng c .dr fun g => stickWord g x.sec
  s.raiseLate c .dr f.code f.detail elem { sec := x.sec, widx := x.widx, w0 := x.w, w1 := 0#96, w2 := 0#96 }

/-- The version that a store names (R187, R301). -/
def destSel (d : List Word) : VSel := if Desc.gone d || Desc.published d then .gone else Desc.sel d

/-- Places and values that a store writes: those of its elements, then those of the scales of their blocks. -/
def putsOf (s : State) (h : Word) (l : Layout) (v : VSel) (ps : List (StEl × Place)) (scales : List (List Nat × Nat)) : List (Place × Nat) :=
  (ps.filterMap fun e => e.1.val.map fun x => (e.2, x)) ++
    scales.filterMap fun e => match s.scalePlace (Handle.key h) l e.1 v with
      | .ok p => some (p, e.2)
      | .bad _ => none

/-- Protection words that places cover whole, bit by bit, are written anew and poisoned no more (R408, R457). -/
def cleanWhole (s : State) (ps : List Place) : State :=
  if s.poison.isEmpty then s
  else
    let whole := fun (w : Nat) =>
      let of := (ps.filter fun p => decide (w ≤ p.key) && decide (p.key + (p.bit + p.bits) / 8 ≤ w + protSize w)).eraseDups
      decide (8 * protSize w ≤ (of.map (·.bits)).sum)
    { s with poison := s.poison.filter fun w => !whole w }

/-- Writes elements at their places, and the scales of their blocks. -/
def putEls (s : State) (h : Word) (l : Layout) (v : VSel) (ps : List (StEl × Place)) (scales : List (List Nat × Nat)) : State :=
  let puts := s.putsOf h l v ps scales
  (puts.foldl (fun s e => s.storePlace e.1 e.2) s).cleanWhole (puts.map (·.1))

/-- The pages that a store touches. -/
def pagesOf (s : State) (h : Word) (l : Layout) (v : VSel) (ps : List (StEl × Place)) (scales : List (List Nat × Nat)) : List Nat :=
  let own := ps.map fun e => e.2.page
  let sc := scales.filterMap fun e => match s.scalePlace (Handle.key h) l e.1 v with
    | .ok p => some p.page
    | .bad _ => none
  (own ++ sc).eraseDups

/-- Does a scale byte to be written stand on a locked page (R428)? -/
def scalesLocked (s : State) (h : Word) (l : Layout) (v : VSel) (scales : List (List Nat × Nat)) : Bool :=
  scales.any fun e => match s.scalePlace (Handle.key h) l e.1 v with
    | .ok p => s.pageLocked p.key
    | .bad _ => false

/-- A store into an object, accepted (R301, R308): it waits while a page is locked (R428) or a frame is wanting (R157). -/
def acceptStore (s : State) (c : Nat) (x : DrStore) (l : Layout) (els : List StEl) (scales : List (List Nat × Nat)) : State :=
  let h := Desc.handle x.desc
  let pr := s.principal c
  let v := destSel x.desc
  match placeScaled s pr h l v (!scales.isEmpty) els with
  | .bad i f t => (s.noteMiss h l t v f).failStore c x f (elemNo i)
  | .ok ps =>
    if ps.any (fun (e : StEl × Place) => s.pageLocked e.2.key) || s.scalesLocked h l v scales then s
    else
      let s0 := if l.bench then s.settle c else s
      match s0.ownPages ((s0.pagesOf h l v ps scales).map fun p => (Handle.key h, p)) with
      | none => s.waitPool c (s.poolOf l (nth 0 (s0.pagesOf h l v ps scales) 0))
      | some s1 =>
        match placeScaled s1 pr h l v (!scales.isEmpty) els with
        | .bad i f _ => s.failStore c x f (elemNo i)
        | .ok ps => (s1.putEls h l v ps scales).landStore c x

/-- The request for the update of an element (R225). -/
def reqOf (s : State) (c : Nat) (h : Word) (l : Layout) (op : Nat) (e : StEl) (p : Place) (cmp : Nat) (win : Bool) : BankReq :=
  { core := c, crid := (s.core c).crid, key := Handle.key h, gen := Handle.gen h, pa := p.key, size := p.bits / 8, op := op
    fmt := l.fmt, x := e.val.getD 0, cmp := cmp, win := win }

/-- A BKUPD, accepted (R231): its updates are sent; with RET each is applied at once, and the old values fill the slot. -/
def acceptUpdate (s : State) (c : Nat) (x : DrStore) (l : Layout) (op : Nat) (els : List StEl) (cmp : List Nat)
    (ret : Option (Nat × Nat × Nat)) : State :=
  let h := Desc.handle x.desc
  let pr := s.principal c
  let need := if ret.isSome then Right.read + Right.write else Right.write
  match placeEls s pr h l need (Desc.sel x.desc) els with
  | .bad i f t => (s.noteMiss h l t (Desc.sel x.desc) f).failStore c x f (elemNo i)
  | .ok ps =>
    let reqs : List (Nat × BankReq) := (ps.zip (List.range ps.length)).map fun e => (e.1.1.elem, s.reqOf c h l op e.1.1 e.1.2 (nth 0 cmp e.2) false)
    match ret with
    | none => State.landStore { s with bankq := s.bankq ++ reqs.map Prod.snd } c x
    | some (n, tr, tc) =>
      let s0 := s.settle c
      let r := reqs.foldl (fun (a : State × List (Nat × Nat) × List Nat) (q : Nat × BankReq) =>
        let off := q.1 * q.2.size
        (a.1.applyReq q.2, (q.1, a.1.num q.2.pa q.2.size) :: a.2.1,
         if a.1.poisoned q.2.pa q.2.size then (List.range ((q.2.size + 7) / 8)).map (fun i => off / 8 * 8 + 8 * i) ++ a.2.2 else a.2.2))
        (s0, [], [])
      let codes := (r.2.1.foldl (fun (a : Array Nat) e => a.setIfInBounds e.1 e.2) (List.replicate (tr * tc) 0).toArray).toList
      let slot := { rawSlot l.fmt tr tc codes [] with poison := r.2.2 }
      (r.1.modCore c fun k => { k with slots := Tbl.put k.slots n slot }).landStore c x

/-- One entry passes into the merge window (R233); an entry that leaves goes to its bank. -/
def passEntry (s : State) (c : Nat) (h : Word) (l : Layout) (b : WinBind) (lin x : Nat) : State :=
  let k := s.core c
  if k.win.any fun e => e.lin = lin then
    s.modCore c fun k => { k with win := k.win.map fun e =>
      if e.lin = lin then { e with val := BitVec.ofNat 32 (bankOp b.op b.fmt e.val.toNat x 0) } else e }
  else
    let new : WinEntry := { lin := lin, val := BitVec.ofNat 32 x }
    match k.win with
    | old :: rest =>
      if 64 ≤ k.win.length then
        let t := unlinear l.rank l.ext old.lin
        let base := 0x60000000000 + benchDie l * 2 ^ 32 + l.proot * 4096 % 2 ^ 40
        let p : Place := { key := base + (elemBit l l.ext t).1 / 8, bit := 0, bits := 32, page := 0 }
        let r := { s.reqOf c h l b.op { elem := 0, t := t, val := some old.val.toNat } p 0 true with fmt := b.fmt }
        { s with bankq := s.bankq ++ [r] }.modCore c fun k => { k with win := rest ++ [new] }
      else s.modCore c fun k => { k with win := k.win ++ [new] }
    | [] => s.modCore c fun k => { k with win := [new] }

/-- An XACC, accepted (R238): each element is the linear index of an entry; every entry is checked before any passes. -/
def acceptEntries (s : State) (c : Nat) (x : DrStore) (l : Layout) (b : WinBind) (els : List StEl) : State :=
  let pr := s.principal c
  let h := b.handle
  match placeEls s pr h l Right.write .live (els.map fun e => { e with t := unlinear l.rank l.ext (nth 0 e.t 0) }) with
  | .bad i f t => (s.noteMiss h l t .live f).failStore c x f (elemNo i)
  | .ok _ => (els.foldl (fun s e => s.passEntry c h l b (nth 0 e.t 0) (e.val.getD 0)) s).landStore c x

/-- The oldest DR word of a core is accepted (R294).  A KVAPP is accepted by KVAPP_APPLY. -/
def acceptWord (s : State) (c : Nat) : State :=
  match (s.core c).stores with
  | [] => s
  | x :: _ =>
    let pr := s.principal c
    let withObj := fun (h : Word) (els : List StEl) (go : Layout → State) =>
      if !s.walkReady pr h then s
      else
        match s.lookupEl pr h (fun l =>
          match els, x.work with
          | [], _ => []
          | e :: _, .entries _ => unlinear l.rank l.ext (nth 0 e.t 0)
          | e :: _, _ => e.t) with
        | .ok l => go l
        | .bad f =>
          match els with
          | [] => s.landStore c x
          | e :: _ => s.failStore c x f (elemNo e.elem)
    match x.work with
    | .slots ws => (s.modCore c fun k => { k with slots := ws.foldl (fun t w => Tbl.put t w.1 w.2) k.slots }).landStore c x
    | .store els scales => withObj (Desc.handle x.desc) els fun l => s.acceptStore c x l els scales
    | .update op els cmp ret => withObj (Desc.handle x.desc) els fun l => s.acceptUpdate c x l op els cmp ret
    | .entries els =>
      (match (s.core c).winBind with
       | some b => withObj b.handle els fun l => s.acceptEntries c x l b els
       | none => s.landStore c x)
    | .token _ _ => s
    | .lost _ code detail elem => s.failStore c x ⟨code, detail⟩ (elemNo elem)

end State

/-- DR_STORE_ACCEPT (R294). -/
def execDrStoreAccept (s : State) : Host.Outcome State Fault Refusal := .next (s.acceptWord s.unit)

/-! ## DBARS (R307, R355) -/

/-- DBARS.FULL may act. -/
def dbarsReady (k : Core) (b : Nat) : Bool := k.stores.isEmpty && !k.full b && !k.owned b

/-- DBARS.WAIT may retire. -/
def dbarsFree (k : Core) (b : Nat) : Bool := !k.full b && !k.owned b

/-- DBARS.FULL (R307). -/
def execDbarsFull (g : Guard) (f : DxWord) (s : State) : Host.Outcome State Fault Refusal :=
  issueWord g 1 (fun _ _ => DxUse.illop { cb := true, sub := true } f (decide (1 < f.sub.toNat)))
    (fun c _ s =>
      if dbarsReady (s.core c) f.cb.toNat then .go (s.modCore c fun k => k.setCb f.cb.toNat true) else .stall .dbarsFull s) s

/-- DBARS.WAIT (R307). -/
def execDbarsWait (g : Guard) (f : DxWord) (s : State) : Host.Outcome State Fault Refusal :=
  issueWord g 1 (fun _ _ => DxUse.illop { cb := true, sub := true } f (decide (1 < f.sub.toNat)))
    (fun c _ s => if dbarsFree (s.core c) f.cb.toNat then .go s else .stall .dbarsWait s) s

/-- DBARS_RELEASE (R307): a held DBARS that may act acts and retires. -/
def execDbarsRelease (s : State) : Host.Outcome State Fault Refusal :=
  let c := s.unit
  let k := s.core c
  match k.dr.hold, headInstr s c .dr with
  | .dbarsFull, some (.dbarsFull _ f) =>
    if dbarsReady k f.cb.toNat then
      .next ((s.modCore c fun k => k.setCb f.cb.toNat true).issued c .dr 1 k.dr.place.2)
    else .next s
  | .dbarsWait, some (.dbarsWait _ f) => if dbarsFree k f.cb.toNat then .next (s.issued c .dr 1 k.dr.place.2) else .next s
  | _, _ => .next s

/-- Is DR held at a DBARS that nothing will release, the control sequencer being in RDV or waiting as RDV does (R120, R307)? -/
def dbarsStuck (s : State) (c : Nat) : Bool :=
  let k := s.core c
  let stuck := fun (b : Nat) =>
    k.forkOut && joining s c && !k.dr.fault.v && k.full b && !k.owned b && !jobWillSet s c b false &&
      !k.cbPend.any fun p => p.2.1 == b && !p.2.2.1
  match k.dr.hold, headInstr s c .dr with
  | .dbarsFull, some (.dbarsFull _ f) => stuck f.cb.toNat
  | .dbarsWait, some (.dbarsWait _ f) => stuck f.cb.toNat
  | _, _ => false

/-- DBARS_STALL_DETECT (R307). -/
def execDbarsStallDetect (s : State) : Host.Outcome State Fault Refusal :=
  let c := s.unit
  .next (if dbarsStuck s c then s.raiseEng c .dr FCode.illop 0x50 noElem else s)

end Sys2Proof.Machine
end

