-- ==== Sys2Proof/Machine/Matrix.lean ====
section
/-!
DEFINITION. The matrix engine (09): the plane-residue product (R273 to R275), anchors (R276), the queue with its stamps (R28, R29,
R278 to R283) and the commands of R284 to R290.
-/

namespace Sys2Proof.Machine

/-! ## Tiles -/

namespace Ra

def neg (r : Ra) : Ra := { r with a1 := (m1 - r.a1) % m1, a2 := (m2 - r.a2) % m2, a3 := (m3 - r.a3) % m3, c := (257 - r.c) % 257 }

/-- Are the three residues zero (R274)? -/
def vanishes (r : Ra) : Bool := r.a1 == 0 && r.a2 == 0 && r.a3 == 0

/-- The flags of one element ORed into another (R287, R290). -/
def orFlags (r t : Ra) : Ra := { r with ovf := r.ovf || t.ovf, loss := r.loss || t.loss, mom := r.mom || t.mom }

/-- The residues of an integer with the flags of an element. -/
def withInt (r : Ra) (y : Int) : Ra := { Ra.ofInt y with ovf := r.ovf, loss := r.loss, mom := r.mom }

/-- The move of an element from anchor `a` to anchor `b` (R276). -/
def move (r : Ra) (a b : Int) : Ra :=
  if b ≤ a then r.shift (a - b).toNat
  else
    let y := r.crt
    let n := (b - a).toNat
    let y2 := y / 2 ^ n
    { Ra.ofInt y2 with ovf := r.ovf || imod y 257 != r.c, loss := r.loss || y2 * 2 ^ n != y, mom := r.mom }

/-- A term P × 2^s added to an element, or dropped below the anchor (R274). -/
def addTerm (x p : Ra) (sh : Int) : Ra :=
  if 0 ≤ sh then x.add (p.shift sh.toNat) else if p.vanishes then x else { x with loss := true }

end Ra

/-- The 1,024 elements of a tile. -/
def Tile.list (t : Tile) : List Ra := tab 1024 t.ra

/-- A tile from its elements; an element that is zero with clear flags is not listed. -/
def Tile.build (anc : Int) (poison : Tbl Nat) (els : List Ra) : Tile :=
  { els := ((List.range 1024).zip els).filterMap fun e => if e.2.toNat = 0 then none else some (e.1, BitVec.ofNat 128 e.2.toNat)
    poison := poison, anc := BitVec.ofInt 16 anc, valid := true }

/-- A mark added to an element: the lower of two causes stays (R38, R275). -/
def markEl (p : Tbl Nat) (i c : Nat) : Tbl Nat := Tbl.put p i (min c (Tbl.get c p i))

/-- The marks of one tile added to those of another. -/
def markAll (p q : Tbl Nat) : Tbl Nat := q.foldl (fun p e => markEl p e.1 e.2) p

def Core.setTile (k : Core) (n : Nat) (t : Tile) : Core :=
  { k with tiles := if t.valid then Tbl.put k.tiles n t else Tbl.erase k.tiles n }

/-! ## Operands (R273, R202) -/

/-- A row of the residue side: its exponent pattern, the residues of its 32 integers, the cause of its poison. -/
structure RowOp where
  e : Nat
  q : List Ra
  bad : Option Nat

/-- A column of the plane side: its exponent pattern, its planes as masks over k, and whether it is poisoned. -/
structure ColOp where
  e : Nat
  planes : List Nat
  bad : Bool

/-- The bytes of a slot, for reading many of them. -/
def Slot.array (x : Slot) : Array Byte :=
  (if x.valid then x.bytes else []).foldl (fun a e => a.setIfInBounds e.1 e.2) (Array.replicate 8192 0#8)

def arrNum (a : Array Byte) (off n : Nat) : Nat := leNat (tab n fun i => a.getD (off + i) 0#8)

/-- Exponent pattern and integers of a block as a row. -/
def blockRow (b : Nat × List Int) (bad : Option Nat) : RowOp := { e := b.1, q := b.2.map Ra.ofInt, bad := bad }

/-- A row of a residue-form slot. -/
def resRow (x : Slot) (a : Array Byte) (m : Nat) : RowOp :=
  { e := arrNum a (0x1C00 + 2 * m) 2
    q := tab 32 fun k =>
      let o := 32 * m + k
      { a1 := arrNum a (12 * o) 4, a2 := arrNum a (12 * o + 4) 4, a3 := arrNum a (12 * o + 8) 4, c := arrNum a (0x1800 + 2 * o) 2
        ovf := false, loss := false, mom := false }
    bad := if x.pois (384 * m) 384 || x.pois (0x1800 + 64 * m) 64 || x.pois (0x1C00 + 2 * m) 2 then some FCode.uncorr else none }

/-- A row of an SMB slot as the read port expands it (R203). -/
def smbRow (x : Slot) (a : Array Byte) (m : Nat) : RowOp :=
  let n := if x.fmt = 0x41 then 16 else 32
  let blk := arrNum a (n * m) n
  let cs := tab 32 fun j => smbElem x.fmt blk j
  let bad := if cs.any (·.isNone) then some FCode.fmtbad else if x.pois (n * m) n then some FCode.uncorr else none
  blockRow (blockInt 32 (cs.map fun c => codeVal x.fmt (c.getD 0))) bad

/-- The rows of a residue-side slot. -/
def Slot.rows (x : Slot) : List RowOp :=
  let a := x.array
  tab 16 fun m => if x.form = 3 then smbRow x a m else resRow x a m

/-- The columns of a plane-side slot; a plane word holds bits of every column. -/
def Slot.cols (x : Slot) (pl : Nat) : List ColOp :=
  let a := x.array
  let words := (tab (32 * pl) fun i => arrNum a (8 * i) 8).toArray
  let bad := x.pois 0 (256 * pl)
  tab 64 fun n =>
    { e := arrNum a (0x1900 + 2 * n) 2
      planes := tab pl fun b => ofBits (tab 32 fun k => bitOf (words.getD (pl * k + b) 0) n)
      bad := bad || x.pois (0x1900 + 2 * n) 2 }

/-! ## The product (R274, R275) -/

/-- The sum of the integers whose bit of a plane is set, in residues. -/
def planeSum : List Ra → Nat → Ra → Ra
  | [], _, acc => acc
  | q :: t, mask, acc => planeSum t (mask / 2) (if mask % 2 = 1 then acc.add q else acc)

/-- Exponents are signed 16-bit patterns. -/
def expo (e : Nat) : Int := signExt e 16

/-- The planes of a column against a row, from plane `b` on; `last` is the sign plane. -/
def planeGo (row : RowOp) (base : Int) (last : Nat) : Nat → List Nat → Ra → Ra
  | _, [], x => x
  | b, mask :: t, x =>
    let p := planeSum row.q mask (Ra.ofInt 0)
    planeGo row base last (b + 1) t (x.addTerm (if b = last then p.neg else p) (base + b))

/-- The contribution of a row and a column to an element at anchor `anc`. -/
def contrib (anc : Int) (row : RowOp) (col : ColOp) (x : Ra) : Ra :=
  if row.e = nanBlk ∨ col.e = nanBlk then { x with ovf := true }
  else planeGo row (expo row.e + expo col.e - anc) (col.planes.length - 1) 0 col.planes x

/-- The cause of poison of an element that depends on a row and a column. -/
def pairBad (row : RowOp) (col : ColOp) : Option Nat := row.bad.or (if col.bad then some FCode.uncorr else none)

/-- A product added to a tile at its own anchor, the marks of its operands with it. -/
def prodTile (rows : List RowOp) (cols : List ColOp) (t : Tile) : Tile :=
  let pairs := (rows.map fun r => cols.map fun c => (r, c)).flatten
  let els := List.zipWith (fun p x => contrib t.anchor p.1 p.2 x) pairs t.list
  let marks := ((List.range 1024).zip pairs).foldl (fun m e =>
    match pairBad e.2.1 e.2.2 with
    | some c => markEl m e.1 c
    | none => m) t.poison
  Tile.build t.anchor marks els

/-- A tile of zeros (R285, R289). -/
def zeroTile (anc : Int) : Tile := { anc := BitVec.ofInt 16 anc, valid := true }

/-! ## Commands: fields, units, slots -/

namespace MqEntry

def pl (q : MqEntry) : Nat := q.w.pl.toNat
def anc (q : MqEntry) : Int := signExt q.w.imm.toNat 16
def d128 (q : MqEntry) : Bool := q.w.sub.getLsbD 0
/-- d / 32 of an attention command (R369). -/
def chunks (q : MqEntry) : Nat := if q.d128 then 4 else 2

/-- The occupancy (R291, R378). -/
def occ (q : MqEntry) : Nat :=
  let c := 2 * q.chunks * q.pl
  match q.opc.toNat with
  | 0x80 | 0x81 => 2 * q.pl
  | 0x82 => if q.w.sub = 0#4 then 4 * q.pl else 6 * q.pl
  | 0x83 => 4
  | 0x84 => 8
  | 0x85 => 2
  | 0x86 => if q.w.sub = 0#4 then 2 else 8
  | 0x88 | 0x8A => c
  | 0x89 => 32
  | 0x8B => 2 * c + 32
  | _ => 8

/-- The units occupied: arrays 0 to 3, stages 4 and 5 (R367). -/
def units (q : MqEntry) : List Nat :=
  let a := q.w.arr.toNat
  match q.opc.toNat with
  | 0x89 | 0x8C => [4 + a / 2]
  | 0x8B => [a, 4 + a / 2, a + 1]
  | _ => [a]

/-- The slots read: number, whether on the plane side, forms accepted (R278, R285, R286, R369). -/
def reads (q : MqEntry) : List (Nat × Bool × List Nat) :=
  let a := q.w.sa.toNat
  let b := q.w.sb.toNat
  match q.opc.toNat with
  | 0x80 | 0x81 => [(a, false, [2, 3, 5, 6, 7]), (b, true, [1, 4])]
  | 0x82 =>
    [(a, false, [5]), (b, true, [1]), (a + 1, false, [6]), (b + 1, true, [4])] ++
      (if q.w.sub = 0#4 then [] else [(a + 2, false, [7]), (b + 2, true, [1])])
  | 0x88 => (tab q.chunks fun j => (a + j, false, [2, 3])) ++ tab q.chunks fun j => (b + j, true, [1])
  | 0x8A => (tab 2 fun j => (a + j, false, [2])) ++ tab q.chunks fun j => (b + j, true, [1])
  | 0x8B => (tab q.chunks fun j => (a + j, false, [2, 3])) ++ tab (2 * q.chunks) fun j => (b + j, true, [1])
  | _ => []

end MqEntry

/-- Does an ATSM that is queued or running write the slot (R378)? -/
def atsmWrites (k : Core) (n : Nat) : Bool :=
  (k.mq ++ k.mrun.map (·.cmd)).any fun q => q.opc == 0x89#8 && (q.w.sa.toNat == n || q.w.sa.toNat + 1 == n)

/-- Is the slot present for a command that reads it (R278, R378)? -/
def slotReady (k : Core) (pl : Nat) (r : Nat × Bool × List Nat) : Bool :=
  let x := Tbl.get {} k.slots r.1
  atsmWrites k r.1 || x.valid && r.2.2.contains x.form && (!r.2.1 || x.w == pl) && !(k.loads.any fun l => l.op == 0 && l.f.slot.toNat == r.1) &&
    !(k.stores.any fun w => w.slotsOf.contains r.1)

/-! ## Issue (R28 to R30, R281, R292) -/

/-- The fields of an MM word that a command uses, with the bits of SUB. -/
structure MmUse where
  slots : Bool := false
  sb : Bool := false
  pl : Bool := false
  sub : Nat := 0
  /-- SUB is a number with a limit, not a set of bits: beyond it the value is out of range (R284, R369). -/
  subNum : Bool := false
  imm : Bool := false

def MmUse.breaks (u : MmUse) (f : MmWord) : Bool :=
  f.z0 != 0#17 || (!u.slots && f.sa != 0#6) || (!u.sb && f.sb != 0#6) || (!u.pl && f.pl != 0#5) ||
    (!u.subNum && f.sub &&& BitVec.ofNat 4 (15 - u.sub) != 0#4) || (!u.imm && f.imm != 0#16)

/-- Is PL outside 1 to 25? -/
def badPl (f : MmWord) : Bool := f.pl == 0#5 || decide (25 < f.pl.toNat)

/-- The ILLOP of a matrix or attention command: STP (R30), fields, limits; the lowest detail (R38). -/
def mmIllop (u : MmUse) (more range : MmWord → Bool) (f : MmWord) (g : EngSt) : Option Nat :=
  if !g.hdr.getLsbD 48 then some 0x06
  else if u.breaks f || more f then some 0x11
  else if range f || (u.subNum && decide (u.sub < f.sub.toNat)) then some 0x12
  else none

/-- Does the task or the core lack the array selected (R11, R12)? -/
def arrayAbsent (s : State) (c : Nat) (f : MmWord) : Bool :=
  decide (2 ≤ f.arr.toNat) && (decide (1024 ≤ c) || s.crKind (s.core c).crid == 2)

/-- A command enters the queue, or is too late for its stamp (R28, R29, R281); one that its section has issued before is (R283). -/
def queueWord (opc : Nat) (f : MmWord) (c : Nat) (s : State) : Iss :=
  let k := s.core c
  let g := k.ma
  let at_ := g.stampBase + f.stamp.toNat
  let q : MqEntry := { opc := BitVec.ofNat 8 opc, w := f, sec := g.place.1, widx := g.place.2, stamp := at_ }
  if 8 ≤ k.mq.length then .stall .none s
  else if q.tiles.any fun t => !k.awakeA t then .flt FCode.regcold 0 noElem
  else if arrayAbsent s c f then .flt FCode.resabsent 0 noElem
  else if at_ ≤ s.pcc + 1 ∨ (g.redo.isEmpty && g.cmds.contains q.widx) then .late FCode.schedmiss f.arr.toNat
  else .go (((s.launch c .ma).modCore c fun k => { k with mq := k.mq ++ [q] }).modEng c .ma fun g => { g with cmds := q.widx :: g.cmds })

/-- MMAC (R285). -/
def execMmac (g : Guard) (f : MmWord) (s : State) : Host.Outcome State Fault Refusal :=
  issueWord g 1 (fun _ en => mmIllop { slots := true, sb := true, pl := true } (fun _ => false) badPl f en)
    (fun c _ s => queueWord 0x80 f c s) s

/-- MMACZ (R285). -/
def execMmacz (g : Guard) (f : MmWord) (s : State) : Host.Outcome State Fault Refusal :=
  issueWord g 1 (fun _ en => mmIllop { slots := true, sb := true, pl := true, imm := true } (fun _ => false) badPl f en)
    (fun c _ s => queueWord 0x81 f c s) s

/-- Limits of MMOM: ACC even, the slot runs within 63. -/
def mmomRange (f : MmWord) : Bool :=
  let m := if f.sub.getLsbD 0 then 61 else 62
  badPl f || f.acc.getLsbD 0 || decide (m < f.sa.toNat) || decide (m < f.sb.toNat)

/-- MMOM (R286). -/
def execMmom (g : Guard) (f : MmWord) (s : State) : Host.Outcome State Fault Refusal :=
  issueWord g 1 (fun _ en => mmIllop { slots := true, sb := true, pl := true, sub := 1, subNum := true } (fun _ => false) mmomRange f en)
    (fun c _ s => queueWord 0x82 f c s) s

/-- MMHAD (R287). -/
def execMmhad (g : Guard) (f : MmWord) (s : State) : Host.Outcome State Fault Refusal :=
  issueWord g 1 (fun _ en =>
    mmIllop { imm := true } (fun _ => false) (fun f => f.imm != 16#16 && f.imm != 32#16 && f.imm != 64#16) f en)
    (fun c _ s => queueWord 0x83 f c s) s

/-- MMANC (R288). -/
def execMmanc (g : Guard) (f : MmWord) (s : State) : Host.Outcome State Fault Refusal :=
  issueWord g 1 (fun _ en => mmIllop { imm := true } (fun _ => false) (fun _ => false) f en) (fun c _ s => queueWord 0x84 f c s) s

/-- MMCLR (R289). -/
def execMmclr (g : Guard) (f : MmWord) (s : State) : Host.Outcome State Fault Refusal :=
  issueWord g 1 (fun _ en =>
    mmIllop { imm := true, sub := 1, subNum := true } (fun _ => false) (fun f => f.sub.getLsbD 0 && f.acc.getLsbD 0) f en)
    (fun c _ s => queueWord 0x85 f c s) s

/-- MMCOPY (R290). -/
def execMmcopy (g : Guard) (f : MmWord) (s : State) : Host.Outcome State Fault Refusal :=
  issueWord g 1 (fun _ en =>
    mmIllop { imm := true, sub := 1, subNum := true } (fun f => decide (256 ≤ f.imm.toNat)) (fun _ => false) f en)
    (fun c _ s => queueWord 0x86 f c s) s

/-! ## What the commands write (R285 to R290) -/

/-- A copied slot of a command. -/
def MRun.slot (r : MRun) (n : Nat) : Slot := Tbl.get {} r.slots n

/-- A product of two copied slots added to a tile. -/
def MRun.prod (r : MRun) (a b : Nat) (t : Tile) : Tile := prodTile (r.slot a).rows ((r.slot b).cols r.cmd.pl) t

/-- MOM set in every element (R286). -/
def momTile (t : Tile) : Tile := Tile.build t.anchor t.poison (t.list.map fun x => { x with mom := true })

/-- MMHAD on a tile that is valid (R287). -/
def hadTile (h : Nat) (t : Tile) : Tile :=
  let xs := t.list.toArray
  let zero : Ra := Ra.ofInt 0
  let els := tab 1024 fun n =>
    let base := n / h * h
    (List.range h).foldl (fun acc i =>
      let x := xs.getD (base + i) zero
      acc.add (if popCount 6 (i &&& (n % h)) % 2 = 1 then x.neg else x)) zero
  let marks := t.poison.foldl (fun m e => (List.range h).foldl (fun m j => markEl m (e.1 / h * h + j) e.2) m) t.poison
  Tile.build t.anchor marks els

/-- Every element of a valid tile brought to another anchor (R276). -/
def moveTile (anc : Int) (t : Tile) : Tile :=
  if t.valid then Tile.build anc t.poison (t.list.map fun x => x.move t.anchor anc) else zeroTile anc

/-- MMCOPY.ADD of `x` into `d` (R290). -/
def addTile (d x : Tile) : Tile :=
  let anc := if d.valid then d.anchor else x.anchor
  Tile.build anc (markAll d.poison x.poison) (List.zipWith (fun a b => a.add (b.move x.anchor anc)) d.list x.list)

/-- What a matrix command writes in its write clk. -/
def matrixWrite (r : MRun) (k : Core) : Core :=
  let q := r.cmd
  let t := q.w.acc.toNat
  let a := q.w.sa.toNat
  let b := q.w.sb.toNat
  match q.opc.toNat with
  | 0x80 => k.setTile t (r.prod a b (k.tile t))
  | 0x81 => k.setTile t (r.prod a b (zeroTile q.anc))
  | 0x82 =>
    let v := r.prod (a + 1) (b + 1) (k.tile (t + 1))
    let v := if q.w.sub = 0#4 then v else r.prod (a + 2) (b + 2) v
    (k.setTile t (momTile (r.prod a b (k.tile t)))).setTile (t + 1) (momTile v)
  | 0x83 => if (k.tile t).valid then k.setTile t (hadTile q.w.imm.toNat (k.tile t)) else k
  | 0x84 => k.setTile t (moveTile q.anc (k.tile t))
  | 0x85 =>
    let k1 := k.setTile t (zeroTile q.anc)
    if q.w.sub = 0#4 then k1 else k1.setTile (t + 1) (zeroTile q.anc)
  | 0x86 =>
    let x := k.tile (q.w.imm.toNat % 256)
    k.setTile t (if q.w.sub = 0#4 then x else addTile (k.tile t) x)
  | _ => k

end Sys2Proof.Machine
end

