-- ==== Sys2Proof/Machine/Attention.lean ====
section
/-!
DEFINITION. The attention commands (13 R367 to R376), and the start and the write of matrix and attention commands (R279 to R282,
R378).
-/

namespace Sys2Proof.Machine

/-! ## Issue (R367, R369, R379) -/

/-- Is the group not aligned, or ARR of the wrong parity (R367, R369)? -/
def badGroup (f : MmWord) (odd : Bool) : Bool := f.acc.toNat % 4 != 0 || f.arr.getLsbD 0 != odd

/-- Does a run of `n` slots pass slot 63? -/
def pastEnd (a : BitVec 6) (n : Nat) : Bool := decide (64 < a.toNat + n)

/-- NK and CO of IMM (R369). -/
def attNk (f : MmWord) : Nat := fld f.imm 0 7
def attCo (f : MmWord) : Int := signExt (fld f.imm 7 9) 9

def badNk (f : MmWord) : Bool := attNk f == 0 || decide (64 < attNk f)

/-- CO without .causal. -/
def strayCo (f : MmWord) : Bool := !f.sub.getLsbD 1 && attCo f != 0

def attChunks (f : MmWord) : Nat := if f.sub.getLsbD 0 then 4 else 2

/-- ATSC (R370). -/
def execAtsc (g : Guard) (f : MmWord) (s : State) : Host.Outcome State Fault Refusal :=
  issueWord g 1 (fun _ en =>
    mmIllop { slots := true, sb := true, pl := true, sub := 1, imm := true } (fun _ => false)
      (fun f => badGroup f false || badPl f || pastEnd f.sa (attChunks f) || pastEnd f.sb (attChunks f)) f en)
    (fun c _ s => queueWord 0x88 f c s) s

/-- ATSM (R371). -/
def execAtsm (g : Guard) (f : MmWord) (s : State) : Host.Outcome State Fault Refusal :=
  issueWord g 1 (fun _ en =>
    mmIllop { slots := true, sub := 3, imm := true } strayCo (fun f => badGroup f false || badNk f || pastEnd f.sa 2) f en)
    (fun c _ s => queueWord 0x89 f c s) s

/-- ATPV (R374). -/
def execAtpv (g : Guard) (f : MmWord) (s : State) : Host.Outcome State Fault Refusal :=
  issueWord g 1 (fun _ en =>
    mmIllop { slots := true, sb := true, pl := true, sub := 1 } (fun _ => false)
      (fun f => badGroup f true || badPl f || pastEnd f.sa 2 || pastEnd f.sb (attChunks f)) f en)
    (fun c _ s => queueWord 0x8A f c s) s

/-- ATFUSE (R375). -/
def execAtfuse (g : Guard) (f : MmWord) (s : State) : Host.Outcome State Fault Refusal :=
  issueWord g 1 (fun _ en =>
    mmIllop { slots := true, sb := true, pl := true, sub := 3, imm := true } strayCo
      (fun f => badGroup f false || badPl f || badNk f || pastEnd f.sa (attChunks f) || pastEnd f.sb (2 * attChunks f)) f en)
    (fun c _ s => queueWord 0x8B f c s) s

/-- ATTRI (R376). -/
def execAttri (g : Guard) (f : MmWord) (s : State) : Host.Outcome State Fault Refusal :=
  issueWord g 1 (fun _ en =>
    mmIllop { sub := 1, imm := true } (fun _ => false)
      (fun f => badGroup f false || decide (signExt f.imm.toNat 16 < -60) || decide (0 < signExt f.imm.toNat 16)) f en)
    (fun c _ s => queueWord 0x8C f c s) s

/-! ## The row soft maximum (R371) -/

/-- CS: rne(log2 e / √d) (R371). -/
def attCs (d128 : Bool) : FVal := fpOf (if d128 then 0x3E0293EE else 0x3E38AA3B)

/-- Ceiling of a rational. -/
def ceilQ (a : Q) : Int := -(Q.floor (Q.neg a))

/-- What the stage finds for one row: delta, the FP32 codes of P, rowovf, and the new maximum. -/
structure RowOut where
  delta : Int
  p : List Nat
  ovf : Bool
  mx : Option Int

/-- Is key `n` visible to row `m`? -/
def visible (f : MmWord) (m n : Nat) : Bool :=
  decide (n < attNk f) && (!f.sub.getLsbD 1 || decide ((n : Int) ≤ (m : Int) + attCo f))

/-- One row of the stage: its scores (none for NaN), M and F of the row. -/
def stageRow (f : MmWord) (m : Nat) (score : List (Option Q)) (mOld fOld : Int) : RowOut :=
  let cs := (attCs (f.sub.getLsbD 0)).toQ
  let t : List (Option FVal) := (score.zip (List.range 64)).map fun e =>
    if visible f m e.2 then
      some (match e.1 with
        | none => .nan
        | some x => fpOf (FFmt.fp32.round .rne (FVal.ofQ (Q.mul x cs))))
    else none
  let seen := t.filterMap id
  let none_ : RowOut := { delta := 0, p := List.replicate 64 0, ovf := seen.any fun v => !v.isFin, mx := none }
  match seen with
  | [] => none_
  | v0 :: vs =>
    let mx := ceilQ (vs.foldl (fun a v => Q.max a v.toQ) v0.toQ)
    if none_.ovf then none_
    else if mx < -2 ^ 31 ∨ 2 ^ 31 ≤ mx then { none_ with ovf := true }
    else
      let mn := if fOld = 0 then mx else max mOld mx
      { delta := if fOld = 0 then 0 else mn - mOld
        p := t.map fun v =>
          match v with
          | some v => vexp2 (FFmt.fp32.round .rne (FVal.ofQ (Q.sub v.toQ (Q.ofInt mn))))
          | none => 0
        ovf := false
        mx := some mn }

/-! ## The group (R368, R372, R373) -/

/-- The statistics columns that keep M and F. -/
def keepsInt (n : Nat) : Bool := n % 64 == 1 || n % 64 == 2

/-- Brings a tile of the group to the group anchor; of the statistics tile columns 1 and 2 stay (R368). -/
def toAnchor (anc : Int) (stats : Bool) (t : Tile) : List Ra :=
  if t.valid && t.anchor != anc then
    List.zipWith (fun n x => if stats && keepsInt n then x else x.move t.anchor anc) (List.range 1024) t.list
  else t.list

/-- The least of two causes of poison. -/
def leastCause (a b : Option Nat) : Option Nat :=
  match a, b with
  | some x, some y => some (min x y)
  | a, none => a
  | none, b => b

/-- What the stage leaves: the core, the blocks of P of every row, and the rows' causes of poison. -/
structure StageOut where
  k : Core
  blocks : List (List (Nat × List Int))
  p : List (List Nat)
  bad : List (Option Nat)

/-- The stage on a group (R371 to R373): `score` and `bad` give the value and the poison of element (m, n) of the scores. -/
def stage (q : MqEntry) (score : Nat → Nat → Option Q) (bad : Nat → Nat → Option Nat) (k : Core) : StageOut :=
  let f := q.w
  let t := f.acc.toNat
  let anc := (k.tile t).anchor
  let st := (toAnchor anc true (k.tile (t + 2))).toArray
  let zero := Ra.ofInt 0
  let stat := fun (m c : Nat) => st.getD (64 * m + c) zero
  let rows := tab 16 fun m => stageRow f m (tab 64 fun n => score m n) (stat m 1).crt (stat m 2).crt
  let marks := tab 16 fun m =>
    let vis := (List.range 64).filter fun n => visible f m n
    if vis.isEmpty then none
    else
      vis.foldl (fun a n => leastCause a (bad m n))
        (leastCause (Tbl.find (k.tile (t + 2)).poison (64 * m + 1)) (Tbl.find (k.tile (t + 2)).poison (64 * m + 2)))
  let dmax := rows.foldl (fun d r => max d r.delta) 0
  let low := decide (anc - dmax < -32768)
  let a := if low then -32768 else anc - dmax
  let ra := rows.toArray
  let row := fun (m : Nat) => ra.getD m { delta := 0, p := [], ovf := false, mx := none }
  let scale := fun (m : Nat) (x : Ra) =>
    let y := x.shift (dmax - (row m).delta).toNat
    { y with ovf := y.ovf || low || (row m).ovf }
  let blocks := rows.map fun r => (chunks 32 2 (r.p.map fpOf)).map (blockInt 32)
  let ba := blocks.toArray
  let rowMarks := fun (p : Tbl Nat) (whole : Bool) => ((List.range 16).zip marks).foldl (fun p e =>
    match e.2 with
    | some c => (List.range (if whole then 64 else 1)).foldl (fun p n => markEl p (64 * e.1 + n) c) p
    | none => p) p
  let oTile := fun (x : Tile) =>
    Tile.build a (rowMarks x.poison true) (List.zipWith (fun n y => scale (n / 64) y) (List.range 1024) (toAnchor anc false x))
  let stats := List.zipWith (fun n x =>
    let m := n / 64
    if n % 64 = 0 then
      (ba.getD m []).foldl (fun (l : Ra) b => l.addTerm (Ra.ofInt (b.2.foldl (· + ·) 0)) (expo b.1 - a)) (scale m x)
    else
      match (row m).mx with
      | some y => if n % 64 = 1 then x.withInt y else if n % 64 = 2 then x.withInt 1 else x
      | none => x) (List.range 1024) st.toList
  let k1 := k.setTile t (oTile (k.tile t))
  let k2 := if q.d128 then k1.setTile (t + 1) (oTile (k.tile (t + 1))) else k1
  { k := k2.setTile (t + 2) (Tile.build a (rowMarks (k.tile (t + 2)).poison false) stats)
    blocks := blocks, p := rows.map (·.p), bad := marks }

/-- The 64-bit words of row `m` in a RESID slot. -/
def residRowWords (m : Nat) : List Nat :=
  (tab 48 fun i => 384 * m + 8 * i) ++ (tab 8 fun i => 0x1800 + 64 * m + 8 * i) ++ [0x1C00 + 2 * m / 8 * 8]

/-- The slot that ATSM writes with keys 32h to 32h + 31 (R373). -/
def pSlot (o : StageOut) (h : Nat) : Slot :=
  let vals := (o.p.map fun r => ((r.drop (32 * h)).take 32).map fpOf).flatten
  { residSlot 2 0x10 16 32 vals with
    poison := (((List.range 16).zip o.bad).map fun e => if e.2.isSome then residRowWords e.1 else []).flatten }

/-- ATSM in its write clk (R371 to R373). -/
def atsmWrite (q : MqEntry) (k : Core) : Core :=
  let s := k.tile (q.w.acc.toNat + 3)
  let xs := s.list.toArray
  let o := stage q
    (fun m n =>
      let x := xs.getD (64 * m + n) (Ra.ofInt 0)
      if x.overflows then none else some (Q.mul (Q.ofInt x.crt) (Q.pow2 s.anchor)))
    (fun m n => Tbl.find s.poison (64 * m + n)) k
  { o.k with slots := Tbl.put (Tbl.put o.k.slots q.w.sa.toNat (pSlot o 0)) (q.w.sa.toNat + 1) (pSlot o 1) }

/-! ## Scores and values (R370, R374 to R376) -/

/-- ATSC (R370). -/
def atscWrite (r : MRun) (k : Core) : Core :=
  let q := r.cmd
  k.setTile (q.w.acc.toNat + 3) ((List.range q.chunks).foldl
    (fun t j => r.prod (q.w.sa.toNat + j) (q.w.sb.toNat + j) t) (zeroTile q.anc))

/-- Products of P's two blocks with the V slots from `base` on, added into the o tiles (R374). -/
def pvWrite (r : MRun) (p : Nat → List RowOp) (base : Nat) (k : Core) : Core :=
  let q := r.cmd
  (List.range (q.chunks / 2)).foldl (fun k h =>
    let n := q.w.acc.toNat + h
    let col := fun (i : Nat) => (r.slot (base + 2 * h + i)).cols q.pl
    k.setTile n (prodTile (p 1) (col 1) (prodTile (p 0) (col 0) (k.tile n)))) k

/-- ATPV (R374). -/
def atpvWrite (r : MRun) (k : Core) : Core :=
  pvWrite r (fun i => (r.slot (r.cmd.w.sa.toNat + i)).rows) r.cmd.w.sb.toNat k

/-- The integers of a column, as two's complement of its planes. -/
def ColOp.ints (c : ColOp) : List Int :=
  tab 32 fun k => signExt (ofBits (c.planes.map fun p => bitOf p k)) c.planes.length

/-- The exact score of a row and a column over the chunks (R371). -/
def exactScore (rc : List (RowOp × List Int × ColOp × List Int)) : Option Q :=
  rc.foldl (fun acc e =>
    match acc with
    | none => none
    | some x =>
      if e.1.e = nanBlk ∨ e.2.2.1.e = nanBlk then none
      else
        let d : Int := (List.zipWith (fun a b => a * b) e.2.1 e.2.2.2).foldl (· + ·) 0
        some (Q.add x (Q.mul (Q.ofInt d) (Q.pow2 (expo e.1.e + expo e.2.2.1.e))))) (some Q.zero)

/-- ATFUSE (R375). -/
def atfuseWrite (r : MRun) (k : Core) : Core :=
  let q := r.cmd
  let qs := tab q.chunks fun j =>
    ((r.slot (q.w.sa.toNat + j)).rows.map fun x => (x, x.q.map Ra.crt)).toArray
  let ks := tab q.chunks fun j =>
    (((r.slot (q.w.sb.toNat + j)).cols q.pl).map fun x => (x, x.ints)).toArray
  let row0 : RowOp × List Int := ({ e := 0, q := [], bad := none }, [])
  let col0 : ColOp × List Int := ({ e := 0, planes := [], bad := false }, [])
  let at_ := fun (m n : Nat) => List.zipWith (fun (a : Array (RowOp × List Int)) (b : Array (ColOp × List Int)) =>
    let x := a.getD m row0
    let y := b.getD n col0
    (x.1, x.2, y.1, y.2)) qs ks
  let o := stage q (fun m n => exactScore (at_ m n))
    (fun m n => (at_ m n).foldl (fun c e => leastCause c (pairBad e.1 e.2.2.1)) none) k
  pvWrite r (fun i => List.zipWith (fun b c => blockRow (nth (0, []) b i) c) o.blocks o.bad) (q.w.sb.toNat + q.chunks) o.k

/-- ATTRI (R376). -/
def attriWrite (q : MqEntry) (k : Core) : Core :=
  let t := q.w.acc.toNat
  let anc := q.anc
  let x := k.tile (t + 2)
  let xs := x.list.toArray
  let zero := Ra.ofInt 0
  let els := tab 1024 fun n =>
    let e := xs.getD n zero
    if n % 64 = 0 then e.move x.anchor anc
    else if n % 64 = 1 then
      let mv : Int := if (xs.getD (n + 1) zero).crt = 1 then e.crt else -2 ^ 31
      Ra.ofInt (mv * 2 ^ anc.natAbs)
    else zero
  let k1 := k.setTile t (moveTile anc (k.tile t))
  let k2 := if q.d128 then k1.setTile (t + 1) (moveTile anc (k.tile (t + 1))) else k1
  k2.setTile (t + 2) (Tile.build anc (x.poison.filter fun e => e.1 % 64 = 0) els)

/-- What a command writes in its write clk. -/
def cmdWrite (r : MRun) (k : Core) : Core :=
  match r.cmd.opc.toNat with
  | 0x88 => atscWrite r k
  | 0x89 => atsmWrite r.cmd k
  | 0x8A => atpvWrite r k
  | 0x8B => atfuseWrite r k
  | 0x8C => attriWrite r.cmd k
  | _ => matrixWrite r k

/-! ## Start and write (R279 to R282, R378) -/

/-- The command at the queue that starts now, in ascending array number (log entry 1). -/
def nextStart (k : Core) (pcc : Nat) : Option MqEntry :=
  (List.range 4).findSome? fun a => k.mq.find? fun q => q.w.arr.toNat = a && decide (q.stamp ≤ pcc)

/-- The order of the writes of one clk: ascending array number, an array before its stage (R282, R367; log entry 24). -/
def writeRank (r : MRun) : Nat := 2 * r.arr + (match r.cmd.opc.toNat with
  | 0x89 | 0x8C => 1
  | _ => 0)

/-- The command that writes next in this clk. -/
def nextWrite (k : Core) (pcc : Nat) : Option MRun :=
  (List.range 8).findSome? fun n => k.mrun.find? fun r => writeRank r = n && decide (r.due ≤ pcc)

/-- A queued command starts in its stamped clk: its slots are copied and its units occupied, or it raises SCHEDMISS. -/
def startCmd (s : State) (c : Nat) (q : MqEntry) : State :=
  let k := s.core c
  let s1 := s.modCore c fun k => { k with mq := k.mq.erase q }
  if q.units.any (fun u => decide (s.pcc < Tbl.get 0 k.arrBusy u)) || !q.reads.all (slotReady k q.pl) ||
      q.reads.any fun r => s.jobWrites c r.1 && !atsmWrites k r.1 then
    (s1.modEng c .ma fun g => State.landWord g q.sec).raiseLate c .ma FCode.schedmiss q.w.arr.toNat noElem
      { sec := q.sec, widx := q.widx, w0 := 0#96, w1 := 0#96, w2 := 0#96 }
  else
    s1.modCore c fun k =>
      { k with
        arrBusy := q.units.foldl (fun t u => Tbl.put t u (s.pcc + q.occ)) k.arrBusy
        mrun := k.mrun ++ [{ cmd := q, arr := q.w.arr.toNat, start := s.pcc, due := s.pcc + q.occ + 10
                             slots := q.reads.foldl (fun t r => Tbl.put t r.1 (Tbl.get {} k.slots r.1)) [] }] }

/-- MATRIX_COMMAND_START (R279 to R281). -/
def execMatrixCommandStart (s : State) : Host.Outcome State Fault Refusal :=
  let c := s.unit
  match nextStart (s.core c) s.pcc with
  | some q => .next (startCmd s c q)
  | none => .next s

/-- MATRIX_COMMAND_WRITE (R280, R282). -/
def execMatrixCommandWrite (s : State) : Host.Outcome State Fault Refusal :=
  let c := s.unit
  match nextWrite (s.core c) s.pcc with
  | some r =>
    .next ((s.modCore c fun k => { cmdWrite r k with mrun := k.mrun.erase r }).modEng c .ma fun g => State.landWord g r.cmd.sec)
  | none => .next s

end Sys2Proof.Machine
end

