-- ==== Sys2Proof/Machine/Bench.lean ====
section
/-!
DEFINITION. The words that update a Bench (07): BKUPD, XWIN, XACC and XFLUSH.
-/

namespace Sys2Proof.Machine

/-- Does an operation accept a target format (R228)? -/
def bankTakes (op f : Nat) : Bool :=
  match op with
  | 0 => f == 0x05 || f == 0x10 || f == 0x40
  | 1 | 2 => f == 0x05 || f == 0x10
  | 3 | 4 | 5 | 6 => f == 0x05 || f == 0x06
  | 7 => f == 0x06
  | 8 => f == 0x30
  | _ => false

/-- RET of a BKUPD, and whether its fields make it the acc form (R227). -/
def updRet (f : DxWord) : Bool := f.imm.getLsbD 0
def updAcc (f : DxWord) : Bool := f.acc != 0#8 || fld f.imm 16 16 != 0

/-- The checks of a BKUPD on its fields alone. -/
def updIllop (f : DxWord) : Option Nat :=
  let op := f.sub.toNat
  let v := f.vi.toNat
  if DxUse.breaks { acc := true, slot := updRet f, sd := true, vi := true, sub := true, imm := true } f || fld f.imm 1 15 != 0 ||
      (updAcc f && f.vi != 0#5) then some 0x11
  else if 8 < op ∨ (op = 7 ∧ (v % 4 ≠ 0 ∨ 28 < v)) ∨ (op = 8 ∧ 15 < v) ∨ (updAcc f ∧ op ≠ 0) then some 0x12
  else none

namespace Core

/-- A vector register by its physical name, as DR reads it (R227, R242). -/
def drV (k : Core) (p : Nat) : List Nat := if k.deadV p then zeros else k.physV p

/-- Is element `i` of a register that DR reads poisoned? -/
def drPois (k : Core) (p i : Nat) : Bool := !k.deadV p && k.poisV p i

end Core

/-- Registers of the source in the v form: pairs for the logical operations and swap on INT64, and the quad of cas64 (R228). -/
def updRegs (op f : Nat) : Nat := if op = 7 then 4 else if f = 0x06 ∧ 3 ≤ op ∧ op ≤ 6 then 2 else 1

/-- Does a source that the word's own fields name stand in a sleeping bank (R227)? -/
def updCold (k : Core) (f : DxWord) : Bool :=
  let v := f.vi.toNat
  if updAcc f then !k.awakeA f.acc.toNat
  else if f.sub = 8#4 then !k.awakeM v
  else (List.range (updRegs f.sub.toNat 0)).any fun q => !k.awakeV (min 31 (v + q))

/-- The anchor distance d of R229. -/
def updShift (k : Core) (f : DxWord) : Int := (k.tile f.acc.toNat).anchor - signExt (fld f.imm 16 16) 16

/-- The word-level faults of a BKUPD that need the object (R227 to R231); `here` says that it is a Bench object of this die. -/
def updErrs (k : Core) (here : Bool) (f : DxWord) (d : List Word) (l : Layout) : List Flt :=
  let op := f.sub.toNat
  let v := f.vi.toNat
  let acc := l.fmt == 0x40
  let n := updRegs op l.fmt
  (if (if acc then v != 0 || op != 0 else updAcc f) || (n == 2 && v % 2 == 1) then [⟨FCode.illop, 0x12⟩] else []) ++
  (if 16 < Desc.tr d ∨ (updRet f ∧ 0x1FF0 < Desc.tr d * Desc.tc d * (fmtBits l.fmt / 8)) then [⟨FCode.illop, 0x32⟩] else []) ++
  (if (if acc then !k.awakeA f.acc.toNat else if op = 8 then !k.awakeM v else (List.range n).any fun q => !k.awakeV (min 31 (v + q)))
    then [⟨FCode.regcold, 0⟩] else []) ++
  (if !here then [⟨FCode.rights, 0x40⟩] else []) ++
  (if !bankTakes op l.fmt then [⟨FCode.fmtbad, 1⟩] else []) ++
  (if acc && decide (updShift k f < 0) then [⟨FCode.fmtbad, 5⟩] else [])

/-- The source of one element: its faults, its value, its comparand, and whether NVS is set (R228 to R230). -/
def updElem (k : Core) (f : DxWord) (l : Layout) (regs : List (Array Nat)) (mom : Array (Elem32 × Elem32)) (t : Tile) (e : Nat) :
    List Flt × Nat × Nat × Bool :=
  let op := f.sub.toNat
  let v := f.vi.toNat
  let r := fun (q : Nat) => (nth #[] regs q).getD e 0
  if l.fmt = 0x40 then (poisonOf t e, ((t.ra e).shift (updShift k f).toNat).toNat, 0, false)
  else if op = 8 then
    let x := mom.getD e (0#32, 0#32)
    let neg := clampVar x.2.toNat != x.2.toNat
    let nvc := k.mctl.getLsbD 2
    ((if neg && !nvc then [⟨FCode.negvar, 1⟩] else []) ++ (if k.poisM v e then [⟨FCode.uncorr, 0⟩] else []),
     x.1.toNat + clampVar x.2.toNat * 2 ^ 32, 0, neg && nvc)
  else
    let n := updRegs op l.fmt
    let pois := (List.range n).any fun q => k.drPois (v + q) e
    let w := fun (q : Nat) => r q + r (q + 1) * 2 ^ 32
    ((if pois then [⟨FCode.uncorr, 0⟩] else []), (if op = 7 then w 2 else if n = 2 then w 0 else r 0), if op = 7 then w 0 else 0, false)

/-- A word with a fault in the source, of register element `i`, of the last of the elements given: they are resolved, and the first of them
that resolves to a fault is reported as resolve's faults are, LATE; the source's fault is reported when there is none, and when only its own
element resolves to one of a higher code (R38, R231, R238). -/
def firstFault (s : State) (c : Nat) (d : List Word) (h : Word) (l : Layout) (need : Nat) (v : VSel) (els : List StEl) (e : Flt) (i : Nat) :
    Iss :=
  match placeEls s (s.principal c) h l need v els with
  | .bad j f t =>
    if (els.getLast?.map StEl.elem) = some j ∧ e.code < f.code then .flt e.code e.detail (elemNo i)
    else .go (sendDr (s.noteMiss h l t v f) c d (.lost true f.code f.detail j))
  | .ok _ => .flt e.code e.detail (elemNo i)

/-- BKUPD (R231). -/
def updWord (f : DxWord) (c : Nat) (s : State) : Iss :=
  let k := s.core c
  let d := k.desc f.sd.toNat
  let op := f.sub.toNat
  let v := f.vi.toNat
  let ret := if updRet f then some (f.slot.toNat, Desc.tr d, Desc.tc d) else none
  let pr := s.principal c
  if Desc.bound d && decide (16 < Desc.tr d) then .flt FCode.illop 0x32 noElem
  else if !Desc.bound d then (if updCold k f then .flt FCode.regcold 0 noElem else .flt FCode.missobj 1 noElem)
  else if !s.walkReady pr (Desc.handle d) then .stall .none s
  else
    match s.lookupEl pr (Desc.handle d) (fun _ => Desc.tuple d 0 0) with
    | .bad e => if updCold k f then .flt FCode.regcold 0 noElem else .go (sendDr s c d (.lost true e.code e.detail 0))
    | .ok l =>
      match leastFault (updErrs k (l.bench && s.benchHere pr l) f d l) with
      | some e => .flt e.code e.detail noElem
      | none =>
        let regs := (List.range (updRegs op l.fmt)).map fun q => (k.drV (v + q)).toArray
        let mom := (k.physM v).toArray
        let t := k.tile f.acc.toNat
        let els := (destCells d (some l)).map fun e => (Desc.tc d * e.1 + e.2.1, e.2.2, updElem k f l regs mom t (64 * e.1 + e.2.1))
        let place := fun (n : Nat) => (destCells d (some l))[n]?.elim 0 fun e => 64 * e.1 + e.2.1
        let s1 := if els.any fun e => e.2.2.2.2.2 then s.modCore c fun q => { q with mctl := q.mctl ||| 0x200#32 } else s
        let need := if ret.isSome then Right.read + Right.write else Right.write
        match (List.range els.length).zip els |>.findSome? fun e => (leastFault e.2.2.2.1).map fun x => (x, e.1) with
        | some (e, n) =>
          firstFault s1 c d (Desc.handle d) l need (Desc.sel d) ((els.take (n + 1)).map fun e => { elem := e.1, t := e.2.1, val := none }) e
            (place n)
        | none =>
          .go (sendDr s1 c d (.update op (els.map fun e => { elem := e.1, t := e.2.1, val := some e.2.2.2.1 })
            (els.map fun e => e.2.2.2.2.1) ret))

/-- BKUPD (R231). -/
def execBkupd (g : Guard) (f : DxWord) (s : State) : Host.Outcome State Fault Refusal :=
  issueWord g 1 (fun _ _ => updIllop f) (fun c _ s => updWord f c s) s

/-! ## The merge window (R232 to R238) -/

/-- XWIN (R237). -/
def winWord (f : DxWord) (c : Nat) (s : State) : Iss :=
  let k := s.core c
  let d := k.desc f.sd.toNat
  let h := Desc.handle d
  let op := f.sub.toNat
  if k.stores.any DrStore.updates then .stall .none s
  else if !Desc.bound d then .flt FCode.missobj 1 noElem
  else if !s.walkReady (s.principal c) h then .stall .none s
  else
    match s.lookup (s.principal c) h with
    | .bad e => .flt e.code e.detail noElem
    | .ok l =>
      if !l.bench || !s.benchHere (s.principal c) l then .flt FCode.rights 0x40 noElem
      else if !(l.fmt == 0x05 || (l.fmt == 0x10 && decide (op < 3))) then .flt FCode.fmtbad 1 noElem
      else
        .go ((s.flushWindow c).modCore c fun k =>
          { k with winBind := some { handle := h, l0 := linear l.rank l.ext (Desc.cur d), op := op, fmt := l.fmt } })

/-- XWIN (R237). -/
def execXwin (g : Guard) (f : DxWord) (s : State) : Host.Outcome State Fault Refusal :=
  issueWord g 1 (fun _ _ => DxUse.illop { sd := true, sub := true } f (decide (5 < f.sub.toNat))) (fun c _ s => winWord f c s) s

/-- Entries of a core that have left its window and are not applied (R238). -/
def windowOut (s : State) (c : Nat) : Nat := (s.bankq.filter fun r => r.win && r.core == c).length

/-- XACC (R238). -/
def accWord (f : DxWord) (c : Nat) (s : State) : Iss :=
  let k := s.core c
  let v := f.vi.toNat
  let n := f.imm.toNat
  match k.winBind with
  | none => .flt FCode.illop 0x40 noElem
  | some b =>
    if !k.awakeV v || !k.awakeV (v + 1) then .flt FCode.regcold 0 noElem
    else if k.stores.any DrStore.updates || decide (1024 < windowOut s c + n) || !s.walkReady (s.principal c) b.handle then .stall .none s
    else
      let idx := (k.drV v).toArray
      let val := (k.drV (v + 1)).toArray
      let js := (List.range n).filter fun j => idx.getD j 0 != 2 ^ 32 - 1
      let els := js.map fun j => ({ elem := j, t := [b.l0 + idx.getD j 0], val := some (val.getD j 0) } : StEl)
      match js.find? fun j => k.drPois v j || k.drPois (v + 1) j with
      | some j =>
        (match s.lookupEl (s.principal c) b.handle (fun l => unlinear l.rank l.ext (b.l0 + idx.getD (nth 0 js 0) 0)) with
         | .bad e => .go (sendDr s c [] (.lost true e.code e.detail (nth 0 js 0)))
         | .ok l =>
           firstFault s c [] b.handle l Right.write .live
             ((els.filter fun e => decide (e.elem ≤ j)).map fun e => { e with t := unlinear l.rank l.ext (nth 0 e.t 0) }) ⟨FCode.uncorr, 0⟩ j)
      | none => .go (sendDr s c [] (.entries els))

/-- XACC (R238). -/
def execXacc (g : Guard) (f : DxWord) (s : State) : Host.Outcome State Fault Refusal :=
  issueWord g 1
    (fun _ _ => DxUse.illop { vi := true, imm := true } f (f.vi.getLsbD 0 || f.imm == 0#32 || decide (1024 < f.imm.toNat)))
    (fun c _ s => accWord f c s) s

/-- What XFLUSH does when it is tried (R235): the window leaves once no word in flight can add to it. -/
def flushTry (c : Nat) (s : State) : Iss :=
  let s1 := if (s.core c).stores.any DrStore.updates then s else s.flushWindow c
  if !updatesApplied s1 c then .stall .xflush s1
  else if (s1.core c).scFail then .fail (s1.modCore c fun k => { k with scFail := false }) FCode.uncorr 2 noElem
  else .go s1

/-- XFLUSH (R235). -/
def execXflush (g : Guard) (f : DxWord) (s : State) : Host.Outcome State Fault Refusal :=
  issueWord g 1 (fun _ _ => DxUse.illop {} f false) (fun c _ s => flushTry c s) s

/-- XFLUSH_APPLIED (R235): a held XFLUSH whose updates are applied retires, or raises the failure. -/
def execXflushApplied (s : State) : Host.Outcome State Fault Refusal :=
  let c := s.unit
  if (s.core c).dr.hold ≠ .xflush then .next s
  else
    match flushTry c s with
    | .go s1 => .next (s1.issued c .dr 1 (s1.core c).dr.place.2)
    | .fail s1 code detail elem => .next (s1.issueFault c .dr code detail elem)
    | .stall _ s1 => .next s1
    | _ => .next s

end Sys2Proof.Machine
end

