-- ==== Sys2Proof/Machine/Task.lean ====
section
/-!
DEFINITION. The task instructions (04 R116 to R129).
-/

namespace Sys2Proof.Machine

/-- A task instruction that is refused at level S (R116). -/
def ctUser (i : Instr) (body : Nat → State → State) (s : State) : Host.Outcome State Fault Refusal :=
  ctOnly i (fun c s => if (s.core c).ct.sup then s.ctIllop c 0x25 else body c s) s

namespace State

/-- Reads a record image at a view address, as a load does (R118). -/
def readImage (s : State) (c : Nat) (a : Word) (cont : List Word → State) : State :=
  if a.toNat % 64 ≠ 0 then s.raiseCt c FCode.align 0 a else s.viewRead c a.toNat 64 fun bs => cont (words64 8 bs)

/-- The queue that xs2 of a TSPAWN names (R118). -/
def spawnQueue (c lvl die : Nat) : Nat := if lvl = 0 then c / 16 else if lvl = 1 then 128 + die else 136

/-- Does a TSPAWN fail (R118)?  The low bits of the value it then returns. -/
def spawnFails (s : State) (img : List Word) (lvl die j q : Nat) (link : Bool) : Option Nat :=
  if !s.imageOk img then some 5
  else if lvl = 1 ∧ !kindFits die (fld (nth 0#64 img 0) 14 2) then some 4
  else if link ∧ j ≠ 0 ∧ s.crJoin j = 2 ^ 32 - 1 then some 2
  else if s.askCrid.isNone then some 1
  else if !s.qRoom q then some 3
  else none

/-- The child of a TSPAWN (R118). -/
def spawn (s : State) (c n : Nat) (img : List Word) (j q : Nat) (link : Bool) : State :=
  let s1 := s.newRecord n img (if link then j else 0) 0 0 15 0 0 1
  let s2 := { s1 with target := Tbl.put s1.target n q }
  let s3 := if link ∧ j ≠ 0 then s2.setCrFld j 5 0 32 (s2.crJoin j + 1) else s2
  (if s3.crJoin n = 0 then s3.enqueue q n else s3).expose c

/-- The continuation of a TCONT (R119): bound for the cluster queue of the core of this clk, its JOIN one more than the image's, of 32
bits (log entry 43). -/
def continueAs (s : State) (c n : Nat) (img : List Word) : State :=
  let k := s.core c
  let tm := s.teamOf k.crid
  let rank := match s.team tm with
    | some t => ((t.members.find? fun m => m.crid = k.crid).map Member.rank).getD 0
    | none => 0
  let s1 := s.newRecord n img k.j tm 0 15 0 rank 1
  let s2 := s1.setCrFld n 5 0 32 ((s1.crJoin n + 1) % 2 ^ 32)
  let s3 := { s2 with target := Tbl.put s2.target n (c / 16) }
  let s4 := match s3.team tm with
    | some t => s3.setTeam { t with conts := t.conts ++ [(n, rank)] }
    | none => s3
  (s4.modCore c fun k => { k with j := n, cont := n }).expose c

end State

/-- TSPAWN (R118). -/
def execTspawn (b a d : BitVec 5) (s : State) : Host.Outcome State Fault Refusal :=
  ctUser (.tspawn b a d) (fun c s =>
    let x := (s.rx b).toNat
    let lvl := x % 4
    let link := bitOf x 2
    let die := bitsOf x 4 3
    if 128 ≤ x ∨ bitOf x 3 ∨ lvl = 3 ∨ (lvl ≠ 1 ∧ die ≠ 0) then s.ctIllop c 0x26
    else
      s.readImage c (s.rx a) fun img =>
        let j := (s.core c).j
        let q := State.spawnQueue c lvl die
        match s.spawnFails img lvl die j q link, s.askCrid with
        | some v, _ => s.done d (BitVec.ofNat 64 (2 ^ 63 + v))
        | none, some n => (s.spawn c n img j q link).done d (BitVec.ofNat 64 n)
        | none, none => s) s

/-- TCONT (R119). -/
def execTcont (a : BitVec 5) (s : State) : Host.Outcome State Fault Refusal :=
  ctUser (.tcont a) (fun c s =>
    if (s.core c).cont ≠ 0 then s.ctIllop c 0x27
    else
      s.readImage c (s.rx a) fun img =>
        if !s.imageOk img then s.ctIllop c 0x26
        else
          match s.freeCrid with
          | some n => (s.continueAs c n img).step4
          | none => s) s

/-- May a TEXIT end its task: the fork is over, or has come to where RDV completes, and no job with a slot endpoint is still at work
(R120, R359)? -/
def exitReady (s : State) (c : Nat) : Bool :=
  let k := s.core c
  (!k.forkOut || rdvReady k) && !s.slotJobsBusy k.crid

namespace State

/-- TEXIT completes (R120). -/
def exitTask (s : State) (c : Nat) : State :=
  let s := if (s.core c).forkOut then s.joinFork c else s
  (s.expose c).endTask c

end State

/-- TEXIT (R120). -/
def execTexit (s : State) : Host.Outcome State Fault Refusal :=
  ctUser .texit (fun c s => if exitReady s c then s.exitTask c else s.waitAt c .texit 0#5 0#5 0#5) s

/-- TEXIT_COMPLETE (R120); of a failed task, whose engines stop from the clk after the failure, once nothing of its fork is in flight
(R76). -/
def execTexitComplete (s : State) : Host.Outcome State Fault Refusal :=
  let c := s.unit
  match s.waiting c .texit, (s.core c).failed with
  | none, _ => .next s
  | some w, some (code, detail) =>
    if s.pcc ≤ w.since then .next s
    else
      let s1 := s.stopFork c
      .next (if (s1.core c).flying then s1 else s1.endFailed c code detail)
  | some _, none => .next (if exitReady s c then s.exitTask c else s)

/-- TTRIG (R121). -/
def execTtrig (s : State) : Host.Outcome State Fault Refusal :=
  ctUser .ttrig (fun c s =>
    let t := (s.core c).crid
    let s1 := if !s.crTrg t && s.fromLaunch t then s.expose c else s
    (s1.trigger t).step4) s

/-- TEAMBAD, with its detail (R127). -/
def State.teamBad (s : State) (c detail : Nat) : State := s.raiseCt c FCode.teambad detail 0#64

/-- Members that have joined a team and hold a place in it: a member, or the continuation that has taken its place (R119, R127). -/
def Team.places (t : Team) : Nat :=
  t.members.length + (t.conts.filter fun c => !t.members.any fun m => m.rank = c.2).length

namespace State

/-- A task joins a team with the next rank (R127). -/
def joinTeam (s : State) (t : Team) (crid : Nat) : State :=
  s.setTeam { t with joined := t.joined + 1, members := t.members ++ [{ crid := crid, rank := t.joined }] }

/-- Is a team stopping, or does it stand stopped: a member that has not left is STOPPING or QUEUED (R130)? -/
def teamStopped (s : State) (t : Team) : Bool := t.members.any fun m => !m.left && (s.crSt m.crid == 4 || s.crSt m.crid == 2)

/-- The gang entry of a team that stands in its die's queue is taken back: its cores are reserved no longer, and its members wait, saved, for
the rest of the gang. -/
def unqueueGang (s : State) (t : Team) : State :=
  let ms := (t.members.filter fun m => !m.left).map Member.crid
  let q := 128 + t.id / 4096
  let k := s.queue q
  match (k.head ++ k.ring ++ k.spill).find? fun e => e.gang.any ms.contains with
  | none => s
  | some e =>
    let g := nth 0 e.gang 0
    let s1 := s.setQueue q (dropEntry k e)
    let s2 := (s1.reservedFor (t.id / 4096) g).foldl (fun s c => s.modCore c fun k => { k with phase := .idle }) s1
    s2.setTeam { t with members := t.members.map fun m => if m.left then m else { m with saved := true } }

/-- The task on a core joins a team (R127).  A pre-emption of the team waits for it too; where the members are stopping or stand stopped it
stops with them, and the gang is enqueued with it (R130, R139; log entry 43). -/
def joinGang (s : State) (c : Nat) (t : Team) : State :=
  let n := (s.core c).crid
  let follow := fun (p : Preempt) => if p.team = t.id then { p with crids := p.crids ++ [n], left := p.left ++ [n] } else p
  let stops := s.teamStopped t
  let s1 := if stops then s.unqueueGang t else s
  let s2 := { s1.joinTeam ((s1.team t.id).getD t) n with preempts := s.preempts.map follow }
  if stops then s2.beginStop c (s.preempts.any fun p => p.team == t.id && p.method == 1) else s2

/-- The team word of the task on a core (R123). -/
def teamWordOf (s : State) (crid : Nat) : Word :=
  match s.team (s.teamOf crid) with
  | some t => teamWord t crid
  | none => 0#64

end State

/-- TJOIN (R127, R130). -/
def execTjoin (b a d : BitVec 5) (s : State) : Host.Outcome State Fault Refusal :=
  ctUser (.tjoin b a d) (fun c s =>
    let id := (s.rx a).toNat
    let n := (s.rx b).toNat
    let t := (s.core c).crid
    let die := c / 256
    if (id = 0 ∧ (n = 0 ∨ 256 < n)) ∨ (id ≠ 0 ∧ n ≠ 0) then s.ctIllop c 0x26
    else if s.teamOf t ≠ 0 then s.teamBad c 1
    else if id = 0 then
      match s.freeTeam die with
      | none => s.teamBad c 5
      | some i =>
        let s1 := s.joinTeam { id := i, size := n, joined := 0 } t
        s1.done d (s1.teamWordOf t)
    else
      match s.team id with
      | none => s.teamBad c 2
      | some m =>
        if id / 4096 ≠ die then s.teamBad c 3
        else if m.size ≤ m.places then s.teamBad c 4
        else
          (s.done d (State.teamWord { m with members := m.members ++ [{ crid := t, rank := m.joined }] } t)).joinGang c m) s

/-- TLEAVE (R128); a pre-emption of the team no longer waits for the task (R139). -/
def execTleave (d : BitVec 5) (s : State) : Host.Outcome State Fault Refusal :=
  ctUser (.tleave d) (fun c s =>
    let t := (s.core c).crid
    let id := s.teamOf t
    match s.team id with
    | none => s.teamBad c 6
    | some m => ((s.leaveTeam id t).leftCore t).done d (BitVec.ofNat 64 (m.size - 1))) s

namespace State

/-- A member's fields changed. -/
def modMember (s : State) (crid : Nat) (f : Member → Member) : State :=
  match s.team (s.teamOf crid) with
  | some t => s.setTeam { t with members := t.members.map fun m => if m.crid = crid then f m else m }
  | none => s

/-- A member arrives at its team's barrier (R129). -/
def arrive (s : State) (crid : Nat) : State := (s.modMember crid fun m => { m with arrived := true }).tryBarrier (s.teamOf crid)

end State

/-- TBAR (R129): it waits, and the last arrival completes the barrier for all. -/
def execTbar (d : BitVec 5) (s : State) : Host.Outcome State Fault Refusal :=
  ctUser (.tbar d) (fun c s =>
    let t := (s.core c).crid
    if s.teamOf t = 0 then s.teamBad c 6 else (s.waitAt c .tbar 0#5 0#5 d).arrive t) s

/-- TBAR_COMPLETE (R129): the barrier of a team completes for all its members while every arrival stands. -/
def execTbarComplete (s : State) : Host.Outcome State Fault Refusal :=
  let c := s.unit
  match s.waiting c .tbar with
  | some _ => .next (s.tryBarrier (s.teamOf (s.core c).crid))
  | none => .next s

/-- The item that TINFO reads (R123). -/
def tinfoItem (s : State) (c n : Nat) : Option Word :=
  let k := s.core c
  match n with
  | 0 => some (BitVec.ofNat 64 k.crid)
  | 1 => some (s.teamWordOf k.crid)
  | 2 => some (s.cr k.crid 2)
  | 3 => some (BitVec.ofNat 64 (s.crFld k.crid 6 24 24 * 2 ^ 24))
  | 4 => some (BitVec.ofNat 64 c)
  | 5 => some (s.progress c)
  | 6 => some (s.cr k.crid 0)
  | 7 => some (BitVec.ofNat 64 k.j)
  | _ => none

/-- TINFO (R123): allowed in U and S. -/
def execTinfo (a d : BitVec 5) (s : State) : Host.Outcome State Fault Refusal :=
  ctOnly (.tinfo a d) (fun c s =>
    match tinfoItem s c (s.rx a).toNat with
    | some w => s.done d w
    | none => s.ctIllop c 0x26) s

/-- TDLN (R122): the deadline of the record, and the trap is armed again. -/
def execTdln (a : BitVec 5) (s : State) : Host.Outcome State Fault Refusal :=
  ctUser (.tdln a) (fun c s =>
    ((s.setCr (s.core c).crid 2 (s.rx a)).modCore c fun k => { k with dlArmed := true }).step4) s

/-- TYIELD (R125): it retires, and the task, or its whole team, stops by save. -/
def execTyield (s : State) : Host.Outcome State Fault Refusal := ctUser .tyield (fun c s => s.step4.yieldTask c) s

end Sys2Proof.Machine
end

