-- ==== Sys2Proof/Machine/Copy.lean ====
section
/-!
DEFINITION. The copy engine (12): job cards and their checks (R333 to R340, R349, R350, R356), the stages (R341 to R348), the tiles of a job
(R351 to R355, R357) and the instructions of R360 to R365.
-/

namespace Sys2Proof.Machine

/-! ## Tile shapes (R336, R338) -/

def shBx (w : List Word) (p : Nat) : Nat := fld (nth 0#64 w (p / 2)) (32 * (p % 2)) 32
def shStep0 (w : List Word) : Int := signExt (fld (nth 0#64 w 3) 32 32) 32
def shA0 (w : List Word) : Nat := fld (nth 0#64 w 3) 29 3
def shRax (w : List Word) : Nat := fld (nth 0#64 w 3) 26 3
def shCax (w : List Word) : Nat := fld (nth 0#64 w 3) 23 3
def shPad (w : List Word) : Bool := (nth 0#64 w 3).getLsbD 22
def shStep1 (w : List Word) : Int := signExt (fld (nth 0#64 w 4) 32 32) 32
def shA1 (w : List Word) : Nat := fld (nth 0#64 w 4) 29 3
def shN0 (w : List Word) : Nat := fld (nth 0#64 w 4) 0 16

/-- Does an image break R336? -/
def shapeImageBad (w : List Word) : Bool :=
  (List.range 5).any (fun p => shBx w p == 0) || fld (nth 0#64 w 2) 32 32 != 0 || fld (nth 0#64 w 3) 0 22 != 0 ||
    fld (nth 0#64 w 4) 16 13 != 0 || decide (4 < shA0 w) || decide (4 < shA1 w) || decide (4 < shRax w) || decide (4 < shCax w) ||
    shRax w == shCax w || shN0 w == 0 || (w.drop 5).any (· != 0#64)

/-- Is a tile two-dimensional (R338)? -/
def twoDim (w : List Word) : Bool := (List.range 5).all fun p => p == shRax w || p == shCax w || shBx w p == 1

def shTr (w : List Word) : Nat := shBx w (shRax w)
def shTc (w : List Word) : Nat := shBx w (shCax w)

/-- The origin of tile `t` (R338). -/
def tileOrigin (l : Layout) (w : List Word) (org t : Nat) : List Nat :=
  let o := modAt (fun x => imod (x + (t % shN0 w : Nat) * shStep0 w) (2 ^ 32)) (unlinear l.rank l.ext org) (shA0 w)
  modAt (fun x => imod (x + (t / shN0 w : Nat) * shStep1 w) (2 ^ 32)) o (shA1 w)

/-- The offsets of a box in natural order. -/
def boxOffsets (w : List Word) : Nat → List (List Nat)
  | 0 => [[]]
  | n + 1 => (boxOffsets w n).flatMap fun o => tab (shBx w n) fun i => o ++ [i]

/-- The tuples of tile `t`: in tile order, or in the natural order of the box (R338). -/
def tileTuples (l : Layout) (w : List Word) (org t : Nat) : List (List Nat) :=
  let o := tileOrigin l w org t
  if twoDim w then
    tab (shTr w * shTc w) fun n => modAt (· + n % shTc w) (modAt (· + n / shTc w) o (shRax w)) (shCax w)
  else (boxOffsets w 5).map fun d => List.zipWith (· + ·) o d

/-- Does PAD make the element read as zero, or skip it (R336, R338)? -/
def padded (l : Layout) (w : List Word) (t : List Nat) : Bool :=
  let out := (List.range l.rank).filter fun p => decide (l.e p ≤ nth 0 t p)
  shPad w && !out.isEmpty && out.all fun p => p == shRax w || p == shCax w

/-! ## Cards (R333 to R335, R346) -/

namespace Job

def stage (j : Job) (i : Nat) : Nat := fld (j.w 0) (40 + 4 * i) 4
/-- The chain, up to the first 0. -/
def chain (j : Job) : List Nat := (tab 6 j.stage).takeWhile (· != 0)
def has (j : Job) (id : Nat) : Bool := j.chain.contains id
def xfmt (j : Job) : Nat := fld (j.w 0) 32 8
def pfmt (j : Job) : Nat := fld (j.w 0) 24 8
def rm (j : Job) : Nat := fld (j.w 0) 13 3
def pl (j : Job) : Nat := fld (j.w 0) 8 5
def aform (j : Job) : Nat := fld (j.w 0) 5 3
def sck (j : Job) : Int := signExt (fld (j.w 1) 40 8) 8
def seed (j : Job) : Nat := fld (j.w 2) 0 32
def lzd (j : Job) : Bool := j.stage 0 == 1
def used (j : Job) (i : Nat) : Bool := j.role i != 0
def shape (j : Job) (i : Nat) : List Word := nth [] j.shapes i
/-- How often a role stands on the card. -/
def count (j : Job) (r : Nat) : Nat := ((List.range 4).filter fun i => j.role i == r).length

end Job

def pfmtOk (f : Nat) : Bool := f == 0x11 || f == 0x12 || f == 0x13 || f == 0x14 || isMx f || isSmb f

/-- Does a region break R334 or R335? -/
def regionBad (j : Job) (i : Nat) : Bool :=
  let c := j.w (6 + 3 * i)
  if j.role i = 0 then j.handle i != 0#64 || j.w (5 + 3 * i) != 0#64 || c != 0#64
  else
    decide (4 < j.role i) || fld c 0 24 != 0 || j.shapeId i == 0 || (j.draft i && j.vsel i != 0) ||
      (j.role i == 2 && !j.draft i && j.vsel i != 0)

/-- Check 4 of R356: R333 to R335, R345 and R346. -/
def cardBad (j : Job) : Bool :=
  let ring := j.bmode != 0
  let rounds := (j.chain.filter fun x => x == 2 || x == 3 || x == 5).length
  fld (j.w 0) 16 8 != 0 || fld (j.w 0) 0 5 != 0 || fld (j.w 1) 0 24 != 0 || fld (j.w 2) 32 32 != 0 || j.w 3 != 0#64 ||
  j.rm == 7 || j.bmode == 3 || j.nt == 0 ||
  (if j.has 2 then !(j.xfmt == 0x10 || j.xfmt == 0x11 || j.xfmt == 0x12) else j.xfmt != 0) ||
  (!j.has 5 && j.pfmt != 0) ||
  (if j.has 6 then !(j.aform == 1 || j.aform == 2 || j.aform == 4) || j.pl == 1 || decide (25 < j.pl) || (j.aform == 2 && j.pl != 0)
   else j.aform != 0 || j.pl != 0) ||
  (!j.has 3 && j.sck != 0) || (j.rm != 6 && j.seed != 0) || (j.rm == 6 && rounds != 1) ||
  (!ring && (j.nbm1 != 0 || j.cb0 != 0)) || (!(j.skind || j.dkind) && j.slot0 != 0) ||
  (j.skind && j.dkind) || (j.dkind && j.bmode != 1) || (j.skind && j.bmode != 2) ||
  decide (63 < j.slot0 + j.nbm1) || decide (15 < j.cb0 + j.nbm1) || (List.range 4).any (regionBad j) ||
  j.count 1 != (if j.skind then 0 else 1) || j.count 2 != (if j.dkind then 0 else 1) || decide (1 < j.count 3) ||
  (j.count 3 == 1 && (j.count 1 == 0 || j.lzd))

/-! ## The chain (R339, R340) -/

/-- A kind: elements of a format, an array form, or elements whose format is known only when the job runs. -/
inductive CKind where
  | elem (f : Nat)
  | form (a : Nat)
  | later
deriving DecidableEq, Repr

def takesTransp (f : Nat) : Bool :=
  f == 0x00 || f == 0x01 || f == 0x02 || f == 0x04 || f == 0x05 || f == 0x10 || f == 0x11 || f == 0x12 || f == 0x13 || f == 0x14

/-- Does a stage take elements of a format (R339)? -/
def stageTakes (id f : Nat) : Bool :=
  match id with
  | 2 => planeFmt f
  | 3 | 5 => f == 0x10 || f == 0x11 || f == 0x12
  | 4 => takesTransp f
  | _ => takesTransp f && f != 0x00

/-- What a stage gives; none where it does not take the kind. -/
def stageKind (j : Job) (id : Nat) (k : CKind) : Option CKind :=
  let ok := match k with
    | .elem f => stageTakes id f
    | .form _ => false
    | .later => true
  if !ok then none
  else
    some (match id with
      | 2 => .elem j.xfmt
      | 5 => .elem j.pfmt
      | 6 => .form j.aform
      | _ => k)

/-- The chain from position `p` on, with the ids seen: the detail of a STAGEBAD, or the last kind. -/
def chainGo (j : Job) : Nat → Nat → List Nat → CKind → Nat ⊕ CKind
  | 0, _, _, k => .inr k
  | n + 1, p, seen, k =>
    let id := j.stage p
    if id = 0 then chainGo j n (p + 1) (0 :: seen) k
    else if 6 < id ∨ seen.contains id ∨ seen.contains 0 then .inl (16 * p + 1)
    else if id = 1 then (if p = 0 && !j.skind then chainGo j n 1 [1] .later else .inl (16 * p + 2))
    else
      match stageKind j id k with
      | none => .inl (16 * p + 2)
      | some k' => chainGo j n (p + 1) (id :: seen) k'

/-- The STAGEBAD detail of a chain, if any, for the first kind and the format of a destination object (R340). -/
def chainBad (j : Job) (first : CKind) (dst : Option Nat) : Option Nat :=
  match chainGo j 6 0 [] first with
  | .inl d => some d
  | .inr k =>
    match dst, k with
    | some f, .elem g => if f = g then none else some 99
    | some _, .form _ => some 99
    | _, _ => none

/-! ## Geometry (R338, R344, R345) -/

/-- Do 32 elements of a tile row, from column 0 on, always make a block of the object: columns along the last position, in step with
the blocks? -/
def rowBlocks (l : Layout) (w : List Word) (org : Nat) : Bool :=
  let c := shCax w
  let al := fun (p : Nat) (x : Int) => p != c || x % 32 == 0
  c + 1 == l.rank && shTc w % 32 == 0 && nth 0 (unlinear l.rank l.ext org) c % 32 == 0 && al (shA0 w) (shStep0 w) &&
    al (shA1 w) (shStep1 w)

/-- The rules of R338 on a region and its object; a source of frames or scales needs no axes (log entry 27). -/
def regionBox (j : Job) (i : Nat) (l : Layout) : Bool :=
  let w := j.shape i
  let flat := j.role i == 3 || (j.role i == 1 && j.lzd)
  (List.range 5).any (fun p => decide (l.rank ≤ p) && shBx w p != 1) || decide (l.rank ≤ shA0 w) || decide (l.rank ≤ shA1 w) ||
    (!flat && (decide (l.rank ≤ shRax w) || decide (l.rank ≤ shCax w)))

/-- Must tiles be two-dimensional (R338)? -/
def needsTwo (j : Job) : Bool := j.skind || j.dkind || j.has 4 || j.has 6 || (j.has 5 && (isMx j.pfmt || isSmb j.pfmt))

/-- The format of what the chain gives, as far as it is elements. -/
def lastFmt (j : Job) (f : Nat) : Nat := j.chain.foldl (fun f id => if id = 2 then j.xfmt else if id = 5 then j.pfmt else f) f

/-- TR and TC as a stage receives them: exchanged after TRANSP. -/
def turned (before : List Nat) (tr tc : Nat) : Nat × Nat := if before.contains 4 then (tc, tr) else (tr, tc)

/-- Check 9 for a tile of known shape on its way through the chain (R344, R345, R204): PACK to blocks, the shape of PLANE. -/
def shapeFault (j : Job) (tr tc : Nat) : Option Nat :=
  let upTo := fun (id : Nat) => j.chain.takeWhile (· != id)
  let atPack := turned (upTo 5) tr tc
  let atPlane := turned (upTo 6) tr tc
  if j.has 5 ∧ (isMx j.pfmt || isSmb j.pfmt) ∧ atPack.2 % 32 ≠ 0 then some 0x64
  else if j.has 6 ∧ (if j.aform = 2 then 16 < atPlane.1 ∨ 32 < atPlane.2 else 32 < atPlane.1 ∨ 64 < atPlane.2) then some 0x32
  else none

/-- Does a RAW slot not hold the tile (R202, R204), or its tag not its shape (R201)? -/
def rawFault (f tr tc : Nat) : Bool :=
  decide (0x1FF0 < rawEnd f (tr * tc)) || decide (255 < tr) || decide (255 < tc) || ((isMx f || isSmb f) && tc % 32 != 0)

/-- Check 9 of R356: `ls` holds the layout of every region in use. -/
def geomFault (j : Job) (ls : List (Nat × Layout)) : Option Nat :=
  let lay := fun (r : Nat) => ls.find? fun e => j.role e.1 == r
  let two := needsTwo j
  let bad := ls.any fun e =>
    let w := j.shape e.1
    regionBox j e.1 e.2 ||
      (((j.role e.1 == 1 && !j.lzd) || j.role e.1 == 2) && !twoDim w && (two || isMx e.2.fmt || isSmb e.2.fmt)) ||
      (isSmb e.2.fmt && (j.role e.1 == 2 || (j.role e.1 == 1 && j.chain.isEmpty)) && !rowBlocks e.2 w (j.org e.1))
  if bad then some 0x64
  else
    match lay 1, lay 2 with
    | some (i, l), d =>
      if j.lzd then
        -- the decoded tile must fit the destination box, after any TRANSP
        (match d with
         | some (k, _) =>
           let w := j.shape k
           let t := if j.has 4 then (shTc w, shTr w) else (shTr w, shTc w)
           shapeFault j t.1 t.2
         | none => none)
      else
        let w := j.shape i
        let fit := if twoDim w then shapeFault j (shTr w) (shTc w) else none
        (match fit, d with
         | some e, _ => some e
         | none, some (k, _) =>
           let v := j.shape k
           if twoDim w && twoDim v then
             (if turned j.chain (shTr w) (shTc w) = (shTr v, shTc v) then none else some 0x64)
           else if (List.range 5).all fun p => shBx w p == shBx v p then none
           else some 0x64
         | none, none =>
           if j.has 6 then none
           else
             let t := turned j.chain (shTr w) (shTc w)
             let f := lastFmt j l.fmt
             if rawFault f t.1 t.2 || ((isMx f || isSmb f) && f == l.fmt && !j.has 5 && !rowBlocks l w (j.org i)) then some 0x32 else none)
    | none, some (k, _) =>
      let w := j.shape k
      let t := if j.has 4 then (shTc w, shTr w) else (shTr w, shTc w)
      shapeFault j t.1 t.2
    | none, none => none

/-! ## Footprints (R349, R350, R177) -/

/-- The ranges of a region over the tiles from `t0` on (R349). -/
def footRanges (j : Job) (i : Nat) (l : Layout) (t0 : Nat) : List Nat × List Nat :=
  let w := j.shape i
  let clip := fun (lo hi : List Nat) => (lo, List.zipWith (fun h e => min h (e - 1)) hi l.ext)
  if j.role i = 1 && j.lzd then clip [j.org i, 0, 0, 0, 0] [j.org i + shBx w 0 - 1, 0, 0, 0, 0]
  else
    let o0 := tileOrigin l w (j.org i) t0
    let r := (List.range (j.nt - t0 - 1)).foldl (fun (a : List Nat × List Nat) n =>
      let o := tileOrigin l w (j.org i) (t0 + n + 1)
      (List.zipWith min a.1 o, List.zipWith max a.2 o)) (o0, o0)
    clip r.1 (List.zipWith (fun h p => h + shBx w p - 1) r.2 (List.range 5))

/-! ## Acceptance (R356, R361) -/

namespace State

/-- The shapes of the task on a core: owner, and whether it is a team (R337). -/
def shapeOwner (s : State) (crid : Nat) : Nat × Bool := if s.teamOf crid = 0 then (crid, false) else (s.teamOf crid, true)

def findShape (s : State) (die crid id : Nat) : Option Shape :=
  let o := s.shapeOwner crid
  (s.shapes.find? fun e => e.1 = die ∧ e.2.owner = o.1 ∧ e.2.isTeam = o.2 ∧ e.2.id = id).map (·.2)

/-- Check 7 of R356 for one region, and the version it binds; a Bench object has no draft that could be claimed. -/
def regionCheck (s : State) (j : Job) (i : Nat) : Rs (Layout × Nat) :=
  let pr := j.principal
  let h := j.handle i
  let key := Handle.key h
  match s.lookupHome pr h with
  | .bad f => .bad f
  | .ok l =>
    match s.checkRights pr h l (if j.role i = 2 then Right.write else Right.read) false with
    | some f => .bad f
    | none =>
      if l.bench then
        (if j.draft i then .bad ⟨FCode.vergone, 2⟩
         else if 1 < j.vsel i then .bad ⟨FCode.vergone, 3⟩
         else .ok (l, 0))
      else if j.draft i then
        (match s.checkVer pr key l .draft with
         | some f => .bad f
         | none => .ok (l, 0))
      else if j.role i = 2 then .bad ⟨FCode.vergone, 4⟩
      else
        let v := if j.vsel i = 0 then s.curv key else j.vsel i
        match s.checkVer pr key l (.ver v) with
        | some f => .bad f
        | none => .ok (l, v)

/-- Check 7 for the regions in use, in order. -/
def regionsCheck (s : State) (j : Job) : List Nat → Rs (List (Nat × Layout × Nat))
  | [] => .ok []
  | i :: t =>
    if !j.used i then regionsCheck s j t
    else
      match s.regionCheck j i with
      | .bad f => .bad f
      | .ok r =>
        match regionsCheck s j t with
        | .bad f => .bad f
        | .ok rs => .ok ((i, r) :: rs)

/-- The format of the object of a region with a role, where it can be looked up. -/
def peekFmt (s : State) (j : Job) (r : Nat) : Option Nat :=
  (j.region r).bind fun i =>
    match s.lookup j.principal (j.handle i) with
    | .ok l => some l.fmt
    | .bad _ => none

/-- The footprint of a region in use. -/
def footOf (s : State) (j : Job) (e : Nat × Layout × Nat) (t0 : Nat) : Foot :=
  let r := footRanges j e.1 e.2.1 t0
  let key := Handle.key (j.handle e.1)
  { key := key, ver := if j.draft e.1 then s.curv key + 1 else e.2.2, w := j.role e.1 == 2 || j.role e.1 == 4, lo := r.1, hi := r.2 }

/-- Check 10 of R356 (R350). -/
def overlaps (s : State) (j : Job) (rs : List (Nat × Layout × Nat)) (t0 : Nat) : Bool :=
  match rs.find? fun e => j.role e.1 = 1, rs.find? fun e => j.role e.1 = 2 with
  | some a, some b =>
    let sameRegion := j.handle a.1 == j.handle b.1 && j.org a.1 == j.org b.1 && j.shape a.1 == j.shape b.1 && j.vsel a.1 == j.vsel b.1 &&
      j.draft a.1 == j.draft b.1 && j.chain.all (· == 3)
    Handle.key (j.handle a.1) == Handle.key (j.handle b.1) && ((j.draft a.1 && j.draft b.1) || a.2.1.bench) && !sameRegion &&
      (s.footOf j a t0).meets (s.footOf j b t0)
  | _, _ => false

/-- A JID that no entry of the die, and no job of the task, has (R331). -/
def freeJid (s : State) (die crid : Nat) : Nat :=
  ((List.range (s.jobs.length + 1)).find? fun n => !s.jobs.any fun x => x.jid == n + 1 && (x.die == die || x.crid == crid)).elim 1 (· + 1)

/-- The checks of R356 from 4 on, and the acceptance of R361.  A PFMT that PACK does not take is FMTBAD (R59, R339), found at check 8 with
the other formats (log entry 43). -/
def acceptJob (s : State) (c : Nat) (card : List Word) (t0 : Nat) (cont : State → Word → State) : State :=
  let t := (s.core c).crid
  let pr := s.principal c
  let die := c / 256
  let j0 : Job :=
    { jid := s.freeJid die t, ord := s.order, crid := t, team := pr.team, cls := pr.cls, code := pr.code, core := c, die := die, card := card, shapes := []
      vers := [], foot := [], tdone := t0, st := 0 }
  let regs := List.range 4
  if cardBad j0 then s.ctIllop c 0x60
  else if regs.any (fun i => j0.used i && (s.findShape die t (j0.shapeId i)).isNone) then s.ctIllop c 0x63
  else
    let j := { j0 with shapes := regs.map fun i => ((s.findShape die t (j0.shapeId i)).map Shape.w).getD [] }
    let first : CKind := match s.peekFmt j 1 with
      | some f => .elem f
      | none => .later
    match chainBad j first (s.peekFmt j 2) with
    | some d => s.raiseCt c FCode.stagebad d 0#64
    | none =>
      if regs.any fun i => j.used i && s.handleForm (j.handle i) && s.entryLocked (j.handle i) then s
      else
        match s.regionsCheck j regs with
        | .bad f => s.raiseCt c f.code f.detail 0#64
        | .ok rs =>
          let flat := fun (l : Layout) => l.fmt == 0x00 && l.rank == 1
          if j.has 5 && !pfmtOk j.pfmt then s.raiseCt c FCode.fmtbad 1 0#64
          else if j.lzd && rs.any (fun e => j.role e.1 == 1 && !flat e.2.1) then s.raiseCt c FCode.fmtbad 1 0#64
          else if rs.any fun e => j.role e.1 == 3 && !flat e.2.1 then s.raiseCt c FCode.fmtbad 4 0#64
          else
            match geomFault j (rs.map fun e => (e.1, e.2.1)) with
            | some d => s.ctIllop c d
            | none =>
              if s.overlaps j rs t0 then s.raiseCt c FCode.overlap 1 0#64
              else if 16 ≤ ((s.jobsOf t).filter (·.die == die)).length then cont s (BitVec.ofNat 64 (2 ^ 63 + 1))
              else
                let vers := regs.map fun i => ((rs.find? fun e => e.1 = i).map (·.2.2)).getD 0
                let s1 := rs.foldl (fun s e => if e.2.2 = 0 then s else (s.pin (Handle.key (j.handle e.1)) e.2.2).getD s) s
                cont { s1 with order := s1.order + 1, jobs := s1.jobs ++ [{ j with vers := vers, foot := rs.map fun e => s.footOf j e t0 }] }
                  (BitVec.ofNat 64 j.jid)

end State

/-- CJOB (R356, R360, R361). -/
def execCjob (b a d : BitVec 5) (s : State) : Host.Outcome State Fault Refusal :=
  ctOnly (.cjob b a d) (fun c s =>
    let at_ := s.rx a
    let t0 := (s.rx b).toNat
    if at_.toNat % 64 ≠ 0 then s.raiseCt c FCode.align 0 at_
    else
      s.viewRead c at_.toNat 128 fun bs =>
        let card := words64 16 bs
        if fld (nth 0#64 card 1) 48 16 ≤ t0 then s.ctIllop c 0x26
        else s.acceptJob c card t0 fun s v => s.done d v) s

/-! ## Tiles: sources (R347, R348, R351) -/

/-- What a tile is between stages: its format, its rows and columns, its elements in tile or box order, and of an SMB format the block of
every 32 of them. -/
structure TileV where
  f : Nat
  tr : Nat
  tc : Nat
  els : List Item
  blks : List Nat

/-- A fault of a running job (R357): code, detail, ELEM and REG, and the index tuple at which it was met. -/
structure JFlt where
  code : Nat
  detail : Nat
  elem : Nat
  reg : Nat
  t : List Nat := []

def noEl : Nat := 2 ^ 32 - 1

/-- The first element of every 32. -/
def heads (l : List Nat) : List Nat := (chunks 32 (l.length + 1) l).map fun g => nth 0 g 0

namespace State

/-- The version that region `i` of a job names. -/
def jobSel (s : State) (j : Job) (i : Nat) : VSel :=
  if nth 0 j.vers i = 2 ^ 32 then .gone
  else if j.draft i then .draft
  else if nth 0 j.vers i = 0 then (if (s.ew (Handle.key (j.handle i)) 7).toNat % 16 = 4 then .live else .ver 0)
  else .ver (nth 0 j.vers i)

/-- Reads bytes of a region of bytes, from index `off` on; `elem` is reported for a fault. -/
def regionBytes (s : State) (j : Job) (i : Nat) (l : Layout) (elem off : Nat) : Nat → JFlt ⊕ List Byte
  | 0 => .inr []
  | n + 1 =>
    match s.readElem j.principal (j.handle i) l [off, 0, 0, 0, 0] (s.jobSel j i) false with
    | .bad f => .inl ⟨f.code, f.detail, elem, i, [off, 0, 0, 0, 0]⟩
    | .ok x =>
      match regionBytes s j i l elem (off + 1) n with
      | .inl f => .inl f
      | .inr r => .inr (BitVec.ofNat 8 x.1.code :: r)

end State

/-- A frame's header (R347): CLEN, CFMT, TR, TC, DLEN. -/
structure LzdHdr where
  clen : Nat
  cfmt : Nat
  tr : Nat
  tc : Nat
  dlen : Nat

/-- A header's fields, unless it breaks R347; `off` is its offset and `lim` the end of the region. -/
def lzdHeader (bs : List Byte) (off lim : Nat) : Option LzdHdr :=
  let w0 := leNat (bs.take 8)
  let w1 := leNat (bs.drop 8)
  let h : LzdHdr := { clen := bitsOf w0 32 32, cfmt := bitsOf w0 24 8, tr := bitsOf w0 16 8, tc := bitsOf w0 8 8, dlen := bitsOf w1 32 32 }
  let size := rawEnd h.cfmt (h.tr * h.tc)
  if off % 16 ≠ 0 ∨ bitsOf w0 0 8 ≠ 0x5A ∨ bitsOf w1 0 32 ≠ 0 ∨ h.tr = 0 ∨ 64 < h.tr ∨ h.tc = 0 ∨ 64 < h.tc ∨ fmtBits h.cfmt = 0 ∨
    h.dlen ≠ size ∨ 0x1FF0 < size ∨ lim < off + 16 + h.clen then none
  else some h

/-- The tokens of a payload decoded (R347): the bytes decoded so far stand in `out`, newest first; none for a payload that breaks it,
with the number of bytes decoded. -/
def lzdDecode (dlen : Nat) : Nat → List Byte → List Byte → Nat ⊕ List Byte
  | 0, _, out => .inl out.length
  | _ + 1, [], out => if out.length = dlen then .inr out.reverse else .inl out.length
  | fuel + 1, c :: t, out =>
    let k := c.toNat % 64
    let put := fun (n : Nat) (rest out' : List Byte) =>
      if dlen < out.length + n then .inl out.length else lzdDecode dlen fuel rest out'
    match c.toNat / 64 with
    | 0 => if t.length < k + 1 then .inl out.length else put (k + 1) (t.drop (k + 1)) ((t.take (k + 1)).reverse ++ out)
    | 1 =>
      let d := leNat (t.take 2)
      if t.length < 2 ∨ d = 0 ∨ out.length < d then .inl out.length
      else put (k + 3) (t.drop 2) ((List.range (k + 3)).foldl (fun o _ => nth 0#8 o (d - 1) :: o) out)
    | 2 =>
      (match t with
       | [] => .inl out.length
       | b :: t' => put (k + 1) t' (List.replicate (k + 1) b ++ out))
    | _ => put (8 * (k + 1)) t (List.replicate (8 * (k + 1)) 0#8 ++ out)

/-- The elements of a slot of form RAW or SMB (R202, R348). -/
def slotTile (x : Slot) : TileV :=
  let f := x.fmt
  if x.form = 3 then
    let n := if f = 0x41 then 16 else 32
    let bs := tab x.tr fun m => x.num (n * m) n
    { f := f, tr := x.tr, tc := 32, els := (bs.map fun b => tab 32 fun i => ⟨(smbElem f b i).getD 0, none⟩).flatten, blks := bs }
  else
    let total := x.tr * x.tc
    let codes := tab total fun n => x.rawCode f n
    { f := f, tr := x.tr, tc := x.tc
      els := (codes.zip (List.range total)).map fun e =>
        { code := if isSmb f then (smbElem f e.1 (e.2 % 32)).getD 0 else e.1
          sc := if isMx f then some (x.byte (Slot.rawScaleAt f total e.2)).toNat else none }
      blks := if isSmb f then heads codes else [] }

/-- The least element of a slot tile that is poisoned, or lies in a sparse-mask block with too many bits. -/
def slotTileFault (x : Slot) (v : TileV) : Option (Nat × Flt) :=
  (List.range v.els.length).findSome? fun n =>
    let smb := x.form = 3
    let w := if x.fmt = 0x41 then 16 else 32
    let pois := if smb then x.pois (w * (n / 32)) w
      else
        let (o, b, k) := Slot.rawPlace x.fmt n
        x.pois o ((b + k + 7) / 8) || (isMx x.fmt && x.pois (Slot.rawScaleAt x.fmt v.els.length n) 1)
    if isSmb x.fmt && (smbElem x.fmt (nth 0 v.blks (n / 32)) 0).isNone then some (n, ⟨FCode.fmtbad, 2⟩)
    else if pois then some (n, ⟨FCode.uncorr, 0⟩)
    else none

namespace State

/-- The header of frame `t` of an LZD source: frames follow one another from ORG (R347). -/
def frameAt (s : State) (j : Job) (i : Nat) (l : Layout) (lim : Nat) : Nat → Nat → JFlt ⊕ (Nat × LzdHdr)
  | t, off =>
    let hdr : JFlt ⊕ LzdHdr :=
      if lim < off + 16 then .inl { code := FCode.fmtbad, detail := 8, elem := 0, reg := i }
      else
        match s.regionBytes j i l 0 off 16 with
        | .inl e => .inl e
        | .inr bs =>
          match lzdHeader bs off lim with
          | none => .inl { code := FCode.fmtbad, detail := 8, elem := 0, reg := i }
          | some h => .inr h
    match t, hdr with
    | _, .inl e => .inl e
    | 0, .inr h => .inr (off, h)
    | n + 1, .inr h => frameAt s j i l lim n (roundUp (off + 16 + h.clen) 16)

/-- The decoded tile of frame `t` (R347, R348), as a slot of form RAW. -/
def lzdTile (s : State) (j : Job) (i : Nat) (l : Layout) (t : Nat) : JFlt ⊕ Slot :=
  match s.frameAt j i l (j.org i + shBx (j.shape i) 0) t (j.org i) with
  | .inl e => .inl e
  | .inr (off, h) =>
    match s.regionBytes j i l 0 (off + 16) h.clen with
    | .inl e => .inl e
    | .inr bs =>
      match lzdDecode h.dlen (h.clen + 1) bs [] with
      | .inl n => .inl { code := FCode.fmtbad, detail := 9, elem := n, reg := i }
      | .inr out => .inr (mkSlot ([(0, out)] ++ tagPiece h.cfmt h.tr h.tc 0 0))

/-- The separate scales of a tile: a DESYNC, a fault of the scale object, or the blocks of the tile with their scale bytes (R205, R348). -/
def ssrcScales (s : State) (j : Job) (k : Nat) (t : Nat) (l : Layout) (w : List Word) (ts : List (List Nat)) :
    JFlt ⊕ List ((Nat × Nat) × Nat) :=
  let spt := shBx (j.shape k) 0
  let bs := blocksOf l (ts.filter fun x => !padded l w x && (outOf l x).isNone)
  let sc := j.org k + t * spt
  let uses := (j.chain.isEmpty && isMx l.fmt) || j.chain.any fun id => id == 2 || id == 3 || id == 5 || id == 6
  if !uses then .inl { code := FCode.desync, detail := 3, elem := noEl, reg := k }
  else if bs.length ≠ spt then .inl { code := FCode.desync, detail := 1, elem := noEl, reg := k }
  else
    match s.lookupEl j.principal (j.handle k) (fun _ => [sc]) with
    | .bad e => .inl { code := e.code, detail := e.detail, elem := noEl, reg := k }
    | .ok m =>
      if m.e 0 < sc + spt then .inl { code := FCode.desync, detail := 2, elem := noEl, reg := k }
      else
        match s.regionBytes j k m noEl sc spt with
        | .inl e => .inl e
        | .inr r => .inr (bs.zip (r.map (·.toNat)))

/-- An element under the separate scale of its block. -/
def underScale (l : Layout) (w : List Word) (sc : List ((Nat × Nat) × Nat)) (x : Item) (t : List Nat) : Item :=
  if padded l w t then x else { x with sc := (sc.find? fun b => b.1 = blockOf l t).map (·.2) }

/-- The source tile of a region (R338, R348, R351): a DESYNC comes first, then the least element at fault, then the scale object
(R357). -/
def regionTile (s : State) (j : Job) (i : Nat) (l : Layout) (t : Nat) : JFlt ⊕ TileV :=
  let w := j.shape i
  let ts := tileTuples l w (j.org i) t
  let cells := (List.range ts.length).zip (ts.map fun x => if padded l w x then none else some x)
  let sc : JFlt ⊕ List ((Nat × Nat) × Nat) :=
    match j.region 3 with
    | none => .inr []
    | some k => s.ssrcScales j k t l w ts
  let early := match sc with
    | .inl e => if e.code = FCode.desync then some e else none
    | .inr _ => none
  match early with
  | some e => .inl e
  | none =>
    match readCells s j.principal (j.handle i) l (s.jobSel j i) (j.region 3).isNone cells, sc with
    | .bad n f u, _ =>
      (match s.readElemJob j.principal (j.handle i) l u (s.jobSel j i) (j.region 3).isNone with
       | .bad g => .inl ⟨g.code, g.detail, n, i, u⟩
       | .ok _ => .inl ⟨f.code, f.detail, n, i, u⟩)
    | .ok _, .inl e => .inl e
    | .ok r, .inr scs =>
      let xs := r.map (·.2.1)
      .inr { f := l.fmt, tr := if twoDim w then shTr w else ts.length, tc := if twoDim w then shTc w else 1
             els := if (j.region 3).isNone then xs else List.zipWith (underScale l w scs) xs ts
             blks := if isSmb l.fmt then heads (r.map (·.2.2)) else [] }

end State

/-- The chain from position `p` on, checked against a kind found at run time (R340, R348). -/
def chainRun (j : Job) : Nat → Nat → CKind → Nat ⊕ CKind
  | 0, _, k => .inr k
  | n + 1, p, k =>
    if j.stage p = 0 then .inr k
    else
      match stageKind j (j.stage p) k with
      | none => .inl (16 * p + 2)
      | some k' => chainRun j n (p + 1) k'

/-- The STAGEBAD detail of a tile whose format was found at run time, for the format of a destination object (R348). -/
def chainLate (j : Job) (f : Nat) (dst : Option Nat) : Option Nat :=
  let start := if j.lzd then 1 else 0
  match chainRun j (6 - start) start (.elem f), dst with
  | .inl d, _ => some d
  | .inr (.elem g), some e => if g = e then none else some 99
  | .inr _, some _ => some 99
  | .inr _, none => none

/-- The tile of a slot that has been read or decoded, with the checks of R348; `reg` is reported for it, `dst` is the format of a
destination object. -/
def checkedTile (j : Job) (x : Slot) (reg : Nat) (dst : Option Nat) : JFlt ⊕ TileV :=
  let v := slotTile x
  let tt := turned j.chain v.tr v.tc
  let misfit :=
    match (j.region 2).map fun k => j.shape k with
    | some w => !twoDim w || tt != (shTr w, shTc w)
    | none => (shapeFault j v.tr v.tc).isSome || (!j.has 6 && rawFault (lastFmt j v.f) tt.1 tt.2)
  if (x.form ≠ 0 ∧ x.form ≠ 3) ∨ fmtBits x.fmt = 0 ∨ (x.form = 3 ∧ !isSmb x.fmt) then .inl { code := FCode.fmtbad, detail := 7, elem := noEl, reg := reg }
  else if misfit then .inl { code := FCode.fmtbad, detail := 0xA, elem := noEl, reg := reg }
  else
    match chainLate j v.f dst with
    | some d => .inl { code := FCode.stagebad, detail := d, elem := noEl, reg := reg }
    | none =>
      match slotTileFault x v with
      | some (n, f) => .inl { code := f.code, detail := f.detail, elem := n, reg := reg }
      | none => .inr v

/-! ## Stages (R341 to R346) -/

/-- The rounding mode of output element `n`. -/
def jobMode (j : Job) (ds : Array Nat) (n : Nat) : RMode := (RMode.ofNat j.rm (ds.getD n 0)).getD .rne

/-- Applies a function of element number and element. -/
def TileV.mapEls (v : TileV) (f : Nat → Item → Item) : List Item := List.zipWith f (List.range v.els.length) v.els

/-- EXPAND (R341). -/
def stExpand (j : Job) (ds : Array Nat) (v : TileV) : TileV :=
  { v with f := j.xfmt, blks := [], els := v.mapEls fun n x => ⟨roundElem j.xfmt (jobMode j ds n) (x.val v.f), none⟩ }

/-- SCALE (R342). -/
def stScale (j : Job) (ds : Array Nat) (v : TileV) : TileV :=
  { v with els := v.mapEls fun n x => ⟨roundElem v.f (jobMode j ds n) ((x.val v.f).scale j.sck), none⟩ }

/-- TRANSP (R343). -/
def stTransp (v : TileV) : TileV :=
  let a := v.els.toArray
  { v with tr := v.tc, tc := v.tr, els := tab (v.tr * v.tc) fun n => a.getD (v.tc * (n % v.tr) + n / v.tr) Item.zero }

/-- One block of PACK to a block format (R344): its elements, and its sparse-mask block. -/
def packBlock (f : Nat) (vs : List FVal) (ms : List RMode) : List Item × Nat :=
  if isMx f then
    let r := mxBlock f (vs.map fun v => if v.isFin then some v else none) ms
    (r.2.map fun c => ⟨c, some r.1⟩, 0)
  else
    let b := smbBlock f (List.zipWith (fun v m => roundElem f m v) vs ms)
    (tab vs.length fun i => ⟨(smbElem f b i).getD 0, none⟩, b)

/-- PACK (R344). -/
def stPack (j : Job) (ds : Array Nat) (v : TileV) : TileV :=
  let f := j.pfmt
  if isMx f || isSmb f then
    let vs := v.mapEls (fun _ x => x) |>.map (Item.val v.f)
    let ms := tab v.els.length (jobMode j ds)
    let bs := (chunks 32 (v.els.length + 1) (vs.zip ms)).map fun g => packBlock f (g.map (·.1)) (g.map (·.2))
    { v with f := f, els := (bs.map (·.1)).flatten, blks := if isSmb f then bs.map (·.2) else [] }
  else { v with f := f, blks := [], els := v.mapEls fun n x => ⟨roundElem f (jobMode j ds n) (x.val v.f), none⟩ }

/-- What a chain gives: a tile, or the slot that PLANE builds. -/
inductive Made where
  | tile (v : TileV)
  | slot (x : Slot)

/-- PLANE (R345); `tag` is the format that the tag holds. -/
def stPlane (j : Job) (tag : Nat) (v : TileV) : Slot :=
  let vs := v.els.map (formVal j.aform v.f)
  if j.aform = 2 then residSlot 2 tag v.tr v.tc vs else planeSlot j.aform tag v.tr v.tc (planesOf j.aform v.f j.pl) vs

/-- The stages of a chain, one after another. -/
def runChain (j : Job) (ds : Array Nat) (tag : Nat) : List Nat → TileV → Made
  | [], v => .tile v
  | id :: rest, v =>
    match id with
    | 2 => runChain j ds tag rest (stExpand j ds v)
    | 3 => runChain j ds tag rest (stScale j ds v)
    | 4 => runChain j ds tag rest (stTransp v)
    | 5 => runChain j ds tag rest (stPack j ds v)
    | 6 => .slot (stPlane j tag v)
    | _ => runChain j ds tag rest v

/-- The draws of tile `t` (R346). -/
def jobDraws (j : Job) (t n : Nat) : Array Nat := (if j.rm = 6 then draws n (seedOf ((j.seed + t) % 2 ^ 32)) else []).toArray

/-- What the chain gives of a source tile. -/
def transform (j : Job) (t tag : Nat) (v : TileV) : Made := runChain j (jobDraws j t v.els.length) tag j.chain v

/-- The slot that holds what the chain has given (R345, R351). -/
def madeSlot : Made → Slot
  | .slot x => x
  | .tile v =>
    rawSlot v.f v.tr v.tc (if isSmb v.f then v.blks else v.els.map (·.code))
      ((chunks 32 (v.els.length + 1) v.els).map fun g => (g.findSome? fun x => x.sc).getD 0)

/-! ## The tile of a job (R351, R354, R355, R357) -/

/-- What the work on a tile comes to. -/
inductive TileEnd where
  /-- A handle's walk is held, or a page is locked. -/
  | wait
  /-- A frame is wanting. -/
  | pool
  | fault (e : JFlt)
  | wrote (s : State)

namespace State

/-- The source tile of a job with the format for the tag of a PLANE: none while a handle's walk is held. -/
def sourceTile (s : State) (j : Job) : Option (JFlt ⊕ (Nat × TileV)) :=
  let t := j.tdone
  let late := fun (x : Slot) (reg : Nat) =>
    match checkedTile j x reg (s.peekFmt j 2) with
    | .inl e => some (.inl e)
    | .inr v => some (.inr (v.f, v))
  match j.region 1 with
  | none => late (Tbl.get {} (s.core j.core).slots (j.slotOf t)) 8
  | some i =>
    let h := j.handle i
    if !s.walkReady j.principal h then none
    else
      match s.lookupEl j.principal h (fun l => nth [] (tileTuples l (j.shape i) (j.org i) t) 0) with
      | .bad f => some (.inl { code := f.code, detail := f.detail, elem := 0, reg := i })
      | .ok l =>
        if j.lzd then
          match s.lzdTile j i l t with
          | .inl e => some (.inl e)
          | .inr x => late x i
        else
          match s.regionTile j i l t with
          | .inl e => some (.inl e)
          | .inr v => some (.inr (l.fmt, v))

/-- The elements that a tile writes into the region of an object, and the scales of MX elements. -/
def regionEls (j : Job) (k : Nat) (l : Layout) (v : TileV) : List StEl × List (List Nat × Nat) :=
  let ts := tileTuples l (j.shape k) (j.org k) j.tdone
  let cells := ((List.range ts.length).zip (ts.zip v.els)).filter fun e => !padded l (j.shape k) e.2.1
  (cells.map fun e =>
    { elem := e.1, t := e.2.1
      val := if isSmb v.f then (if e.1 % 32 = 0 then some (nth 0 v.blks (e.1 / 32)) else none) else some e.2.2.code },
   if isMx v.f then cells.map fun e => (e.2.1, e.2.2.sc.getD 0) else [])

/-- Writes a tile into the region of an object (R351): it waits while a page is locked or a frame is wanting. -/
def regionWrite (s : State) (j : Job) (k : Nat) (v : TileV) : TileEnd :=
  let h := j.handle k
  let pr := j.principal
  let sel := s.jobSel j k
  if !s.walkReady pr h then .wait
  else
    match s.lookupEl pr h (fun l => nth [] (tileTuples l (j.shape k) (j.org k) j.tdone) 0) with
    | .bad f => .fault { code := f.code, detail := f.detail, elem := 0, reg := k }
    | .ok l =>
      let (els, scales) := regionEls j k l v
      match placeScaled s pr h l sel (!scales.isEmpty) els with
      | .bad i f t => .fault ⟨f.code, f.detail, i, k, t⟩
      | .ok ps =>
        if ps.any (fun (e : StEl × Place) => s.pageLocked e.2.key) || s.scalesLocked h l sel scales then .wait
        else
          match s.ownPages ((s.pagesOf h l sel ps scales).map fun p => (Handle.key h, p)) with
          | none => .pool
          | some s1 =>
            match placeScaled s1 pr h l sel (!scales.isEmpty) els with
            | .bad i f t => .fault ⟨f.code, f.detail, i, k, t⟩
            | .ok ps => .wrote (s1.putEls h l sel ps scales)

/-- One tile of a job: source, chain, destination (R351). -/
def workTile (s : State) (j : Job) : TileEnd :=
  match s.sourceTile j with
  | none => .wait
  | some (.inl e) => .fault e
  | some (.inr (tag, v)) =>
    let made := transform j j.tdone tag v
    match j.region 2, made with
    | some k, .tile v => s.regionWrite j k v
    | _, m => .wrote (s.modCore j.core fun c => { c with slots := Tbl.put c.slots (j.slotOf j.tdone) (madeSlot m) })

/-- A job's entry rewritten. -/
def setJob (s : State) (j : Job) : State :=
  { s with jobs := s.jobs.map fun x => if x.jid = j.jid ∧ x.die = j.die then j else x }

/-- The ring set after a tile, seen from the next clk on (R354, R355). -/
def ringSet (s : State) (j : Job) : State :=
  if j.bmode = 0 || s.ringGone j then s
  else if s.crSv j.crid then
    s.modRing j fun k => { k with cb := fillAt false k.cb (j.ringOf j.tdone) (j.bmode == 1), cbOwner := Tbl.erase k.cbOwner (j.ringOf j.tdone) }
  else s.modCore j.core fun k => { k with cbPend := k.cbPend ++ [(s.pcc + 1, j.ringOf j.tdone, j.bmode == 1, j.jid)] }

/-- A tile is complete (R351). -/
def tileDone (s : State) (j : Job) : State :=
  let s1 := s.ringSet j
  let j1 := { j with tdone := j.tdone + 1, poolNote := false, st := if j.bmode = 0 || s.ringGone j then 2 else 1 }
  if j1.tdone = j.nt then s1.endJob j1 3 else s1.setJob j1

/-- A fault ends the job (R357); an absent shard is noticed (R431). -/
def faultJob (s : State) (j : Job) (e : JFlt) : State :=
  let h := j.handle e.reg
  let s1 :=
    if e.reg < 4 then s.noteMiss h (layoutOf (Handle.home h) (s.entry (Handle.key h))) e.t (s.jobSel j e.reg) ⟨e.code, e.detail⟩ else s
  s1.endJob { j with fcode := e.code, fdetail := e.detail, felem := e.elem, freg := e.reg } 4

/-- The package whose frames the destination of a job is given (R426). -/
def jobPool (s : State) (j : Job) : Nat :=
  match j.region 2 with
  | some k => s.poolOf (layoutOf (Handle.home (j.handle k)) (s.entry (Handle.key (j.handle k)))) 0
  | none => s.pkg

/-- A job works on its tile; while it waits for frames it has posted one POOL notice (R161, R426). -/
def doTile (s : State) (j : Job) : State :=
  match s.workTile j with
  | .wrote s1 => s1.tileDone j
  | .fault e => s.faultJob j e
  | .pool => if j.poolNote then s else (s.postPool (s.jobPool j)).setJob { j with poolNote := true }
  | .wait => s

/-- Could a job pass its ring wait now, as far as its task, its conflicts and its barrier go (R354)?  A job with a slot endpoint passes none
while its task does not run; any other runs on (R359). -/
def ringOpen (s : State) (j : Job) : Bool :=
  let k := s.ringCtx j
  let b := j.ringOf j.tdone
  let runs := (s.core j.core).crid == j.crid && (s.core j.core).phase == .running
  j.bmode != 0 && !j.ended && !j.orphan && (!j.slotEnd || runs) && !k.owned b && k.full b == (j.bmode == 2) && !s.jobHeld j

/-- Does an earlier accepted job pass the wait on the same barrier first (R355)? -/
def outranked (s : State) (j : Job) : Bool :=
  s.jobs.any fun x => decide (x.ord < j.ord) && x.crid == j.crid && x.ringOf x.tdone == j.ringOf j.tdone && s.ringOpen x

/-- One move of a copy engine for a job: it is held, it waits at its ring or passes, or it works on its tile. -/
def moveJob (s : State) (j : Job) : State :=
  if j.ended then s
  else if s.jobHeld j then s.setJob { j with st := 0 }
  else if j.bmode ≠ 0 ∧ !s.passed j then
    if s.ringOpen j && !s.outranked j then
      (s.modRing j fun k => { k with cbOwner := Tbl.put k.cbOwner (j.ringOf j.tdone) j.jid }).setJob { j with st := 2 }
    else s.setJob { j with st := 1 }
  else if j.st ≠ 2 then s.setJob { j with st := 2 }
  else s.doTile j

/-- The happening's number of a job: its die and its JID. -/
def jobUnit (j : Job) : Nat := j.die * 2 ^ 32 + j.jid

end State

/-- COPY_TILE (R351): the engine moves the job whose die and JID the unit's number gives. -/
def execCopyTile (s : State) : Host.Outcome State Fault Refusal :=
  match s.jobs.find? fun j => State.jobUnit j = s.unit with
  | none => .next s
  | some j => .next (s.moveJob j)

/-! ## CWAIT, CSTAT (R362, R363) -/

namespace State

/-- The job of the task on a core that a register names (R331). -/
def findJob (s : State) (c : Nat) (x : Word) : Option Job :=
  s.jobs.find? fun j => j.jid = x.toNat && j.crid == (s.core c).crid && !j.orphan

/-- Frees the table entry of a job. -/
def freeJob (s : State) (j : Job) : State := { s with jobs := s.jobs.filter fun x => !(x.jid == j.jid && x.die == j.die) }

/-- CWAIT with its operands: `wait` says what it does while the job has not ended. -/
def cwait (s : State) (c : Nat) (x : Word) (d : BitVec 5) (wait : State → State) : State :=
  match s.findJob c x with
  | none => s.ctDone c d 0#64
  | some j => if j.ended then (s.freeJob j).ctDone c d j.progress else wait s

/-- Can nothing in the task release the barrier at which a job waits (R362)?  A value set and not seen yet may still do so. -/
def cwaitStuck (s : State) (c : Nat) (j : Job) : Bool :=
  !(s.core c).forkOut && !j.ended && s.atRing j && (s.core c).cbPend.isEmpty &&
    !(s.jobs.any fun x => x.crid == j.crid && !x.orphan && x.jid != j.jid && !x.ended && !s.atRing x)

end State

/-- CWAIT (R362). -/
def execCwait (a d : BitVec 5) (s : State) : Host.Outcome State Fault Refusal :=
  ctOnly (.cwait a d) (fun c s => s.cwait c (s.rx a) d fun s => s.waitAt c .cwait a 0#5 d) s

/-- CWAIT_COMPLETE (R362). -/
def execCwaitComplete (s : State) : Host.Outcome State Fault Refusal :=
  let c := s.unit
  match s.waiting c .cwait with
  | none => .next s
  | some w => .next (s.cwait c ((s.core c).getX w.a) w.d id)

/-- CWAIT_STALL_DETECT (R362). -/
def execCwaitStallDetect (s : State) : Host.Outcome State Fault Refusal :=
  let c := s.unit
  match s.waiting c .cwait with
  | none => .next s
  | some w =>
    match s.findJob c ((s.core c).getX w.a) with
    | none => .next s
    | some j => .next (if s.cwaitStuck c j then s.raiseCt c FCode.illop 0x61 0#64 else s)

/-- The fault word (R363). -/
def Job.faultWord (j : Job) : Word := if j.st = 4 then BitVec.ofNat 64 (j.felem * 2 ^ 32 + j.freg * 2 ^ 28) else 0#64

/-- CSTAT (R363). -/
def execCstat (a d : BitVec 5) (s : State) : Host.Outcome State Fault Refusal :=
  ctOnly (.cstat a d) (fun c s =>
    let x := s.rx a
    if 2 ^ 33 ≤ x.toNat then s.ctIllop c 0x26
    else
      match s.findJob c (x &&& 0xFFFFFFFF#64) with
      | none => s.done d 0#64
      | some j => s.done d (if x.getLsbD 32 then j.faultWord else j.progress)) s

/-! ## CBINIT, CBQ (R364, R365) -/

/-- CBINIT (R364). -/
def execCbinit (b a d : BitVec 5) (s : State) : Host.Outcome State Fault Refusal :=
  ctOnly (.cbinit b a d) (fun c s =>
    let x := s.rx a
    let id := (s.rx b).toNat
    let die := c / 256
    let t := (s.core c).crid
    let o := s.shapeOwner t
    if id = 0 ∨ 15 < id then s.ctIllop c 0x26
    else if x = 0#64 then
      match s.findShape die t id with
      | none => s.done d 0#64
      | some _ =>
        State.done { s with shapes := s.shapes.filter fun e =>
          !(e.1 == die && e.2.owner == o.1 && e.2.isTeam == o.2 && e.2.id == id) } d (BitVec.ofNat 64 id)
    else if x.toNat % 32 ≠ 0 then s.raiseCt c FCode.align 0 x
    else
      s.viewRead c x.toNat 96 fun bs =>
        let w := words64 12 bs
        if shapeImageBad w then s.ctIllop c 0x62
        else if (s.findShape die t id).isSome ∨ 256 ≤ (s.shapes.filter fun e => e.1 = die).length then s.done d 0#64
        else
          State.done { s with shapes := s.shapes ++ [(die, { owner := o.1, isTeam := o.2, id := id, w := w })] } d
            (BitVec.ofNat 64 id)) s

/-- What CBQ reads of one barrier, a value of CBQ's own applied (R365). -/
def cbqWord (k : Core) (b : Nat) : Word :=
  let full := match k.cbPend.reverse.find? fun p => p.2.1 = b ∧ p.2.2.2 = 0 with
    | some p => p.2.2.1
    | none => k.full b
  BitVec.ofNat 64 (b2n full + 2 * b2n (k.owned b) + (Tbl.get 0 k.cbOwner b) * 2 ^ 32)

/-- CBQ (R365). -/
def execCbq (a d : BitVec 5) (s : State) : Host.Outcome State Fault Refusal :=
  ctOnly (.cbq a d) (fun c s =>
    let x := (s.rx a).toNat
    let b := x % 16
    let all := bitOf x 4
    let op := bitsOf x 8 2
    if 1024 ≤ x ∨ bitsOf x 5 3 ≠ 0 ∨ op = 3 ∨ (all ∧ op ≠ 0) then s.ctIllop c 0x26
    else if all then
      let k := s.core c
      let bits := fun (p : Nat → Bool) => ofBits (tab 16 p)
      s.done d (BitVec.ofNat 64 (bits (fun i => (cbqWord k i).getLsbD 0) + bits k.owned * 2 ^ 16))
    else
      let s1 :=
        if op = 0 ∨ (s.core c).owned b then s
        else s.modCore c fun k =>
          { k with cbPend := k.cbPend ++ [(s.pcc + 2, b, op == 2, 0)] }
      s1.done d (cbqWord (s1.core c) b)) s

end Sys2Proof.Machine
end

