-- ==== Sys2Proof/Machine/ObjInstr.lean ====
section
/-!
DEFINITION. The object instructions and flags (05 R160 to R173), and the walks of the die resolvers (R149).
-/

namespace Sys2Proof.Machine

namespace State

/-- The second check of R160: the handle, the entry's layout and the rights.  A step on a locked entry waits, and so does a resolution
that no handle cache holds (R148, R420): `hold` says how.  An instruction that reads or changes the entry at its home (`acc`) raises
LINKDEAD where no live route leads there (R399). -/
def objStep (s : State) (c : Nat) (h : Word) (need : Nat) (flagOp home acc : Bool) (hold : State → State) (cont : Layout → State) : State :=
  let pr := s.principal c
  if s.entryLocked h && (home || !s.cached pr h) then hold s
  else
    match s.lookup pr h with
    | .bad f => s.raiseCt c f.code f.detail 0#64
    | .ok l =>
      if acc && !s.liveRoute (Handle.home h) then s.raiseCt c FCode.linkdead 0 0#64
      else
        match s.checkRights pr h l need flagOp with
        | some f => s.raiseCt c f.code f.detail 0#64
        | none => cont l

/-- RIGHTS with detail 0x0041, for an operation that a Bench object does not have (R223). -/
def benchRefused (s : State) (c : Nat) : State := s.raiseCt c FCode.rights 0x41 0#64

/-- A claim taken for a holder (R146, R156). -/
def setClaim (s : State) (key kind holder : Nat) : State :=
  (s.setEw key 9 0 64 (holder * 2 ^ 32 + kind * 2 ^ 30)).fixEntry key

/-- The decision of an OCLAIM at the home (R161): the status word, or none while frames are wanting. -/
def claim (s : State) (key : Nat) (l : Layout) (kind holder : Nat) : Option (Nat × State) :=
  let v := s.curv key
  if s.hkind key ≠ 0 then
    some (if s.hkind key = kind ∧ s.holder key = holder then ((v + 1) * 2 ^ 32 + 1, s) else (v * 2 ^ 32 + 4, s))
  else if s.liven key = 4 ∨ v = 2 ^ 32 - 1 then some (v * 2 ^ 32 + 2, s)
  else
    match s.openDraft key l with
    | none => none
    | some s1 => some ((v + 1) * 2 ^ 32 + 1, s1.setClaim key kind holder)

/-- OCLAIM with its operands (R161); `wait` says what it does while frames are wanting. -/
def oclaim (s : State) (c : Nat) (h : Word) (team : Bool) (d : BitVec 5) (wait : State → State) : State :=
  s.objStep c h Right.write false true true id fun l =>
    let t := (s.core c).crid
    let tm := s.teamOf t
    if l.bench then s.benchRefused c
    else if team && tm == 0 then s.teamBad c 6
    else
      match s.claim (Handle.key h) l (if team then 2 else 1) (if team then tm else t) with
      | some (v, s1) => (s1.modCore c fun k => { k with poolNote := false }).ctDone c d (BitVec.ofNat 64 v)
      | none => wait (s.waitPool c (s.poolOf l 0))

/-- The pages of an object's draft, by their keys. -/
def draftKeys (s : State) (key : Nat) (l : Layout) : List Nat :=
  (List.range (objPages l)).filterMap fun p =>
    match s.pageKey key l .draft p with
    | .ok k => some k
    | .bad _ => none

/-- Sectors of an object's draft whose stores were lost and that have not been written since, each with 1 where a dead link lost it (R159,
R162). -/
def draftLost (s : State) (key : Nat) (l : Layout) : List (Nat × Nat) :=
  if s.linkFail.isEmpty then []
  else
    let pages := s.draftKeys key l
    s.linkFail.filter fun e => s.poisoned e.1 1 && pages.any fun k => decide (k ≤ e.1) && decide (e.1 < k + 65536)

def draftFails (s : State) (key : Nat) (l : Layout) : Nat := (s.draftLost key l).length

/-- LINKDEAD of the status word of a publish (R159). -/
def draftDead (s : State) (key : Nat) (l : Layout) : Bool := (s.draftLost key l).any fun e => e.2 == 1

/-- Sectors of peers that have been written and whose WRACK has not arrived (R398). -/
def sectorsOut (s : State) : List Nat :=
  s.dirty.filterMap (fun d => match d with
    | .sector k => some k
    | _ => none) ++ s.trans.map fun t => paKeyAt s t.2.1 t.2.2

/-- Is a store to the draft on its way to a peer (R158, R398)? -/
def draftOut (s : State) (key : Nat) (l : Layout) : Bool :=
  let out := s.sectorsOut
  !out.isEmpty && (s.draftKeys key l).any fun k => out.any fun a => decide (k ≤ a) && decide (a < k + 65536)

/-- The publish point of a draft (R162, R187). -/
def publishDraft (s : State) (key : Nat) : State :=
  let s1 := s.publish key
  s1.rebindDraft key (s1.curv key)

/-- OPUB with its operand (R162). -/
def opub (s : State) (c : Nat) (h : Word) (d : BitVec 5) (wait : State → State) : State :=
  s.objStep c h Right.publish false true true id fun l =>
    let key := Handle.key h
    let v := s.curv key
    if l.bench then s.benchRefused c
    else if !s.holds (s.principal c) key then s.ctDone c d (BitVec.ofNat 64 (v * 2 ^ 32 + 4))
    else if s.draftOut key l then wait s
    else
      let f := s.draftFails key l
      if 0 < f then s.ctDone c d (BitVec.ofNat 64 (v * 2 ^ 32 + min f 255 * 256 + (if s.draftDead key l then 2 else 0)))
      else if (s.ew key 0).getLsbD 49 then wait s
      else
        let s1 := (s.publishDraft key).expose c
        s1.ctDone c d (BitVec.ofNat 64 (s1.curv key * 2 ^ 32 + 1 + (if s1.liven key = 4 then 8 else 0)))

/-- OSUB with its operands (R163). -/
def osub (s : State) (c : Nat) (h : Word) (v : Nat) (d : BitVec 5) (wait : State → State) : State :=
  s.objStep c h Right.read false false true wait fun _ =>
    let cur := s.curv (Handle.key h)
    if v ≤ cur then s.ctDone c d (BitVec.ofNat 64 cur) else wait s

/-- The value of a flag (R166). -/
def flag (s : State) (key : Nat) : Word := Tbl.get 0#64 s.flags key

def setFlag (s : State) (key : Nat) (v : Word) : State := { s with flags := Tbl.put s.flags key v }

/-- FLACQ with its operands (R168). -/
def flacq (s : State) (c : Nat) (h v : Word) (d : BitVec 5) (wait : State → State) : State :=
  s.objStep c h Right.read true false true wait fun _ =>
    let x := s.flag (Handle.key h)
    if v.toNat ≤ x.toNat then s.ctDone c d x else wait s

/-- One OPIN pin more or less in the task's count (R164), which is kept by HOME and LOCAL without GEN (log entry 47). -/
def countPin (s : State) (c key ver : Nat) (add : Bool) : State :=
  s.modCore c fun k =>
    let n := ((k.opins.find? fun p => p.1 = key ∧ p.2.1 = ver).map (·.2.2)).getD 0
    let m := if add then n + 1 else n - 1
    let rest := k.opins.filter fun p => !(p.1 == key && p.2.1 == ver)
    { k with opins := if m = 0 then rest else rest ++ [(key, ver, m)] }

/-- The lowest free base for a view of a size, from 0x4000_0000_0000 on (R169). -/
def viewBase (k : Core) (size : Nat) : Option Nat :=
  let lo := 0x400000000000
  let free := fun (b : Nat) => k.views.all fun v => decide (b + size ≤ v.base) || decide (v.base + v.size ≤ b)
  let cands := lo :: ((k.views.map fun v => roundUp (v.base + v.size) 65536).filter fun b => decide (lo ≤ b))
  ((cands.filter fun b => free b && decide (b + size ≤ 2 ^ 48)).foldl (fun (m : Option Nat) b =>
    some (match m with
      | some x => min x b
      | none => b)) none)

/-- Maps a view, pinning a published version (R155, R170), without a pin where its count is full (log entry 47); xd := 0 when there is no
room. -/
def mapView (s : State) (c : Nat) (l : Layout) (back : Backing) (r w : Bool) (d : BitVec 5) : State :=
  let k := s.core c
  let size := 65536 * objPages l
  match if 256 ≤ k.views.length then none else viewBase k size with
  | none => s.ctDone c d 0#64
  | some b =>
    let s1 := match back with
      | .version key _ ver => (s.pin key ver).getD s
      | _ => s
    (s1.modCore c fun k =>
      { k with views := k.views ++ [{ base := b, size := size, back := back, r := r, w := w, x := false, kind := .made }] }).ctDone c d
      (BitVec.ofNat 64 b)

/-- The item that OINFO reads (R165): items 8 to 11 at the home, and MLOCK and LIVEN of item 0, the others from the resolution. -/
def oinfoItem (s : State) (pr : Principal) (h : Word) (n : Nat) : Word :=
  let e := nth 0#64 (s.layoutWords pr h)
  let key := Handle.key h
  match n with
  | 0 => setFld (setFld (e 0) 49 1 (fld (s.ew key 0) 49 1)) 50 3 (s.liven key)
  | 1 => BitVec.ofNat 64 (fld (e 1) 0 32)
  | 2 => BitVec.ofNat 64 (fld (e 1) 32 32)
  | 3 => BitVec.ofNat 64 (fld (e 2) 0 32)
  | 4 => BitVec.ofNat 64 (fld (e 2) 32 32)
  | 5 => BitVec.ofNat 64 (fld (e 3) 0 32)
  | 6 => e 5
  | 7 => e 7
  | 8 => s.ew key 4
  | 9 => BitVec.ofNat 64 (s.rightsOf pr h)
  | 10 => BitVec.ofNat 64 (s.liven key)
  | _ => s.ew key 9

end State

/-- OCLAIM (R161). -/
def execOclaim (b a d : BitVec 5) (s : State) : Host.Outcome State Fault Refusal :=
  ctOnly (.oclaim b a d) (fun c s =>
    if 1 < (s.rx b).toNat then s.ctIllop c 0x26
    else s.oclaim c (s.rx a) (s.rx b == 1#64) d fun s => s.waitAt c .oclaim a b d) s

/-- OCLAIM_DECIDE (R161). -/
def execOclaimDecide (s : State) : Host.Outcome State Fault Refusal :=
  let c := s.unit
  match s.waiting c .oclaim with
  | none => .next s
  | some w => .next (s.oclaim c ((s.core c).getX w.a) ((s.core c).getX w.b == 1#64) w.d id)

/-- OPUB (R162). -/
def execOpub (a d : BitVec 5) (s : State) : Host.Outcome State Fault Refusal :=
  ctOnly (.opub a d) (fun c s => s.opub c (s.rx a) d fun s => s.waitAt c .opub a 0#5 d) s

/-- OPUB_PUBLISH_POINT (R162). -/
def execOpubPublishPoint (s : State) : Host.Outcome State Fault Refusal :=
  let c := s.unit
  match s.waiting c .opub with
  | none => .next s
  | some w => .next (s.opub c ((s.core c).getX w.a) w.d id)

/-- OSUB (R163). -/
def execOsub (b a d : BitVec 5) (s : State) : Host.Outcome State Fault Refusal :=
  ctOnly (.osub b a d) (fun c s =>
    if 2 ^ 32 ≤ (s.rx b).toNat then s.ctIllop c 0x26
    else s.osub c (s.rx a) (s.rx b).toNat d fun s => s.waitAt c .osub a b d) s

/-- OSUB_COMPLETE (R163). -/
def execOsubComplete (s : State) : Host.Outcome State Fault Refusal :=
  let c := s.unit
  match s.waiting c .osub with
  | none => .next s
  | some w => .next (s.osub c ((s.core c).getX w.a) ((s.core c).getX w.b).toNat w.d id)

/-- OPIN (R164). -/
def execOpin (b a d : BitVec 5) (s : State) : Host.Outcome State Fault Refusal :=
  ctOnly (.opin b a d) (fun c s =>
    let h := s.rx a
    let x := (s.rx b).toNat
    if 2 ^ 32 ≤ x then s.ctIllop c 0x26
    else
      s.objStep c h Right.read false true true id fun l =>
        let key := Handle.key h
        let v := if x = 0 then s.curv key else x
        if l.bench then s.benchRefused c
        else
          match s.pin key v with
          | some s1 => (s1.countPin c key v true).done d (BitVec.ofNat 64 v)
          | none => s.done d 0#64) s

/-- OUNPIN (R164). -/
def execOunpin (b a : BitVec 5) (s : State) : Host.Outcome State Fault Refusal :=
  ctOnly (.ounpin b a) (fun c s =>
    let h := s.rx a
    let v := (s.rx b).toNat
    if v = 0 ∨ 2 ^ 32 ≤ v then s.ctIllop c 0x26
    else
      s.objStep c h Right.read false true true id fun l =>
        let key := Handle.key h
        if l.bench then s.benchRefused c
        else if (s.core c).opins.any fun p => p.1 = key ∧ p.2.1 = v then ((s.countPin c key v false).unpin key v).step4
        else s.step4) s

/-- OVIEW (R170, R223). -/
def execOview (b a d : BitVec 5) (s : State) : Host.Outcome State Fault Refusal :=
  ctOnly (.oview b a d) (fun c s =>
    let h := s.rx a
    let x := (s.rx b).toNat
    let draft := x == 2 ^ 64 - 1
    if 2 ^ 32 ≤ x && !draft then s.ctIllop c 0x26
    else
      s.objStep c h (if draft then Right.write else Right.read) false false true id fun l =>
        let key := Handle.key h
        let pr := s.principal c
        let eff := s.rightsOf pr h
        if l.bench then
          (if x ≠ 0 then s.benchRefused c else s.mapView c l (.live key h) (bitOf eff 0) (bitOf eff 1) d)
        else
          let sel : VSel := if draft then .draft else .ver (if x = 0 then s.curv key else x)
          match s.checkVer pr key l sel with
          | some f => s.raiseCt c f.code f.detail 0#64
          | none =>
            if draft then s.mapView c l (.draft key h) (bitOf eff 0) (bitOf eff 1) d
            else s.mapView c l (.version key h (if x = 0 then s.curv key else x)) (bitOf eff 0) false d) s

/-- OUNVIEW (R171). -/
def execOunview (a : BitVec 5) (s : State) : Host.Outcome State Fault Refusal :=
  ctOnly (.ounview a) (fun c s =>
    match (s.core c).views.find? fun v => v.base = (s.rx a).toNat with
    | none => s.ctIllop c 0x26
    | some v =>
      if v.kind = .code ∨ v.kind = .frame then s.ctIllop c 0x25
      else if v.kind ≠ .made then s.ctIllop c 0x26
      else ((s.unpinView v).modCore c fun k => { k with views := k.views.filter fun x => x.base != v.base }).step4) s

/-- OVER (R165). -/
def execOver (a d : BitVec 5) (s : State) : Host.Outcome State Fault Refusal :=
  ctOnly (.over a d) (fun c s =>
    s.objStep c (s.rx a) Right.read false false true id fun _ => s.done d (BitVec.ofNat 64 (s.curv (Handle.key (s.rx a))))) s

/-- OINFO (R165). -/
def execOinfo (b a d : BitVec 5) (s : State) : Host.Outcome State Fault Refusal :=
  ctOnly (.oinfo b a d) (fun c s =>
    let n := (s.rx b).toNat
    if 11 < n then s.ctIllop c 0x26
    else
      s.objStep c (s.rx a) (if n = 9 then 0 else Right.read) false false (n == 0 || decide (8 ≤ n)) id fun _ =>
        s.done d (s.oinfoItem (s.principal c) (s.rx a) n)) s

/-- FLREL (R167). -/
def execFlrel (b a : BitVec 5) (s : State) : Host.Outcome State Fault Refusal :=
  ctOnly (.flrel b a) (fun c s =>
    s.objStep c (s.rx a) Right.publish true true true id fun _ => ((s.setFlag (Handle.key (s.rx a)) (s.rx b)).expose c).step4) s

/-- FLACQ (R168). -/
def execFlacq (b a d : BitVec 5) (s : State) : Host.Outcome State Fault Refusal :=
  ctOnly (.flacq b a d) (fun c s => s.flacq c (s.rx a) (s.rx b) d fun s => s.waitAt c .flacq a b d) s

/-- FLACQ_COMPLETE (R168). -/
def execFlacqComplete (s : State) : Host.Outcome State Fault Refusal :=
  let c := s.unit
  match s.waiting c .flacq with
  | none => .next s
  | some w => .next (s.flacq c ((s.core c).getX w.a) ((s.core c).getX w.b) w.d id)

/-- FLTEST (R168). -/
def execFltest (b a d : BitVec 5) (s : State) : Host.Outcome State Fault Refusal :=
  ctOnly (.fltest b a d) (fun c s =>
    s.objStep c (s.rx a) Right.read true false true id fun _ => s.done d (s.flag (Handle.key (s.rx a)))) s

/-- LQ (R173). -/
def execLq (i : BitVec 12) (a d : BitVec 5) (s : State) : Host.Outcome State Fault Refusal :=
  ctOnly (.lq i a d) (fun c s =>
    let at_ := (s.rx a + i.signExtend 64).toNat
    if d.getLsbD 0 then s.ctIllop c 0x22
    else
      s.viewRead c at_ 16 fun bs =>
        ((s.wx d (BitVec.ofNat 64 (leNat (bs.take 8)))).wx (d + 1#5) (BitVec.ofNat 64 (leNat (bs.drop 8)))).step4) s

/-- SQ (R173). -/
def execSq (i : BitVec 12) (a r : BitVec 5) (s : State) : Host.Outcome State Fault Refusal :=
  ctOnly (.sq i a r) (fun c s =>
    let at_ := (s.rx a + i.signExtend 64).toNat
    if r.getLsbD 0 then s.ctIllop c 0x22
    else s.ctStore c at_ (leBytes 8 (s.rx r).toNat ++ leBytes 8 (s.rx (r + 1#5)).toNat)) s

/-- RESOLVER_WALK (R149): the entry is read, unless it is locked or no route leads to it, and the cluster's handle cache takes it; a
full set of eight ways gives up the one used least recently. -/
def execResolverWalk (home loc : Nat) (s : State) : Host.Outcome State Fault Refusal :=
  let cl := s.unit
  let key := home * 2 ^ 29 + loc
  let set_ := fun (k : Nat) => (k % 2 ^ 9) ^^^ (k / 2 ^ 29 % 2 ^ 9)
  if (Tbl.find s.ylocks key).isSome ∨ !s.liveRoute home ∨ !(s.yw key 0).getLsbD 46 then .next s
  else
    let inSet := (s.hcache.filter fun e => e.1 % 128 == cl && set_ (e.1 / 128) == set_ key && e.1 / 128 != key).map (·.1)
    let keep :=
      if inSet.length < 8 then s.hcache else Tbl.erase s.hcache ((s.hused.find? inSet.contains).getD (nth 0 inSet 0))
    .next { s with
      hcache := Tbl.put keep (128 * key + cl) (s.entry key)
      hused := s.hused.filter (· != 128 * key + cl) ++ [128 * key + cl] }

end Sys2Proof.Machine
end

