-- ==== Sys2Proof/Machine/Collective.lean ====
section
/-!
DEFINITION. Collectives (14 R400 to R410): cards, acceptance, contributions, folds, and how a collective ends.
-/

namespace Sys2Proof.Machine

/-! ## Cards (R403, R404) -/

/-- A collective card with its instruction and tag. -/
structure ClCard where
  instr : Nat
  tag : Nat
  src : Word
  dst : Word
  grp : Word
  root : Nat
  op : Nat
  svsel : Nat

/-- Is a reserved bit of a card set, or a field that the instruction does not use (R403)? -/
def clCardBad (instr : Nat) (w : List Word) : Bool :=
  let w3 := nth 0#64 w 3
  fld w3 40 8 != 0 || (w.drop 4).any (· != 0#64) || (instr != 2 && fld w3 48 16 != 0) || (instr != 0 && fld w3 32 8 != 0) ||
    decide (2 < fld w3 32 8)

/-- The formats of CLAR (R404). -/
def clarFmt (f : Nat) : Bool := f == 0x05 || f == 0x10 || f == 0x40 || f == 0x30

/-- The elements of a layout. -/
def elemCount (l : Layout) : Nat := (l.ext.take l.rank).foldl (· * ·) 1

/-- Bytes that hold one element of a contribution, its MX scale apart: of an SMB format a whole block (log entry 17). -/
def recBytes (f : Nat) : Nat := if f = 0x41 then 16 else if f = 0x42 then 32 else (fmtBits f + 7) / 8

/-- The elements of a contribution that carry bytes: of an SMB format the first of each block. -/
def recHeads (f n : Nat) : List Nat := if isSmb f then (List.range ((n + 31) / 32)).map (32 * ·) else List.range n

namespace State

/-- Reads elements of a source, as records, in linear order. -/
def readRecs (s : State) (pr : Principal) (h : Word) (l : Layout) (v : VSel) : List Nat → (Flt × List Nat) ⊕ List (List Byte)
  | [] => .inr []
  | n :: t =>
    let i := unlinear l.rank l.ext n
    match s.readElem pr h l i v true with
    | .bad f => .inl (f, i)
    | .ok (x, b) =>
      match readRecs s pr h l v t with
      | .inl e => .inl e
      | .inr r =>
        .inr ((leBytes (recBytes l.fmt) (if isSmb l.fmt then b else x.code) ++
          (if isMx l.fmt then [BitVec.ofNat 8 (x.sc.getD 0)] else [])) :: r)

end State

/-- The 64 bytes before the data of a contribution, in which members must agree but for the last eight (R408; log entry 17): group
version, format, OP and ROOT, extents, bytes of data. -/
def contribHead (ver fmt op root : Nat) (ext : List Nat) (n : Nat) : List Byte :=
  leBytes 8 ver ++ leBytes 8 (fmt + op * 2 ^ 8 + root * 2 ^ 16) ++ ((fit 0 5 ext).map fun e => leBytes 8 e).flatten ++ leBytes 8 n

/-- The pieces of a contribution, 24 bytes each. -/
def piecesOf (bs : List Byte) : List (List Byte) := (chunks 24 (bs.length + 1) bs).map fun p => fit 0#8 24 p

/-- The whole contribution that pieces hold, once every piece of it has arrived. -/
def Contrib.whole (c : Contrib) : Option (List Byte) :=
  match Tbl.find c.pcs 0, Tbl.find c.pcs 1, Tbl.find c.pcs 2 with
  | some a, some b, some d =>
    let len := 64 + leNat (((a ++ b ++ d).drop 56).take 8)
    let ps := (List.range ((len + 23) / 24)).map fun i => Tbl.find c.pcs i
    if ps.all Option.isSome then some ((ps.map fun p => p.getD []).flatten.take len) else none
  | _, _, _ => none

/-! ## Acceptance (R405) -/

namespace State

/-- Check 5 for one object, and the version it names. -/
def clObject (s : State) (c : Nat) (h : Word) (need : Nat) (v : Layout → VSel) : Rs Layout :=
  let pr := s.principal c
  match s.lookupHome pr h with
  | .bad f => .bad f
  | .ok l =>
    if l.flg then .bad ⟨FCode.rights, 0x20⟩
    else if l.bench then .bad ⟨FCode.rights, 0x41⟩
    else
      match s.checkRights pr h l need false with
      | some f => .bad f
      | none =>
        match s.checkVer pr (Handle.key h) l (v l) with
        | some f => .bad f
        | none => .ok l

/-- The version that SVSEL names (R403). -/
def clSel (s : State) (k : ClCard) : VSel :=
  if k.svsel = 2 ^ 32 - 1 then .draft else .ver (if k.svsel = 0 then s.curv (Handle.key k.src) else k.svsel)

/-- The package numbers that a group holds, or the fault of reading it. -/
def groupMembers (s : State) (pr : Principal) (h : Word) (l : Layout) (v : VSel) : (Flt × List Nat) ⊕ List Nat :=
  match s.readRecs pr h l v (List.range (l.e 0)) with
  | .inl e => .inl e
  | .inr r => .inr (r.map leNat)

/-- Does a group break R401, as far as its layout goes? -/
def groupShapeBad (l : Layout) : Bool := l.fmt != 0x04 || l.rank != 1 || decide (2048 < l.e 0)

/-- Do the formats of a card break R404: FMTBAD with detail 1; or the extents, with detail 0xC? -/
def clFmtFault (k : ClCard) (src dst grp : Layout) : Option Nat :=
  let last := src.e (src.rank - 1)
  let same := src.rank == dst.rank && src.ext.take src.rank == dst.ext.take dst.rank
  if (k.instr = 0 ∧ !clarFmt src.fmt) ∨ (k.instr = 1 ∧ src.fmt ≠ 0x10) ∨ dst.fmt ≠ src.fmt then some 1
  else if groupShapeBad grp then some 0xC
  else if k.instr = 3 then (if elemCount dst = grp.e 0 * elemCount src then none else some 0xC)
  else if !same ∨ (k.instr = 1 ∧ last < 3) then some 0xC
  else none

/-- Check 4, as far as formats and the group's size can be found. -/
def clIllop (s : State) (c : Nat) (k : ClCard) : Bool :=
  let pr := s.principal c
  let fmt := match s.lookup pr k.src with
    | .ok l => l.fmt
    | .bad _ => 0
  let g := match s.lookup pr k.grp with
    | .ok l => l.e 0
    | .bad _ => 2 ^ 32
  (k.instr == 0 && k.op != 0 && (fmt == 0x40 || fmt == 0x30)) || (k.instr == 2 && decide (g ≤ k.root))

/-- A CID that no entry has (R405). -/
def freeCid (s : State) : Nat :=
  ((List.range (s.colls.length + 1)).find? fun n => !s.colls.any fun x => x.cid == n + 1).elim 1 (· + 1)

/-- The footprint of a whole object (R405). -/
def wholeFoot (key ver : Nat) (w : Bool) (l : Layout) : Foot :=
  { key := key, ver := ver, w := w, lo := [0, 0, 0, 0, 0], hi := (List.range 5).map fun p => l.e p - 1 }

/-- Acceptance after check 6 (R405). -/
def acceptColl (s : State) (c : Nat) (k : ClCard) (src dst grp : Layout) (ms : List Nat) (d : BitVec 5) : State :=
  let t := (s.core c).crid
  let pr := s.principal c
  let kd := Handle.key k.dst
  let ks := Handle.key k.src
  let kg := Handle.key k.grp
  match (List.range ms.length).find? fun i => nth 0 ms i = s.pkg with
  | none => s.done d (BitVec.ofNat 64 (2 ^ 63 + 2))
  | some rank =>
    if s.colls.any fun x => x.grp.toNat / 2 ^ 12 == k.grp.toNat / 2 ^ 12 && x.tag == k.tag && x.instr == k.instr then
      s.done d (BitVec.ofNat 64 (2 ^ 63 + 2))
    else if 8 ≤ (s.collsOf t).length then s.done d (BitVec.ofNat 64 (2 ^ 63 + 1))
    else
      let sv := match s.clSel k with
        | .ver v => v
        | _ => 0
      let gv := s.curv kg
      let s1 := if sv = 0 then s else (s.pin ks sv).getD s
      let s2 := (s1.pin kg gv).getD s1
      let x : Coll :=
        { cid := s2.freeCid, ord := s2.order, crid := t, team := pr.team, cls := pr.cls, code := pr.code, die := c / 256
          instr := k.instr, tag := k.tag, grp := k.grp, grpVer := gv, src := k.src, srcVer := sv, dst := k.dst, root := k.root
          op := k.op, rank := rank, members := ms, start := s.pcc
          foot := [wholeFoot ks (if sv = 0 then s.curv ks + 1 else sv) false src, wholeFoot kd (s.curv kd + 1) true dst,
            wholeFoot kg gv false grp] }
      let s3 : State := { s2 with order := s2.order + 1, colls := s2.colls ++ [x] }
      (s3.expose c).done d (BitVec.ofNat 64 x.cid)

/-- A collective instruction after its card has been read. -/
def clStart (s : State) (c : Nat) (k : ClCard) (d : BitVec 5) : State :=
  let pr := s.principal c
  if s.clIllop c k then s.ctIllop c 0x70
  else if [k.src, k.dst, k.grp].any fun h => s.handleForm h && s.entryLocked h then s
  else
    match s.clObject c k.src Right.read (fun _ => s.clSel k) with
    | .bad f => s.raiseCt c f.code f.detail 0#64
    | .ok src =>
      match s.clObject c k.dst Right.write (fun _ => .draft) with
      | .bad f => s.raiseCt c f.code f.detail 0#64
      | .ok dst =>
        let gsel := VSel.ver (s.curv (Handle.key k.grp))
        match s.clObject c k.grp Right.read (fun _ => gsel) with
        | .bad f => s.raiseCt c f.code f.detail 0#64
        | .ok grp =>
          match clFmtFault k src dst grp with
          | some e => s.raiseCt c FCode.fmtbad e 0#64
          | none =>
            match s.groupMembers pr k.grp grp gsel with
            | .inl (f, t) => (s.noteMiss k.grp grp t gsel f).raiseCt c f.code f.detail 0#64
            | .inr ms =>
              if ms.any (fun m => decide (2047 < m)) || ms.eraseDups.length != ms.length then s.raiseCt c FCode.fmtbad 0xC 0#64
              else s.acceptColl c k src dst grp ms d

end State

/-- CLAR, CLMRG, CLBC and CLGATH (R402, R405). -/
def collInstr (instr : Nat) (b a d : BitVec 5) (c : Nat) (s : State) : State :=
  let at_ := s.rx a
  let tag := (s.rx b).toNat
  if at_.toNat % 64 ≠ 0 then s.raiseCt c FCode.align 0 at_
  else
    s.viewRead c at_.toNat 64 fun bs =>
      let w := words64 8 bs
      let w3 := nth 0#64 w 3
      if 2 ^ 32 ≤ tag then s.ctIllop c 0x26
      else if clCardBad instr w then s.ctIllop c 0x70
      else
        s.clStart c
          { instr := instr, tag := tag, src := nth 0#64 w 0, dst := nth 0#64 w 1, grp := nth 0#64 w 2, root := fld w3 48 16
            op := fld w3 32 8, svsel := fld w3 0 32 } d

/-- CLAR (R406). -/
def execClar (b a d : BitVec 5) (s : State) : Host.Outcome State Fault Refusal := ctOnly (.clar b a d) (collInstr 0 b a d) s

/-- CLMRG (R407). -/
def execClmrg (b a d : BitVec 5) (s : State) : Host.Outcome State Fault Refusal := ctOnly (.clmrg b a d) (collInstr 1 b a d) s

/-- CLBC (R404). -/
def execClbc (b a d : BitVec 5) (s : State) : Host.Outcome State Fault Refusal := ctOnly (.clbc b a d) (collInstr 2 b a d) s

/-- CLGATH (R404). -/
def execClgath (b a d : BitVec 5) (s : State) : Host.Outcome State Fault Refusal := ctOnly (.clgath b a d) (collInstr 3 b a d) s

/-! ## Folds (R406, R407) -/

/-- The codes of a contribution's records, with their scale bytes. -/
def recsOf (f : Nat) (bs : List Byte) : List (Nat × Nat) :=
  let n := recBytes f + (if isMx f then 1 else 0)
  (chunks n (bs.length + 1) bs).map fun r => (leNat (r.take (recBytes f)), leNat (r.drop (recBytes f)))

/-- Is the variance of a MOM32 code negative (R406)? -/
def negVar (x : Nat) : Bool := belowZero 0x30 (x / 2 ^ 32)

/-- x ⊕ y of CLAR (R406). -/
def clarOp (op f x y : Nat) : Nat :=
  if f = 0x30 then bankOp 8 f x (y % 2 ^ 32 + clampVar (y / 2 ^ 32) * 2 ^ 32) 0 else bankOp op f x y 0

/-- A fold in ascending rank: r := x0, then r := r ⊕ x for each further x. -/
def foldRank {α : Type} (op : α → α → α) : List α → Option α
  | [] => none
  | x :: t => some (t.foldl op x)

/-- m of a triple as an integer in the range of CLMRG. -/
def triM (code : Nat) : Option Int :=
  match FFmt.fp32.decode code with
  | .fin s a =>
    let q := FVal.toQ (.fin s a)
    if q.den = 1 ∧ -(2 ^ 31 : Int) ≤ q.num ∧ q.num < 2 ^ 31 then some q.num else none
  | _ => none

/-- One element of the merge operator (R377): a term of each party, scaled and rounded, and their rounded sum. -/
def mergeEl (ma mb m : Int) (x y : Nat) : Nat :=
  let t := fun (z : Nat) (d : Int) => FFmt.fp32.decode (FFmt.fp32.round .rne ((FFmt.fp32.decode z).scale d))
  FFmt.fp32.round .rne ((t x (ma - m)).add (t y (mb - m)))

/-- The merge operator on two rows (R377, R407); none where an m is out of range. -/
def mergeRow (a b : Option (Int × List Nat)) : Option (Int × List Nat) :=
  match a, b with
  | some (ma, x), some (mb, y) =>
    let m := max ma mb
    some (m, List.zipWith (mergeEl ma mb m) x y)
  | _, _ => none

/-- A row of codes as a triple. -/
def triOf (r : List Nat) : Option (Int × List Nat) := (triM (nth 0 r 0)).map fun m => (m, r.drop 1)

/-- One row of CLMRG over the members, in rank order. -/
def mergeRows (w : Nat) (rows : List (List Nat)) : List Nat :=
  match rows with
  | [r] => if (triOf r).isSome then r else List.replicate w 0x7FC00000
  | _ =>
    match foldRank mergeRow (rows.map triOf) with
    | some (some (m, x)) => FFmt.fp32.round .rne (FVal.ofQ (Q.ofInt m)) :: x
    | _ => List.replicate w 0x7FC00000

/-- What is combined of the members' records, in rank order: the records of the destination, and whether a negative variance was met. -/
def combine (instr op root f last : Nat) (xs : List (List (Nat × Nat))) : List (Nat × Nat) × Bool :=
  match instr with
  | 0 =>
    let n := (nth [] xs 0).length
    let cols := (List.range n).map fun i => xs.map fun x => (nth (0, 0) x i).1
    (cols.map fun c => ((foldRank (clarOp op f) c).getD 0, 0), f == 0x30 && decide (1 < xs.length) && cols.any fun c => c.any negVar)
  | 1 =>
    let rows := xs.map fun x => chunks last (x.length + 1) (x.map (·.1))
    ((tab (nth [] rows 0).length fun i => (mergeRows last (rows.map fun r => nth [] r i)).map fun c => (c, 0)).flatten, false)
  | 2 => (nth [] xs root, false)
  | _ => (xs.flatten, false)

/-! ## The work of a collective (R408) -/

namespace Coll

def principal (c : Coll) : Principal := { crid := c.crid, team := c.team, cls := c.cls, code := c.code, die := some c.die, cluster := none }
/-- The I/O die on which the collective runs (R400). -/
def io (c : Coll) : Nat := c.die / 4
def group (c : Coll) : Nat := c.grp.toNat / 2 ^ 12
def srcSel (c : Coll) : VSel := if c.srcVer = 0 then .draft else if c.srcVer = 2 ^ 32 then .gone else .ver c.srcVer

end Coll

namespace State

/-- A collective's entry rewritten. -/
def setColl (s : State) (c : Coll) : State := { s with colls := s.colls.map fun x => if x.cid = c.cid then c else x }

/-- Sends one piece of a contribution to a member (R398). -/
def sendPiece (s : State) (c : Coll) (p : Nat) (e : Nat × List Byte) : State :=
  let op := c.instr * 2 ^ 62 + e.1 % 2 ^ 30 * 2 ^ 32 + c.tag
  let t := s.freeTid
  (State.sendMsg { s with tids := t + 1 } c.io 6 p t op (leBytes 8 c.group ++ e.2)).1

/-- The member reads its contribution and sends it to every other member; while a read finds a shard absent or poisoned it waits. -/
def contribute (s : State) (c : Coll) : State :=
  let pr := c.principal
  if !s.walkReady pr c.src then s
  else
    match s.lookup pr c.src with
    | .bad _ => s
    | .ok l =>
      match s.readRecs pr c.src l c.srcSel (recHeads l.fmt (elemCount l)) with
      | .inl (f, t) =>
        if f.code = FCode.linkdead then s.endColl c (collStatus c 2)
        else if c.noted then s else (s.noteMiss c.src l t c.srcSel f).setColl { c with noted := true }
      | .inr r =>
        let data := r.flatten
        let bs := contribHead c.grpVer l.fmt c.op c.root (l.ext.take l.rank) data.length ++ data
        let ps := (List.range (bs.length / 24 + 1)).zip (piecesOf bs)
        let s1 := (c.members.filter (· != s.pkg)).foldl (fun s p => ps.foldl (fun s e => s.sendPiece c p e) s) s
        s1.setColl { c with own := some bs, noted := false }

/-- The contribution of a rank, once it has arrived whole. -/
def contribOf (s : State) (c : Coll) (r : Nat) : Option (List Byte) :=
  if r = c.rank then c.own
  else
    (s.contribs.find? fun k => k.grp = c.group ∧ k.tag = c.tag ∧ k.instr = c.instr ∧ k.src = nth 0 c.members r).bind Contrib.whole

/-- A failed sector reads as poisoned until it is written again (R408): in the frame that the draft's PTE names, or, while it names none, in
the one that a COMMIT gives it. -/
def markLost (s : State) (key : Nat) (l : Layout) (page sec : Nat) : State :=
  match s.pteKey l (s.verNum key .draft) page with
  | none => s
  | some (pk, p) =>
    let pte := s.num pk 8
    if pteTier pte then s.markPoison (paKeyAt s p (bitsOf pte 16 40 * 65536) + 32 * sec) 32
    else if s.lostSecs.contains (pk, sec) then s
    else { s with lostSecs := (pk, sec) :: s.lostSecs }

/-- The sector of an element that cannot be stored: page and number of the sector. -/
def failedSector (l : Layout) (t : List Nat) : Nat × Nat :=
  let (sh, t') := l.shard t
  let off := pagesBefore l sh * 65536 + (elemBit l (l.shardExt sh) t').1 / 8
  (off / 65536, off % 65536 / 32)

/-- Ends a collective that has written its destination (R408, R409), once no sector of it is on its way to a peer; a sector lost on the way
counts in NFAIL.  `low` holds NFAIL from bit 8 on, unsaturated, and the bits below it. -/
def finishColl (s : State) (c : Coll) (l : Layout) (low : Nat) : State :=
  let key := Handle.key c.dst
  if !c.dstGone && s.draftOut key l then s.setColl { c with put := some low }
  else
    let lost := if c.dstGone then [] else s.draftLost key l
    let n := low / 256 + lost.length
    let dead := bitOf low 1 || lost.any fun e => e.2 == 1
    s.endColl c (collStatus c (min 255 n * 256 + b2n (bitOf low 4) * 16 + b2n dead * 2 + b2n (n == 0)))

/-- Writes the destination whole and ends the collective (R408): it waits while a page is locked or a frame is wanting; a sector that cannot
be stored counts in NFAIL and is marked as poisoned where it has a place. -/
def writeColl (s : State) (c : Coll) (l : Layout) (recs : List (Nat × Nat)) (negv : Bool) : State :=
  let pr := c.principal
  let key := Handle.key c.dst
  let sel : VSel := if c.dstGone then .gone else .draft
  let els := ((recHeads l.fmt (elemCount l)).zip recs).map fun e => (unlinear l.rank l.ext e.1, e.2)
  let tried := els.map fun e => (e, s.resolve pr c.dst l e.1 Right.write sel)
  let good := tried.filterMap fun e =>
    match e.2 with
    | .ok p => some (({ elem := 0, t := e.1.1, val := some e.1.2.1 } : StEl), p)
    | .bad _ => none
  let bad := tried.filterMap fun e =>
    match e.2 with
    | .ok _ => none
    | .bad f => some (e.1.1, f)
  let scales := if isMx l.fmt then els.map fun e => (e.1, e.2.2) else []
  if good.any (fun e => s.pageLocked e.2.key) || s.scalesLocked c.dst l sel scales then s
  else
    match s.ownPages ((s.pagesOf c.dst l sel good scales).map fun p => (key, p)) with
    | none => if c.noted then s else (s.postPool (s.poolOf l 0)).setColl { c with noted := true }
    | some s1 =>
      let good1 := good.filterMap fun e =>
        match s1.resolve pr c.dst l e.1.t Right.write sel with
        | .ok p => some (e.1, p)
        | .bad _ => none
      let s2 := s1.putEls c.dst l sel good1 scales
      let secs := (bad.map fun e => failedSector l e.1).eraseDups
      let dead := bad.any fun e => e.2.code == FCode.linkdead
      let placed := ((bad.filter fun e => e.2 ≠ ⟨FCode.missobj, 1⟩ ∧ e.2.code ≠ FCode.vergone).map fun e => failedSector l e.1).eraseDups
      let s3 := placed.foldl (fun s e => s.markLost key l e.1 e.2) s2
      s3.finishColl c l (secs.length * 256 + b2n negv * 16 + b2n dead * 2)

/-- One move of a collective: it is held (R177), contributes, is found refused or cut off, or folds and writes. -/
def moveColl (s : State) (c : Coll) : State :=
  if c.status.isSome || s.claimHeld c.claim then s
  else
    match c.own, c.put with
    | none, _ => s.contribute c
    | some _, some low => s.finishColl c (layoutOf (Handle.home c.dst) (s.entry (Handle.key c.dst))) low
    | some own, none =>
      let got := (List.range c.members.length).map fun r => s.contribOf c r
      let head := fun (bs : List Byte) => bs.take 56
      if got.any fun o => match o with
          | some bs => head bs != head own
          | none => false then s.endColl c (collStatus c 4)
      else if got.all Option.isSome then
        if !s.walkReady c.principal c.dst then s
        else
          let l := layoutOf (Handle.home c.dst) (s.entry (Handle.key c.dst))
          let xs := got.map fun o => recsOf l.fmt ((o.getD []).drop 64)
          let r := combine c.instr c.op c.root l.fmt (l.e (l.rank - 1)) xs
          s.writeColl c l r.1 r.2
      else if (List.range c.members.length).any fun r => (nth none got r).isNone && !s.liveRoute (nth 0 c.members r) then
        s.endColl c (collStatus c 2)
      else s

/-- Have all contributions to a collective arrived? -/
def allArrived (s : State) (c : Coll) : Bool := (List.range c.members.length).all fun r => (s.contribOf c r).isSome

end State

/-- COLLECTIVE_COMPLETE (R406 to R408): the engine moves the collective whose CID the unit's number gives. -/
def execCollectiveComplete (s : State) : Host.Outcome State Fault Refusal :=
  match s.colls.find? fun c => c.cid = s.unit with
  | none => .next s
  | some c => .next (s.moveColl c)

/-- COLLECTIVE_TIMEOUT (R408): a member that ends TIMEOUT has sent its contribution, where its source could be read. -/
def execCollectiveTimeout (s : State) : Host.Outcome State Fault Refusal :=
  match s.colls.find? fun c => c.cid = s.unit with
  | none => .next s
  | some c0 =>
    let s := if c0.status.isNone && c0.own.isNone then s.moveColl c0 else s
    match s.colls.find? fun c => c.cid = s.unit with
    | none => .next s
    | some c =>
      if c.status.isNone ∧ !s.allArrived c ∧ c.start + s.regN (0x7000 + 8 * c.io) ≤ s.pcc then
        .next (s.endColl c (State.collStatus c 8))
      else .next s

/-! ## CLWAIT (R409) -/

/-- CLWAIT with its operands: `wait` says what it does while the collective has not ended. -/
def State.clwait (s : State) (c : Nat) (x : Word) (d : BitVec 5) (wait : State → State) : State :=
  match s.colls.find? fun k => k.cid = x.toNat && k.crid == (s.core c).crid && !k.orphan with
  | none => s.ctDone c d 0#64
  | some k =>
    match k.status with
    | none => wait s
    | some w => State.ctDone { s with colls := s.colls.filter fun y => y.cid != k.cid } c d w

/-- CLWAIT (R409). -/
def execClwait (a d : BitVec 5) (s : State) : Host.Outcome State Fault Refusal :=
  ctOnly (.clwait a d) (fun c s => s.clwait c (s.rx a) d fun s => s.waitAt c .clwait a 0#5 d) s

/-- CLWAIT_COMPLETE (R409). -/
def execClwaitComplete (s : State) : Host.Outcome State Fault Refusal :=
  let c := s.unit
  match s.waiting c .clwait with
  | none => .next s
  | some w => .next (s.clwait c ((s.core c).getX w.a) w.d id)

end Sys2Proof.Machine
end

