-- ==== Sys2Proof/Machine/CommandList.lean ====
section
/-!
DEFINITION. Command lists (04 R132 to R137) and pre-emption (R138, R139).
-/

namespace Sys2Proof.Machine

/-- Bytes of an object that a byte offset may name: its element data, or whole pages where it is sharded. -/
def objBytes (l : Layout) : Nat := if l.sharded then 65536 * objPages l else shardBytes l l.ext

namespace State

/-! ## Interpreters -/

/-- The principal of an interpreter walking the list `h` (R153, R224). -/
def listPrincipal (s : State) (h : Word) : Principal :=
  let none_ := 2 ^ 24
  let e := (rightsList (s.entry (Handle.key h))).find? fun x => bitOf x 31 && (1 ≤ bitsOf x 24 3 && bitsOf x 24 3 ≤ 3)
  let x := e.getD 0
  let k := if e.isSome then bitsOf x 24 3 else 0
  { crid := 0, team := if k = 3 then bitsOf x 0 24 else 0, cls := if k = 1 then bitsOf x 0 24 else none_
    code := if k = 2 then bitsOf x 0 24 else none_, die := some 8, cluster := none }

/-- The interpreter enters ERR with a code and posts its notice (R137, R415). -/
def listError (s : State) (i code fault : Nat) : State :=
  (s.modInterp i fun k => { k with st := 2, err := code, errFault := fault, errIdx := k.cli.toNat, hold := none }).postNotice 3 i

/-- The entry is complete, and the interpreter goes on at an entry of a list. -/
def listGo (s : State) (i : Nat) (h idx : Word) : State := s.modInterp i fun k => { k with clh := h, cli := idx, hold := none }

/-- The entry is complete, and the next one follows. -/
def listNext (s : State) (i : Nat) : State := s.listGo i (s.interp i).clh ((s.interp i).cli + 1#64)

/-- An access fault of an interpreter (R136, R137): code 5, with the notice of an absent shard (R431). -/
def listFault (s : State) (i : Nat) (h : Word) (sh ver : Nat) (f : Flt) : State :=
  let s1 :=
    if f.code = FCode.missobj ∧ f.detail = 2 then s.noteAt (Handle.gen h) (Handle.home h) (Handle.loc h) sh ver else s
  s1.listError i 5 f.code

/-- The checks of an access by an interpreter (R136, R145, R150, R154). -/
def listCheck (s : State) (i : Nat) (h : Word) (need : Nat) (flagOp : Bool) : Rs Layout :=
  let pr := s.listPrincipal (s.interp i).clh
  match s.lookup pr h with
  | .bad f => .bad f
  | .ok l =>
    match s.checkRights pr h l need flagOp with
    | some f => .bad f
    | none => .ok l

/-- Reads bytes of the current published version of an object at a byte offset; the shard goes with a fault. -/
def listRead (s : State) (i : Nat) (h : Word) (off n : Nat) : Rs (List Byte) × Nat :=
  match s.listCheck i h Right.read false with
  | .bad f => (.bad f, 0)
  | .ok l =>
    let sh := pageShard l (off / 65536)
    if objBytes l < off + n then (.bad ⟨FCode.bounds, 0x100⟩, 0)
    else
      match s.pageKey (Handle.key h) l .live (off / 65536) with
      | .bad f => (.bad f, sh)
      | .ok k =>
        if s.poisoned (k + off % 65536) n then (.bad ⟨FCode.uncorr, 0⟩, sh) else (.ok (s.bytes (k + off % 65536) n), sh)

/-- The hold of the entry that the interpreter stands at: the one under way, or a new one begun in this clk (R135). -/
def listHold (s : State) (i : Nat) (e : ClEntry) : ClHold :=
  match (s.interp i).hold with
  | some h => h
  | none => { entry := e, start := s.pcc }

/-- The entry holds; it takes at least 16 clk (R135). -/
def listWait (s : State) (i : Nat) (h : ClHold) : State :=
  s.modInterp i fun k => { k with hold := some h, busyTo := max k.busyTo (h.start + 16) }

/-- Begins an entry: its time of 16 clk runs. -/
def listBegin (s : State) (i : Nat) (h : ClHold) : State := s.modInterp i fun k => { k with busyTo := max k.busyTo (h.start + 16) }

end State

/-- The interpreter that executes an entry: one that runs, with its hold and its state begun; an entry of an interpreter that
does not run has no effect.  A breach of the fields reports code 2 (R137). -/
def listEntry (e : ClEntry) (bad : Bool) (body : Nat → ClHold → State → State) (s : State) : Host.Outcome State Fault Refusal :=
  let i := s.unit
  if (s.interp i).st ≠ 1 then .next s
  else if bad then .next (s.listError i 2 0)
  else
    let h := s.listHold i e
    .next (body i h (s.listBegin i h))

end Sys2Proof.Machine

namespace Sys2Proof.ClEntry

/-! ## Fields of the entries (R134) -/

/-- A word has a bit set outside the mask of the bits shown. -/
def outside (w : Word) (mask : Nat) : Bool := w &&& ~~~(BitVec.ofNat 64 mask) != 0#64

def teamf (e : ClEntry) : Bool := e.w0.getLsbD 8
def count (e : ClEntry) : Nat := fld e.w0 48 16 + 1
def ts (e : ClEntry) : Nat := fld e.w0 44 4
def dep (e : ClEntry) : Nat := fld e.w0 40 4
def depen (e : ClEntry) : Bool := e.w0.getLsbD 39
def rel (e : ClEntry) : Bool := e.w0.getLsbD 38
def lvl (e : ClEntry) : Nat := fld e.w0 36 2
def die (e : ClEntry) : Nat := fld e.w0 33 3
/-- The fields of a LAUNCH that break R134. -/
def launchBad (e : ClEntry) : Bool :=
  outside e.w0 0xFFFFFFFE000001FF || e.lvl == 0 || e.lvl == 3 || decide (2 ^ 32 ≤ e.w2.toNat) || e.w2.toNat % 64 != 0 ||
    (e.teamf && (e.lvl != 1 || decide (256 < e.count)))

end Sys2Proof.ClEntry

namespace Sys2Proof.Machine

/-! ## LAUNCH -/

namespace State

/-- The queue of a launch's records (R135). -/
def launchQueue (e : ClEntry) : Nat := if e.lvl = 1 then 128 + e.die else 136

/-- The code of a template that a LAUNCH cannot use: 4 then 6 (R137). -/
def templateBad (s : State) (e : ClEntry) (img : List Word) : Option Nat :=
  if !s.imageOk img || (e.teamf && fld (nth 0#64 img 5) 0 32 != 0) then some 4
  else if e.lvl = 1 ∧ !kindFits e.die (fld (nth 0#64 img 0) 14 2) then some 6
  else none

/-- What precedes the first record: the slot's count, PARENT's JOIN, the team (R135). -/
def launchFirst (s : State) (i : Nat) (h : ClHold) (team : Nat) : State :=
  let e := h.entry
  let parent := fld (nth 0#64 h.img 5) 32 32
  let s := s.modInterp i fun k => { k with slots := fillAt 0 k.slots e.ts e.count }
  let s := if parent = 0 then s else s.setCrFld parent 5 0 32 (s.crJoin parent + e.count)
  if e.teamf then s.setTeam { id := team, size := e.count, joined := e.count, byLaunch := true } else s

/-- One record of a launch (R135). -/
def launchOne (s : State) (i n : Nat) (h : ClHold) (team : Nat) : State :=
  let e := h.entry
  let idx := h.made.length
  let q := launchQueue e
  let s := s.newRecord n h.img (fld (nth 0#64 h.img 5) 32 32) team idx i e.ts (if e.teamf then idx else 0) 1
  let s := s.setCr n 2 (if e.rel then BitVec.ofNat 64 (h.start + e.w3.toNat) else e.w3)
  let s := { s with target := Tbl.put s.target n q }
  if e.teamf then
    match s.team team with
    | some t => s.setTeam { t with members := t.members ++ [{ crid := n, rank := idx }] }
    | none => s
  else if s.crJoin n = 0 then s.enqueue q n
  else s

/-- A LAUNCH goes on as far as it can in this clk (R135, R137): the holds for its slots, the template and its checks, the hold for a
team, then one record; the last one ends it. It also holds while no CR slot is free (log entry 47). -/
def launchGo (s : State) (i : Nat) (h : ClHold) : State :=
  let e := h.entry
  let k := s.interp i
  let hold := s.listWait i h
  if h.made.isEmpty && ((e.depen && nth 0 k.slots e.dep != 0) || nth 0 k.slots e.ts != 0) then hold
  else if h.img.isEmpty && s.entryLocked e.w1 then hold
  else
    let read : Rs (List Word) × Nat :=
      if h.img.isEmpty then
        match s.listRead i e.w1 e.w2.toNat 64 with
        | (.ok bs, n) => (.ok (words64 8 bs), n)
        | (.bad f, n) => (.bad f, n)
      else (.ok h.img, 0)
    match read with
    | (.bad f, n) => s.listFault i e.w1 n (s.curv (Handle.key e.w1)) f
    | (.ok img, _) =>
      match if h.made.isEmpty then s.templateBad e img else none with
      | some code => s.listError i code 0
      | none =>
        let h := { h with img := img }
        let q := launchQueue e
        let teamId := if !e.teamf then some 0 else if h.made.isEmpty then s.freeTeam e.die else some h.team
        let roomOk := e.teamf || fld (nth 0#64 img 5) 0 32 != 0 || s.qRoom q
        match teamId, s.askCrid with
        | some t, some n =>
          if !roomOk then s.listWait i h
          else
            let s := if h.made.isEmpty then s.launchFirst i h t else s
            let s := s.launchOne i n h t
            let h := { h with made := h.made ++ [n], team := t }
            if h.made.length < e.count then s.listWait i h
            else (if e.teamf then s.enqueueGang e.die h.made else s).listNext i
        | _, _ => s.listWait i h

/-- WAITEV (R135). -/
def waitevGo (s : State) (i : Nat) (h : ClHold) : State :=
  let e := h.entry
  if e.w0.getLsbD 8 then
    (if nth 0 (s.interp i).slots (fld e.w0 48 4) = 0 then s.listNext i else s.listWait i h)
  else if s.entryLocked e.w1 then s.listWait i h
  else
    match s.listCheck i e.w1 Right.read true with
    | .bad f => s.listFault i e.w1 0 0 f
    | .ok _ => if e.w2.toNat ≤ (s.flag (Handle.key e.w1)).toNat then s.listNext i else s.listWait i h

/-- The conditions of SKIPIF (R134). -/
def skipCond (cond : Nat) (a b : Word) : Bool :=
  match cond with
  | 0 => a == b
  | 1 => a != b
  | 2 => decide (a.toNat < b.toNat)
  | _ => decide (b.toNat ≤ a.toNat)

/-- SIGNAL (R135). -/
def signalGo (s : State) (i : Nat) (h : ClHold) : State :=
  let e := h.entry
  if s.entryLocked e.w1 then s.listWait i h
  else
    match s.listCheck i e.w1 Right.publish true with
    | .bad f => s.listFault i e.w1 0 0 f
    | .ok _ => (s.setFlag (Handle.key e.w1) e.w2).listNext i

/-- PUBLISH (R135): claim, write and publish as one step; it retries every 64 clk while the claim would fail. -/
def publishGo (s : State) (i : Nat) (h : ClHold) : State :=
  let e := h.entry
  let key := Handle.key e.w1
  let off := e.w2.toNat
  if (s.pcc - h.start) % 64 ≠ 0 ∨ s.entryLocked e.w1 then s.listWait i h
  else
    match s.listCheck i e.w1 (Right.write + Right.publish) false with
    | .bad f => s.listFault i e.w1 0 0 f
    | .ok l =>
      if objBytes l < off + 8 then s.listError i 5 FCode.bounds
      else if s.hkind key ≠ 0 ∨ s.liven key = 4 ∨ s.curv key = 2 ^ 32 - 1 ∨ (s.ew key 0).getLsbD 49 then s.listWait i h
      else
        match (s.openDraft key l).bind fun s1 => s1.ownPage key l (off / 65536) with
        | none => (if h.note then s else s.postPool (s.poolOf l (off / 65536))).listWait i { h with note := true }
        | some s1 =>
          match s1.pageKey key l .draft (off / 65536) with
          | .bad f => s.listFault i e.w1 (pageShard l (off / 65536)) 0 f
          | .ok k =>
            if s1.pageLocked k then s.listWait i h else (((s1.writeNum (k + off % 65536) 8 e.w3.toNat).noteRemote [k + off % 65536]).publish key).listNext i

/-- PASS (R135). -/
def passGo (s : State) (i : Nat) (h : ClHold) : State :=
  let e := h.entry
  let t := fld e.w0 48 4
  if 16 ≤ (s.interp t).pass.length then s.listWait i h
  else (s.modInterp t fun k => { k with pass := k.pass ++ [(e.w1, e.w2)] }).listNext i

/-! ## Pre-emption (R138, R139) -/

/-- The rank of a task in its team; 0 for a lone task. -/
def rankOf (s : State) (crid : Nat) : Nat :=
  match s.team (s.teamOf crid) with
  | some t => ((t.members.find? fun m => m.crid = crid).map Member.rank).getD 0
  | none => 0

/-- The class of a victim: that of its member with the lowest rank. -/
def gangClass (s : State) (cs : List Nat) : Nat :=
  match cs with
  | [] => 0
  | c :: t => s.crClass (t.foldl (fun m x => if s.rankOf x < s.rankOf m then x else m) c)

def nopre (s : State) (cs : List Nat) : Bool := (s.reg (0x100 + 8 * s.gangClass cs)).getLsbD 1

/-- Does every member run: on a core, neither stopping nor already chosen? -/
def runs_ (s : State) (cs : List Nat) : Bool :=
  !cs.isEmpty && cs.all (fun c => s.crSt c == 3) && s.preempts.all fun p => !p.left.any cs.contains

/-- The running teams and lone tasks of a die (R138). -/
def victims (s : State) (die : Nat) : List (List Nat) :=
  let all := (s.cores.filter fun e => e.1 / 256 = die && e.2.crid != 0).map fun e => s.gangOf e.2.crid
  all.foldl (fun l g => if l.contains g then l else l ++ [g]) []

def earliest (s : State) (cs : List Nat) : Nat := cs.foldl (fun m c => min m (s.crDeadline c)) noDeadline

/-- PCC at which a victim was placed. -/
def placedAt (s : State) (cs : List Nat) : Nat := (s.coresOf cs).foldl (fun m c => max m (s.core c).placed) 0

/-- The victim that hardware chooses on a die (R138). -/
def chooseVictim (s : State) (die : Nat) : Option (List Nat) :=
  ((s.victims die).filter fun g => s.runs_ g && !s.nopre g).foldl (fun m g =>
    match m with
    | none => some g
    | some x =>
      if s.earliest x < s.earliest g ∨ (s.earliest x = s.earliest g ∧ s.placedAt x < s.placedAt g) then some g else some x) none

/-- The victim of a PREEMPT entry, if there is one that it affects (R138). -/
def victim (s : State) (e : ClEntry) : Option (List Nat) :=
  let id := fld e.w0 48 16
  if id = 0 then s.chooseVictim (fld e.w0 45 3)
  else
    match s.team id with
    | none => none
    | some t =>
      let cs := (t.members.filter fun m => !m.left).map Member.crid
      if s.runs_ cs && !s.nopre cs then some cs else none

/-- Sections that a member has left in its fork (R139). -/
def remaining (s : State) (c : Nat) : Nat :=
  let k := s.context c
  match s.codeOf (s.crCode (s.core c).crid) with
  | none => 0
  | some o =>
    if k.forkOut then max (o.nfe - k.fe.retired.toNat) (max (o.nma - k.ma.retired.toNat) (o.ndr - k.dr.retired.toNat)) else 0

/-- May a victim be discarded: every member restartable, and nothing of it exposed (R139)? -/
def mayDiscard (s : State) (cs : List Nat) : Bool :=
  cs.all s.crRst &&
    (match s.team (s.teamOf (nth 0 cs 0)) with
     | some t => !t.exposed
     | none => (s.coresOf cs).all fun c => !(s.context c).exposed)

/-- The requester's slack (R139). -/
def slack (pcc reqdl run : Nat) : Nat := reqdl - pcc - run

/-- The method of a pre-emption: 0 DRAIN, 1 DISCARD, 2 SAVE (R139). -/
def preemptMethod (s : State) (cs : List Nat) (sl : Nat) : Nat :=
  let rem := (s.coresOf cs).foldl (fun m c => max m (s.remaining c)) 0
  if fld (s.reg (0x100 + 8 * s.gangClass cs)) 16 16 * rem ≤ sl then 0 else if s.mayDiscard cs then 1 else 2

/-- The members stop as the method says (R139, R140). -/
def stopMembers (s : State) (cs : List Nat) (method : Nat) : State :=
  if method = 0 then s else (s.coresOf cs).foldl (fun s c => s.beginStop c (method == 1)) s

/-- A pre-emption begins. -/
def startPreempt (s : State) (die : Nat) (cs : List Nat) (sl : Nat) : State :=
  let m := s.preemptMethod cs sl
  let p : Preempt :=
    { num := s.order, team := s.teamOf (nth 0 cs 0), crids := cs, left := cs, method := m, expiry := s.pcc + sl, die := die }
  { s with preempts := s.preempts ++ [p], order := s.order + 1 }.stopMembers cs m

/-- PREEMPT (R135, R138): with WAIT it holds until the victim has stopped; `team` keeps the number of the
pre-emption, and `made` its victim. -/
def preemptGo (s : State) (i : Nat) (h : ClHold) : State :=
  let e := h.entry
  if h.made.isEmpty then
    match s.victim e with
    | none => s.listNext i
    | some cs =>
      let c := nth 0 (s.coresOf cs) 0
      let s := s.startPreempt (c / 256) cs (slack s.pcc e.w1.toNat e.w2.toNat)
      if e.w0.getLsbD 8 then s.listWait i { h with made := cs, team := s.order - 1 } else s.listNext i
  else if s.preempts.any fun p => p.num = h.team then s.listWait i h
  else s.listNext i

/-! ## Discard (R139) -/

/-- Objects whose drafts the members of a victim, or its team, have claimed. -/
def gangClaims (s : State) (p : Preempt) : List Nat :=
  (if p.team = 0 then [] else s.claimsOf 2 p.team) ++ (p.crids.map (s.claimsOf 1)).flatten

/-- Is a job that is not to be cancelled still writing the draft of an object? -/
def draftWritten (s : State) (key : Nat) : Bool :=
  s.jobs.any fun j =>
    !j.ended && !j.slotEnd && (List.range 4).any fun i => j.role i == 2 && j.draft i && Handle.key (j.handle i) == key

/-- Have all members stopped, and every job that writes a draft of theirs completed (R139)? -/
def discardReady (s : State) (p : Preempt) : Bool :=
  (s.coresOf p.crids).all (fun c => (s.core c).phase == .stopping true && s.coreQuiet c) && !(s.gangClaims p).any s.draftWritten

/-- A discarded task's context: it starts anew with its CT record holding PREEMPT, detail 2 (R139). -/
def discardedCore (frameSup : Option Nat) : Core :=
  { ct := { fault := { ctRecord FCode.preempt 2 with v := false } }, frameSup := frameSup }

/-- One member is discarded: what it holds is released, its record starts anew, its core is idle (R139). -/
def discardOne (s : State) (c : Nat) : State :=
  let t := (s.core c).crid
  let s := (s.flushWindow c).disownUpdates t
  let s := (s.orphanJobs t).refuseColls t
  let s := s.releasePins c
  let s := (s.claimsOf 1 t).foldl (fun s key => s.closeDraft key) s
  let s := { s with shapes := s.shapes.filter fun e => !(!e.2.isTeam && e.2.owner == t) }
  let k := s.core c
  let s := { s with saved := Tbl.put s.saved t (discardedCore k.frameSup) }
  let s := ((s.setCr t 7 0#64).setCrFld t 0 12 1 0).setCrFld t 6 48 16 0
  s.setCore c { placed := k.placed }

/-- A discard is complete (R139): the members are discarded, the team is dissolved, and the records are enqueued again, those of a
team made by LAUNCH under a new team as soon as one is free. -/
def discardAll (s : State) (p : Preempt) : State :=
  let cs := (s.coresOf p.crids).map fun c => (s.core c).crid
  let byLaunch := match s.team p.team with
    | some t => t.byLaunch
    | none => false
  let s := (s.coresOf p.crids).foldl discardOne s
  let s := if p.team = 0 then s else s.dissolve p.team
  let s := { s with preempts := s.preempts.filter fun q => q.num != p.num }
  if byLaunch then
    let s := cs.foldl (fun s c => s.setSt c 1) s
    { s with reteam := s.reteam ++ [(p.die, cs)] }.reTeam p.die
  else
    let s := if p.team = 0 then s else s.reTeam (p.team / 4096)
    cs.foldl (fun s c => (s.setCrFld c 6 16 8 0).enqueue (128 + Tbl.get p.die s.lastDie c) c) s

end State

/-! ## The rows -/

/-- LAUNCH (R135). -/
def execLaunch (e : ClEntry) (s : State) : Host.Outcome State Fault Refusal :=
  listEntry e e.launchBad (fun i h s => s.launchGo i h) s

/-- WAITEV (R135). -/
def execWaitev (e : ClEntry) (s : State) : Host.Outcome State Fault Refusal :=
  listEntry e (ClEntry.outside e.w0 0x000F0000000001FF || (e.w0.getLsbD 8 && (e.w1 != 0#64 || e.w2 != 0#64)) || e.w3 != 0#64)
    (fun i h s => s.waitevGo i h) s

/-- SKIPIF (R135). -/
def execSkipif (e : ClEntry) (s : State) : Host.Outcome State Fault Refusal :=
  let n := fld e.w0 48 16
  listEntry e (ClEntry.outside e.w0 0xFFFF0000000003FF || n == 0 || e.w2.toNat % 8 != 0)
    (fun i h s =>
      if s.entryLocked e.w1 then s.listWait i h
      else
        match s.listRead i e.w1 e.w2.toNat 8 with
        | (.bad f, sh) => s.listFault i e.w1 sh (s.curv (Handle.key e.w1)) f
        | (.ok bs, _) =>
          let x := BitVec.ofNat 64 (leNat bs)
          let k := s.interp i
          s.listGo i k.clh (k.cli + 1#64 + (if State.skipCond (fld e.w0 8 2) x e.w3 then BitVec.ofNat 64 n else 0#64))) s

/-- The list that a JUMP or CALL names: 0 is this list. -/
def listOf (k : Interp) (e : ClEntry) : Word := if e.w1 = 0#64 then k.clh else e.w1

/-- JUMP (R135). -/
def execJump (e : ClEntry) (s : State) : Host.Outcome State Fault Refusal :=
  listEntry e (ClEntry.outside e.w0 0xFF || e.w3 != 0#64) (fun i _ s => s.listGo i (listOf (s.interp i) e) e.w2) s

/-- CALL (R135, R137). -/
def execCall (e : ClEntry) (s : State) : Host.Outcome State Fault Refusal :=
  listEntry e (ClEntry.outside e.w0 0xFF || e.w3 != 0#64)
    (fun i _ s =>
      let k := s.interp i
      if 8 ≤ k.stack.length then s.listError i 3 0
      else (s.modInterp i fun k => { k with stack := (k.clh, k.cli + 1#64) :: k.stack }).listGo i (listOf k e) e.w2) s

/-- Has an entry without operands a bit set that is not its TYPE? -/
def bareBad (e : ClEntry) : Bool := ClEntry.outside e.w0 0xFF || e.w1 != 0#64 || e.w2 != 0#64 || e.w3 != 0#64

/-- The interpreter becomes IDLE (R135). -/
def State.listEnd (s : State) (i : Nat) : State := s.modInterp i fun k => { k with st := 0, hold := none }

/-- RET (R135): with an empty stack it acts as END. -/
def execRet (e : ClEntry) (s : State) : Host.Outcome State Fault Refusal :=
  listEntry e (bareBad e)
    (fun i _ s =>
      match (s.interp i).stack with
      | [] => s.listEnd i
      | (h, n) :: t => (s.modInterp i fun k => { k with stack := t }).listGo i h n) s

/-- SIGNAL (R135). -/
def execSignal (e : ClEntry) (s : State) : Host.Outcome State Fault Refusal :=
  listEntry e (ClEntry.outside e.w0 0xFF || e.w3 != 0#64) (fun i h s => s.signalGo i h) s

/-- PUBLISH (R135). -/
def execPublish (e : ClEntry) (s : State) : Host.Outcome State Fault Refusal :=
  listEntry e (ClEntry.outside e.w0 0xFF || e.w2.toNat % 8 != 0) (fun i h s => s.publishGo i h) s

/-- PREEMPT (R138, R139). -/
def execPreempt (e : ClEntry) (s : State) : Host.Outcome State Fault Refusal :=
  listEntry e (ClEntry.outside e.w0 0xFFFFE000000001FF || e.w3 != 0#64) (fun i h s => s.preemptGo i h) s

/-- PASS (R135). -/
def execPass (e : ClEntry) (s : State) : Host.Outcome State Fault Refusal :=
  listEntry e (ClEntry.outside e.w0 0x000F0000000000FF || decide (8 < fld e.w0 48 4) || e.w3 != 0#64) (fun i h s => s.passGo i h) s

/-- END (R135). -/
def execEndList (e : ClEntry) (s : State) : Host.Outcome State Fault Refusal :=
  listEntry e (bareBad e) (fun i _ s => s.listEnd i) s

/-- PASS_QUEUE_TAKE (R132): an idle interpreter runs the oldest entry of its pass queue, with an empty call stack (log entry 47). -/
def execPassQueueTake (s : State) : Host.Outcome State Fault Refusal :=
  let i := s.unit
  let k := s.interp i
  match k.pass with
  | (h, n) :: t =>
    .next (if k.st = 0 then
        s.setInterp i { k with pass := t, clh := h, cli := n, st := 1, stack := [], hold := none, busyTo := s.pcc }
      else s)
  | [] => .next s

/-- CL_ENTRY_RESUME (R135): an entry that holds goes on if it can. -/
def execClEntryResume (s : State) : Host.Outcome State Fault Refusal :=
  let i := s.unit
  match (s.interp i).hold with
  | none => .next s
  | some h =>
    match decodeEntry h.entry with
    | some (.launch _) => .next (s.launchGo i h)
    | some (.waitev _) => .next (s.waitevGo i h)
    | some (.signal _) => .next (s.signalGo i h)
    | some (.publish _) => .next (s.publishGo i h)
    | some (.preempt _) => .next (s.preemptGo i h)
    | some (.pass _) => .next (s.passGo i h)
    | some (.skipif e) => execSkipif e s
    | _ => .next s

/-- The members of a victim that remain on cores, with those that have joined since (R127, R139). -/
def State.remainingMembers (s : State) (p : Preempt) : List Nat :=
  let cs := ((s.coresOf p.left).flatMap fun c => s.gangOf (s.core c).crid).foldl (fun l c => if l.contains c then l else l ++ [c]) []
  cs.filter fun c => !(s.coresOf [c]).isEmpty

/-- PREEMPT_DRAIN_EXPIRY (R139): members remain when DRAIN's slack has run out. -/
def execPreemptDrainExpiry (s : State) : Host.Outcome State Fault Refusal :=
  match s.preempts[s.unit]? with
  | none => .next s
  | some p =>
    let cs := s.remainingMembers p
    if p.method = 0 ∧ p.expiry ≤ s.pcc ∧ cs ≠ [] then
      let m := if s.mayDiscard cs then 1 else 2
      let ps := s.preempts.map fun q =>
        if q.num = p.num then { q with method := m, crids := cs, left := cs, team := s.teamOf (nth 0 cs 0) } else q
      .next ({ s with preempts := ps }.stopMembers cs m)
    else .next s

/-- DISCARD_STOPPED (R139). -/
def execDiscardStopped (s : State) : Host.Outcome State Fault Refusal :=
  match s.preempts[s.unit]? with
  | none => .next s
  | some p => .next (if p.method = 1 ∧ s.discardReady p then s.discardAll p else s)

end Sys2Proof.Machine
end

