-- ==== Sys2Proof/Machine/Foreman.lean ====
section
/-!
DEFINITION. The privileged instructions of the system cores (15 R416 to R422, R428, R434): Yard words and locks, handle-cache
invalidation, page moves, page hashes.
-/

namespace Sys2Proof.Machine

/-- A privileged instruction (R411, R416): in U it is an illegal instruction with YDET 8, and on a control sequencer ILLOP with detail 0x21
(R58). -/
def privileged (i : Instr) (body : Nat → BitVec 32 → State → State) (s : State) : Host.Outcome State Fault Refusal :=
  let w := (encode32 i).getD 0#32
  match s.agent with
  | .hart h => .next (if (s.hart h).mode = 0 then s.hartIllegal h w 8 else body h w s)
  | .seq c .ct => .next (s.ctIllop c 0x21)
  | _ => .next s

/-! ## Selectors (R417) -/

/-- Does a selector break R417, apart from its SUBF? -/
def State.selectorBad (s : State) (x : Word) : Bool :=
  Handle.home x != s.pkg || Handle.loc x == 0 || decide (s.regN 0x10 ≤ Handle.loc x) || fld x 4 8 != 0

def subf (x : Word) : Nat := fld x 0 4

namespace State

/-- Does a hart hold the lock of an entry (R420)? -/
def holdsLock (s : State) (h key : Nat) : Bool := Tbl.find s.ylocks key == some h

/-- Have all invalidations that a hart issued under the lock of an entry been acknowledged (R420)? -/
def acked (s : State) (h key : Nat) : Bool := !s.invs.any fun v => v.1 == h && v.2.1 == key

/-- The release of an entry lock: it waits for acknowledgements (R420). -/
def unlockEntry (s : State) (h key : Nat) (d : BitVec 5) (wait : State → State) : State :=
  if s.acked h key then
    { s with ylocks := Tbl.erase s.ylocks key, seen := Tbl.erase s.seen key }.modHart h fun k => { (k.setX d 1#64).retireTo (k.pc + 4#64) with wait := none }
  else wait s

/-- The access to the word of an entry in its storage counts as one of its stack (R418, R439). -/
def countYard (s : State) (key n : Nat) : State :=
  match s.yardKey (16 * key + n) with
  | some k => s.countHpc (tableRef k) 8
  | none => s

end State

/-- YRD (R419). -/
def execYrd (a d : BitVec 5) (s : State) : Host.Outcome State Fault Refusal :=
  privileged (.yrd a d) (fun h w s =>
    let x := s.rx a
    if s.selectorBad x then s.hartIllegal h w 1
    else (s.countYard (Handle.key x) (subf x)).done d (s.yw (Handle.key x) (subf x))) s

/-- YWR (R421). -/
def execYwr (b a : BitVec 5) (s : State) : Host.Outcome State Fault Refusal :=
  privileged (.ywr b a) (fun h w s =>
    let x := s.rx a
    let key := Handle.key x
    let n := subf x
    if s.selectorBad x then s.hartIllegal h w 1
    else if !s.holdsLock h key then s.hartIllegal h w 3
    else if (s.yw key 0).getLsbD 46 && (n == 4 || (9 ≤ n && n ≤ 13)) then s.hartIllegal h w 2
    else ((s.countYard key n).setYw key n (s.rx b)).step4) s

/-- YLOCK (R420). -/
def execYlock (a d : BitVec 5) (s : State) : Host.Outcome State Fault Refusal :=
  privileged (.ylock a d) (fun h w s =>
    let x := s.rx a
    let key := Handle.key x
    if s.selectorBad x || decide (1 < subf x) then s.hartIllegal h w 1
    else if subf x = 1 then
      match Tbl.find s.ylocks key with
      | none => State.done { s with ylocks := Tbl.put s.ylocks key h, seen := Tbl.put s.seen key (s.entry key) } d 1#64
      | some o => s.done d (if o = h then 1#64 else 0#64)
    else if !s.holdsLock h key then s.hartIllegal h w 4
    else s.unlockEntry h key d fun s => s.modHart h fun k => { k with wait := some (true, 0#5, a, d) }) s

/-- YLOCK_RELEASE_DONE (R420). -/
def execYlockReleaseDone (s : State) : Host.Outcome State Fault Refusal :=
  let h := s.unit
  match (s.hart h).wait with
  | some (true, _, a, d) => .next (s.unlockEntry h (Handle.key ((s.hart h).getX a)) d id)
  | _ => .next s

/-- HHINV (R422): every handle cache of the package that holds the entry is told to drop it, and so is every other package of the domain
(log entry 16). -/
def execHhinv (a : BitVec 5) (s : State) : Host.Outcome State Fault Refusal :=
  privileged (.hhinv a) (fun h w s =>
    let x := s.rx a
    let key := Handle.key x
    if s.selectorBad x || subf x != 0 then s.hartIllegal h w 1
    else
      let cls := (s.hcache.filter fun e => e.1 / 128 == key).map fun e => e.1 % 128
      let peers := s.domain.filter fun p => p != s.pkg
      let acks := cls ++ peers.map fun p => 128 + p
      let s1 := if acks.isEmpty then s else { s with invs := s.invs ++ [(if s.holdsLock h key then h else 64, key, acks)] }
      (peers.foldl (fun s p => s.post 5 p 2 (leBytes 8 key)) s1).step4) s

/-! ## Page moves (R428) -/

namespace State

/-- The place of an aligned address in the local HBM4E or Spoil (YDET 5 of R417). -/
def localPlace (s : State) (pa align : Nat) : Option Nat :=
  if pa % align ≠ 0 then none
  else
    match paRef s pa with
    | some r => if r.pkg.isNone && (r.kind == .hbm || r.kind == .spoil) && !bitOf pa 43 then some r.key else none
    | none => none

/-- The home agent of a local HBM4E frame: that of its first granule (R437, R438; log entry 28). -/
def homeAgent (s : State) (key : Nat) : Option Nat :=
  if key < 0x0C000000000 then some (32 * (key / 2 ^ 36) + s.hpcIndex (key / 2 ^ 36) key / 2) else none

/-- The frame that a PTE names, if it names one (R424). -/
def pteFrame (pte : Nat) : Option Nat :=
  if pteTier pte then some (bitsOf pte 16 40 * 65536) else none

/-- A value that meets R424. -/
def pteOk (pte : Nat) : Bool :=
  let t := bitsOf pte 0 4
  bitsOf pte 56 8 == 0 && bitsOf pte 8 8 == 0 && bitsOf pte 4 3 == 0 && (t == 1 || t == 2 || t == 3 || t == 5)

/-- Does a hart hold the lock of the page of a PTE? -/
def holdsPage (s : State) (h key : Nat) : Bool := s.plocks.any fun l => l.1 == key && l.2.1 == h

/-- Are the limits on page locks reached for a hart and the frame it would lock (R428)? -/
def pageLimit (s : State) (h frame : Nat) : Bool :=
  let agent := s.homeAgent frame
  decide (4 ≤ (s.plocks.filter fun l => l.2.1 == h).length) ||
    (agent.isSome && decide (16 ≤ (s.plocks.filter fun l => s.homeAgent l.2.2 == agent).length))

/-- The place that stands for the frame of a PTE that names none. -/
def noFrame : Nat := 2 ^ 56

/-- YSWITCH BEGIN. -/
def pageBegin (s : State) (h key : Nat) (d : BitVec 5) : State :=
  let pte := s.num key 8
  let frame := ((pteFrame pte).map (paKeyAt s s.pkg)).getD noFrame
  if (s.plocks.any fun l => l.1 == key) || s.pageLimit h frame then s.done d (BitVec.allOnes 64)
  else State.done { s with plocks := s.plocks ++ [(key, h, frame)] } d (BitVec.ofNat 64 pte)

/-- Sectors that a collective could not write while the PTE named no frame read as poisoned in the frame that it now names (R408). -/
def markBack (s : State) (key : Nat) : State :=
  match pteFrame (s.num key 8) with
  | none => s
  | some f =>
    let mine := s.lostSecs.filter fun e => e.1 == key
    mine.foldl (fun s e => s.markPoison (paKeyAt s s.pkg f + 32 * e.2) 32) { s with lostSecs := s.lostSecs.filter fun e => e.1 != key }

/-- Releases a page lock. -/
def pageRelease (s : State) (key : Nat) : State := { s with plocks := s.plocks.filter fun l => l.1 != key }

/-- The place in the new frame of a place in the old one: of a page that has come to name no frame, none that is mapped (log entry 47). -/
def movedTo (old new k : Nat) : Nat := if k / 65536 * 65536 = old then new + k % 65536 else k

/-- Writes that a page lock holds are translated afresh at COMMIT (R428): they are to land in the new frame. -/
def redoHeld (s : State) (old new : Nat) : State :=
  { s with
    linkHeld := s.linkHeld.map fun e => (movedTo old new e.1, e.2)
    cxlHeld := s.cxlHeld.map fun e => (movedTo old new e.1, e.2) }

/-- The end of a YSWITCH COMMIT: the writes held, REF of both frames, the lock, the result. -/
def commitDone (s : State) (h key : Nat) (d : BitVec 5) : State :=
  let old := (s.hart h).oldPte.toNat
  let frameKey := fun (pte : Nat) => ((pteFrame pte).map (paKeyAt s s.pkg)).getD noFrame
  let s := s.redoHeld (frameKey old) (frameKey (s.num key 8))
  let s1 := match pteFrame (s.num key 8) with
    | some f => s.refAdd s.pkg f
    | none => s
  let s2 := match pteFrame old with
    | some f => s1.refSub s.pkg f
    | none => s1
  (s2.pageRelease key).modHart h fun k => { (k.setX d (BitVec.ofNat 64 old)).retireTo (k.pc + 4#64) with wait := none, oldPte := 0#64 }

end State

/-- YSWITCH (R428): COMMIT replaces the PTE and waits. -/
def execYswitch (b a d : BitVec 5) (s : State) : Host.Outcome State Fault Refusal :=
  privileged (.yswitch b a d) (fun h w s =>
    let pa := (s.rx a).toNat
    let v := s.rx b
    match s.localPlace pa 8 with
    | none => s.hartIllegal h w 5
    | some key =>
      if s.touchesYard key 8 then s.hartTrap h Exc.storeAccess (s.rx a) 0#64
      else if v = 0#64 then (s.countHpc (State.tableRef key) 8).pageBegin h key d
      else if !s.holdsPage h key then s.hartIllegal h w 3
      else if v = BitVec.allOnes 64 then ((s.countHpc (State.tableRef key) 8).pageRelease key).done d (BitVec.ofNat 64 (s.num key 8))
      else if !State.pteOk v.toNat then s.hartIllegal h w 6
      else
        let old := s.num key 8
        ((((((s.countHpc (State.tableRef key) 8).countHpc (State.tableRef key) 8).soil (State.tableRef key) 8).writeNum key 8 v.toNat).noteRemote [key]).markBack key).modHart h fun k => { k with wait := some (false, b, a, d), oldPte := BitVec.ofNat 64 old }) s

/-- YSWITCH_COMMIT_DONE (R428): every access of this model is made whole, so none to the old frame is under way. -/
def execYswitchCommitDone (s : State) : Host.Outcome State Fault Refusal :=
  let h := s.unit
  match (s.hart h).wait with
  | some (false, _, a, d) =>
    (match s.localPlace ((s.hart h).getX a).toNat 8 with
     | some key => .next (s.commitDone h key d)
     | none => .next s)
  | _ => .next s

/-- PGHASH (R434). -/
def execPghash (b a : BitVec 5) (s : State) : Host.Outcome State Fault Refusal :=
  privileged (.pghash b a) (fun h w s =>
    match s.localPlace (s.rx a).toNat 65536, s.localPlace (s.rx b).toNat 32 with
    | some f, some t =>
      if s.touchesYard f 65536 then s.hartTrap h Exc.loadAccess (s.rx a) 0#64
      else if s.touchesYard t 32 then s.hartTrap h Exc.storeAccess (s.rx b) 0#64
      else if s.poisoned f 65536 then (s.postError 2 (if f < 0x0C000000000 then 1 else 2) 0 f).hartTrap h Exc.loadAccess (s.rx a) 9#64
      else if s.pageLocked t then s
      else (((((s.countHpc (State.tableRef f) 65536).countHpc (State.tableRef t) 32).soil (State.tableRef t) 32).write t
        (Keccak.shake256 (s.bytes f 65536) 32)).noteRemote [t, t + 31]).step4
    | _, _ => s.hartIllegal h w 5) s

end Sys2Proof.Machine
end

