-- ==== Sys2Proof/Machine/HartFloat.lean ====
section
/-!
DEFINITION. The arithmetic of the F and D extensions of the harts (15 R411), on codes of the two formats: exact values, rounded once,
with the exception flags.  PRESUMED from the RISC-V architecture, which the spec names (log entry 20).
-/

namespace Sys2Proof.Machine

namespace Fl

/-- Single (false) or double (true) precision. -/
def fmt (d : Bool) : FFmt := if d then FFmt.ieee 11 52 else FFmt.fp32

/-- The exception flags: inexact, underflow, overflow, division by zero, invalid. -/
def nx : Nat := 1
def uf : Nat := 2
def of_ : Nat := 4
def dz : Nat := 8
def nv : Nat := 16

/-- The rounding mode of a rounding-mode number, none for a reserved one. -/
def mode (n : Nat) : Option RMode :=
  match n with
  | 0 => some .rne
  | 1 => some .rtz
  | 2 => some .rdn
  | 3 => some .rup
  | 4 => some .rna
  | _ => none

/-- Is a code a signalling NaN? -/
def snan (f : FFmt) (a : Nat) : Bool := (f.decode a).isNan && !bitOf a (f.mb - 1)

/-- Invalid where an operand is a signalling NaN. -/
def nvOf (f : FFmt) (as : List Nat) : Nat := if as.any (snan f) then nv else 0

/-- Is a magnitude tiny after rounding: below the least normal number though the exponent had no bound? -/
def tiny (f : FFmt) (m : RMode) (neg : Bool) (a : Q) : Bool :=
  let least := Q.pow2 (1 - f.bias)
  let q := Q.log2 a - f.mb
  Q.lt a least && Q.lt (Q.mul (Q.ofInt (roundMag m neg (Q.mul a (Q.pow2 (-q))))) (Q.pow2 q)) least

/-- A value rounded to a code, with its flags. -/
def round (f : FFmt) (m : RMode) : FVal → Nat × Nat
  | .nan => (f.nan, 0)
  | .inf s => (f.infCode s, 0)
  | .fin s a =>
    let r := f.roundMagTo m s a
    if Q.lt f.maxFin r then (f.overflow m s, of_ + nx)
    else (f.encodeFin s r, if Q.eq r a then 0 else if tiny f m s a then uf + nx else nx)

/-- Flags joined. -/
def flag (fl : Nat) (r : Nat × Nat) : Nat × Nat := (r.1, r.2 ||| fl)

/-- The exact sum; an exact zero of operands of unlike sign is negative when rounding down. -/
def sum (m : RMode) (x y : FVal) : FVal :=
  match x.add y with
  | .fin s a => if a.isZero && !(x.isZero && y.isZero && x.sign == y.sign) then .fin (m == .rdn) a else .fin s a
  | v => v

/-- A sum that is no NaN though no operand is one. -/
def sumBad (x y : FVal) : Bool := !x.isNan && !y.isNan && (x.add y).isNan

def add (f : FFmt) (m : RMode) (a b : Nat) : Nat × Nat :=
  let x := f.decode a
  let y := f.decode b
  flag (nvOf f [a, b] ||| (if sumBad x y then nv else 0)) (round f m (sum m x y))

/-- The code with its sign changed. -/
def neg (f : FFmt) (a : Nat) : Nat := a ^^^ 2 ^ (f.eb + f.mb)

def mul (f : FFmt) (m : RMode) (a b : Nat) : Nat × Nat :=
  let x := f.decode a
  let y := f.decode b
  flag (nvOf f [a, b] ||| (if !x.isNan && !y.isNan && (x.mul y).isNan then nv else 0)) (round f m (x.mul y))

/-- a * b + c, rounded once; the product of zero and infinity is invalid whatever c is. -/
def fma (f : FFmt) (m : RMode) (a b c : Nat) : Nat × Nat :=
  let x := f.decode a
  let y := f.decode b
  let p := x.mul y
  let bad := !x.isNan && !y.isNan && p.isNan
  flag (nvOf f [a, b, c] ||| (if bad || sumBad p (f.decode c) then nv else 0)) (round f m (sum m p (f.decode c)))

def div (f : FFmt) (m : RMode) (a b : Nat) : Nat × Nat :=
  let x := f.decode a
  let y := f.decode b
  let s := x.sign != y.sign
  flag (nvOf f [a, b])
    (match x, y with
     | .nan, _ => (f.nan, 0)
     | _, .nan => (f.nan, 0)
     | .inf _, .inf _ => (f.nan, nv)
     | .inf _, .fin _ _ => (f.infCode s, 0)
     | .fin _ _, .inf _ => (f.encodeFin s Q.zero, 0)
     | .fin _ p, .fin _ q =>
       if q.isZero then (if p.isZero then (f.nan, nv) else (f.infCode s, dz)) else round f m (.fin s (Q.div p q)))

/-- The square root of a positive magnitude of the format, exact, or between two neighbours far finer than the format's. -/
def root (f : FFmt) (a : Q) : Q :=
  let t : Int := Q.log2 a / 2 - (f.mb + 4)
  let n := (Q.floor (Q.mul a (Q.pow2 (-2 * t)))).toNat
  let r := isqrt n
  Q.mul (if r * r = n then ⟨r, 1⟩ else ⟨2 * r + 1, 2⟩) (Q.pow2 t)

def sqrt (f : FFmt) (m : RMode) (a : Nat) : Nat × Nat :=
  flag (nvOf f [a])
    (match f.decode a with
     | .nan => (f.nan, 0)
     | .inf s => if s then (f.nan, nv) else (f.infCode false, 0)
     | .fin s x => if x.isZero then (a, 0) else if s then (f.nan, nv) else round f m (.fin false (root f x)))

/-- FMIN and FMAX: the number where one operand is a NaN; -0 lies below +0. -/
def pick (f : FFmt) (greater : Bool) (a b : Nat) : Nat × Nat :=
  let x := f.decode a
  let y := f.decode b
  let less := x.cmp y < 0 || (x.isZero && y.isZero && x.sign)
  (if x.isNan && y.isNan then f.nan else if x.isNan then b else if y.isNan then a else if less != greater then a else b, nvOf f [a, b])

/-- FLE (0), FLT (1), FEQ (2). -/
def cmp (f : FFmt) (op a b : Nat) : Bool × Nat :=
  let x := f.decode a
  let y := f.decode b
  if x.isNan || y.isNan then (false, if op = 2 then nvOf f [a, b] else nv)
  else
    let c := x.cmp y
    (if op = 0 then c ≤ 0 else if op = 1 then c < 0 else c = 0, 0)

/-- FSGNJ (0), FSGNJN (1), FSGNJX (2). -/
def sgnj (f : FFmt) (op a b : Nat) : Nat :=
  let n := f.eb + f.mb
  let s := bitOf b n
  let t := if op = 0 then s else if op = 1 then !s else s != bitOf a n
  bitsOf a 0 n + b2n t * 2 ^ n

/-- FCLASS. -/
def classify (f : FFmt) (a : Nat) : Nat :=
  let s := bitOf a (f.eb + f.mb)
  match f.decode a with
  | .nan => if snan f a then 2 ^ 8 else 2 ^ 9
  | .inf _ => if s then 2 ^ 0 else 2 ^ 7
  | .fin _ x =>
    if x.isZero then (if s then 2 ^ 3 else 2 ^ 4)
    else if bitsOf a f.mb f.eb = 0 then (if s then 2 ^ 2 else 2 ^ 5)
    else if s then 2 ^ 1 else 2 ^ 6

/-- A code as an integer from `lo` to `hi`; what lies outside, and a NaN, is invalid. -/
def toInt (f : FFmt) (m : RMode) (a : Nat) (lo hi : Int) : Int × Nat :=
  match f.decode a with
  | .nan => (hi, nv)
  | .inf s => (if s then lo else hi, nv)
  | .fin s x =>
    let q := FVal.toQ (.fin s x)
    let i := roundInt m q
    if i < lo then (lo, nv) else if hi < i then (hi, nv) else (i, if Q.eq (Q.ofInt i) q then 0 else nx)

/-- The integers of FCVT: W, WU, L, LU. -/
def range (k : Nat) : Int × Int :=
  match k with
  | 0 => (-2 ^ 31, 2 ^ 31 - 1)
  | 1 => (0, 2 ^ 32 - 1)
  | 2 => (-2 ^ 63, 2 ^ 63 - 1)
  | _ => (0, 2 ^ 64 - 1)

/-- The x register that an integer of FCVT gives: W and WU are sign-extended. -/
def intoX (k : Nat) (i : Int) : BitVec 64 := if k < 2 then (BitVec.ofInt 32 i).signExtend 64 else BitVec.ofInt 64 i

/-- The integer that FCVT takes from an x register. -/
def fromX (k : Nat) (x : BitVec 64) : Int :=
  match k with
  | 0 => signExt x.toNat 32
  | 1 => x.toNat % 2 ^ 32
  | 2 => signExt x.toNat 64
  | _ => x.toNat

/-- A code of one format in the other. -/
def convert (f g : FFmt) (m : RMode) (a : Nat) : Nat × Nat := flag (nvOf f [a]) (round g m (f.decode a))

end Fl

end Sys2Proof.Machine
end

