-- ==== Sys2Proof/Machine/HartExt.lean ====
section
/-!
DEFINITION. Encodings outside the control sequencer's profile (02 R58, 03 R71): illegal there; on a hart, which implements RV64GC (15 R411), the A,
F, D and C extensions, FENCE.I and the privileged instructions, PRESUMED from the RISC-V architecture (log entry 20).
-/

namespace Sys2Proof.Machine

/-! ## Atomic memory operations (A) -/

/-- The result of an AMO by its funct5. -/
def amoVal (f5 : Nat) (w : Nat) (old x : Nat) : Option Nat :=
  let so := signExt old w
  let sx := signExt x w
  match f5 with
  | 0x01 => some x
  | 0x00 => some ((old + x) % 2 ^ w)
  | 0x04 => some (old ^^^ x)
  | 0x0C => some (old &&& x)
  | 0x08 => some (old ||| x)
  | 0x10 => some (if sx < so then x else old)
  | 0x14 => some (if so < sx then x else old)
  | 0x18 => some (min old x)
  | 0x1C => some (max old x)
  | _ => none

namespace State

/-- A hart writes `rd` and retires, having executed an instruction of `len` bytes. -/
def hartDone (s : State) (h len : Nat) (rd : BitVec 5) (v : Word) : State :=
  s.modHart h fun k => (k.setX rd v).retireTo (k.pc + BitVec.ofNat 64 len)

/-- A hart goes on behind an instruction of `len` bytes. -/
def hartNext (s : State) (h len : Nat) : State := s.modHart h fun k => k.retireTo (k.pc + BitVec.ofNat 64 len)

/-- The place of an aligned atomic access of `n` bytes in memory: found, on a locked page, or the state after its trap.  `acc` is 1 for LR, 2 for
SC and AMOs. -/
def atomicWhere (s : State) (h va n acc : Nat) : StoreAt :=
  if va % n ≠ 0 then
    .trap (s.hartTrap h (if acc = 1 then Exc.loadMisaligned else Exc.storeMisaligned) (BitVec.ofNat 64 va) 0#64)
  else
    match s.hartTranslate h va acc with
    | .at_ pa =>
      match s.hartPlace pa n with
      | none => .trap (s.hartTrap h (Exc.access acc) (BitVec.ofNat 64 va) 0#64)
      | some r =>
        match r.kind with
        | .regs _ => .trap (s.hartTrap h (Exc.access acc) (BitVec.ofNat 64 va) 0#64)
        | _ => if acc = 2 ∧ s.pageLocked r.key then .wait else .go pa
    | f => .trap (s.hartFail h acc va va f)

/-- The place in memory of a physical address that atomicWhere has found. -/
def atomicKey (s : State) (pa n : Nat) : Nat := ((s.hartPlace pa n).map PaRef.key).getD 0

/-- LR: the value, sign-extended, and a reservation of the bytes. -/
def loadReserved (s : State) (h va n : Nat) (rd : BitVec 5) : State :=
  match s.atomicWhere h va n 1 with
  | .trap t => t
  | .wait => s
  | .go pa =>
    match s.hartRead pa n with
    | (.error y, t) => t.hartTrap h Exc.loadAccess (BitVec.ofNat 64 va) (BitVec.ofNat 64 y)
    | (.ok x, t) =>
      let key := s.atomicKey pa n
      State.hartDone { t with resvs := Tbl.put t.resvs h { key := key, n := n, bytes := s.bytes key n } } h 4 rd
        (BitVec.ofInt 64 (signExt x (8 * n)))

/-- Does the reservation of a hart still hold for these bytes? -/
def reserved (s : State) (h key n : Nat) : Bool := Tbl.find s.resvs h == some { key := key, n := n, bytes := s.bytes key n }

/-- SC: the store is made, and `rd` is 0, where the reservation still holds; else `rd` is 1.  The reservation is gone. -/
def storeConditional (s : State) (h va n x : Nat) (rd : BitVec 5) : State :=
  match s.atomicWhere h va n 2 with
  | .trap t => t
  | .wait => s
  | .go pa =>
    let free := { s with resvs := Tbl.erase s.resvs h }
    if s.reserved h (s.atomicKey pa n) n then ((free.hartWrite pa n x).getD free).hartDone h 4 rd 0#64
    else free.hartDone h 4 rd 1#64

/-- An AMO (R182): one load and one store; poison found by the load raises the load access fault (R459). -/
def amo (s : State) (h va n f5 x : Nat) (rd : BitVec 5) : State :=
  match s.atomicWhere h va n 2 with
  | .trap t => t
  | .wait => s
  | .go pa =>
    match s.hartRead pa n with
    | (.error y, t) => t.hartTrap h Exc.loadAccess (BitVec.ofNat 64 va) (BitVec.ofNat 64 y)
    | (.ok old, t) =>
      ((t.hartWrite pa n ((amoVal f5 (8 * n) old x).getD old)).getD t).hartDone h 4 rd (BitVec.ofInt 64 (signExt old (8 * n)))

/-- The words of the major opcode AMO. -/
def hartAtomic (s : State) (h : Nat) (w : BitVec 32) : State :=
  let k := s.hart h
  let n := if fld w 12 3 = 2 then 4 else 8
  let va := (k.getX (Rv.rs1Of w)).toNat
  let x := (k.getX (Rv.rs2Of w)).toNat % 2 ^ (8 * n)
  let f5 := fld w 27 5
  if fld w 12 3 ≠ 2 ∧ fld w 12 3 ≠ 3 then s.hartIllegal h w 0
  else if f5 = 2 then (if Rv.rs2Of w = 0#5 then s.loadReserved h va n (Rv.rdOf w) else s.hartIllegal h w 0)
  else if f5 = 3 then s.storeConditional h va n x (Rv.rdOf w)
  else if (amoVal f5 (8 * n) 0 0).isNone then s.hartIllegal h w 0
  else s.amo h va n f5 x (Rv.rdOf w)

end State

/-! ## Floating point (F, D) -/

namespace Hart

/-- Is the floating-point unit off? -/
def fpOff (k : Hart) : Bool := fld k.mstatus 13 2 == 0

/-- The code that an f register holds for an operation of a precision: a single that is not boxed in ones reads as the default NaN. -/
def getF (k : Hart) (d : Bool) (r : BitVec 5) : Nat :=
  let v := nth 0#64 k.f r.toNat
  if d then v.toNat else if fld v 32 32 = 2 ^ 32 - 1 then fld v 0 32 else 0x7FC00000

/-- Writes an f register: a single is boxed in ones; the state becomes dirty. -/
def setF (k : Hart) (d : Bool) (r : BitVec 5) (code : Nat) : Hart :=
  let v : Word := BitVec.ofNat 64 (if d then code else (2 ^ 32 - 1) * 2 ^ 32 + code % 2 ^ 32)
  { k.setCsr 0x300 (k.mstatus ||| 0x6000#64) with f := fillAt 0#64 k.f r.toNat v }

/-- Raises exception flags. -/
def raiseF (k : Hart) (fl : Nat) : Hart := if fl = 0 then k else k.setFcsr (BitVec.ofNat 8 (k.fcsr.toNat ||| fl))

/-- The rounding mode of an instruction: its own, or that of frm. -/
def rm (k : Hart) (n : Nat) : Option RMode := Fl.mode (if n = 7 then fld k.fcsr 5 3 else n)

end Hart

/-- What a floating-point instruction gives: a code for an f register of a precision, or a value for an x register; with flags. -/
inductive FpOut where
  | f (d : Bool) (r : Nat × Nat)
  | x (v : Word) (flags : Nat)
deriving DecidableEq, Repr

/-- The words of the major opcode OP-FP; none where they are illegal. -/
def fpOp (k : Hart) (w : BitVec 32) : Option FpOut :=
  let d := fld w 25 2 = 1
  let f := Fl.fmt d
  let f3 := fld w 12 3
  let n2 := fld w 20 5
  let a := k.getF d (Rv.rs1Of w)
  let b := k.getF d (Rv.rs2Of w)
  let raw := nth 0#64 k.f (Rv.rs1Of w).toNat
  let x := k.getX (Rv.rs1Of w)
  let rounded := fun (g : RMode → Nat × Nat) => (k.rm f3).map fun m => FpOut.f d (g m)
  if 1 < fld w 25 2 then none
  else
    match fld w 27 5 with
    | 0x00 => rounded fun m => Fl.add f m a b
    | 0x01 => rounded fun m => Fl.add f m a (Fl.neg f b)
    | 0x02 => rounded fun m => Fl.mul f m a b
    | 0x03 => rounded fun m => Fl.div f m a b
    | 0x0B => if n2 = 0 then rounded fun m => Fl.sqrt f m a else none
    | 0x04 => if f3 < 3 then some (.f d (Fl.sgnj f f3 a b, 0)) else none
    | 0x05 => if f3 < 2 then some (.f d (Fl.pick f (f3 = 1) a b)) else none
    | 0x08 =>
      if n2 = (if d then 0 else 1) then
        (k.rm f3).map fun m => FpOut.f d (Fl.convert (Fl.fmt !d) f m (k.getF (!d) (Rv.rs1Of w)))
      else none
    | 0x14 => if f3 < 3 then some (let r := Fl.cmp f f3 a b; .x (Rv.ofBool r.1) r.2) else none
    | 0x18 =>
      if n2 < 4 then (k.rm f3).map fun m => let r := Fl.toInt f m a (Fl.range n2).1 (Fl.range n2).2; FpOut.x (Fl.intoX n2 r.1) r.2
      else none
    | 0x1A => if n2 < 4 then rounded fun m => Fl.round f m (FVal.ofQ (Q.ofInt (Fl.fromX n2 x))) else none
    | 0x1C =>
      if n2 ≠ 0 then none
      else if f3 = 0 then some (.x (if d then raw else Rv.sext32 raw) 0)
      else if f3 = 1 then some (.x (BitVec.ofNat 64 (Fl.classify f a)) 0)
      else none
    | 0x1E => if n2 = 0 ∧ f3 = 0 then some (.f d (if d then x.toNat else fld x 0 32, 0)) else none
    | _ => none

/-- FMADD, FMSUB, FNMSUB, FNMADD (`op` 0 to 3). -/
def fpFused (k : Hart) (w : BitVec 32) (op : Nat) : Option FpOut :=
  let d := fld w 25 2 = 1
  let f := Fl.fmt d
  let a := k.getF d (Rv.rs1Of w)
  let b := k.getF d (Rv.rs2Of w)
  let c := k.getF d (BitVec.ofNat 5 (fld w 27 5))
  if 1 < fld w 25 2 then none
  else
    (k.rm (fld w 12 3)).map fun m =>
      FpOut.f d (Fl.fma f m (if op = 2 ∨ op = 3 then Fl.neg f a else a) b (if op = 1 ∨ op = 3 then Fl.neg f c else c))

namespace State

/-- A load or store of an f register, of 4 or 8 bytes, by an instruction of `len` bytes. -/
def hartFLoad (s : State) (h len : Nat) (d : Bool) (va : Nat) (r : BitVec 5) : State :=
  s.hartLoad h va (if d then 8 else 4) fun s x => (s.modHart h fun k => k.setF d r x).hartNext h len

def hartFStore (s : State) (h len : Nat) (d : Bool) (va : Nat) (r : BitVec 5) : State :=
  s.hartStore h va (if d then 8 else 4) ((nth 0#64 (s.hart h).f r.toNat).toNat % 2 ^ (if d then 64 else 32)) fun s => s.hartNext h len

/-- What a floating-point instruction gives is written, its flags are raised, and it retires. -/
def hartFp (s : State) (h : Nat) (w : BitVec 32) : Option FpOut → State
  | none => s.hartIllegal h w 0
  | some (.f d r) => (s.modHart h fun k => (k.setF d (Rv.rdOf w) r.1).raiseF r.2).hartNext h 4
  | some (.x v fl) => (s.modHart h fun k => k.raiseF fl).hartDone h 4 (Rv.rdOf w) v

/-- The floating-point words: illegal while the unit is off. -/
def hartFloat (s : State) (h : Nat) (w : BitVec 32) : State :=
  let k := s.hart h
  let f3 := fld w 12 3
  let base := k.getX (Rv.rs1Of w)
  let opc := fld w 0 7
  if k.fpOff then s.hartIllegal h w 0
  else if opc = 0x07 then
    (if f3 = 2 ∨ f3 = 3 then s.hartFLoad h 4 (f3 = 3) (base + (Rv.immOf w).signExtend 64).toNat (Rv.rdOf w) else s.hartIllegal h w 0)
  else if opc = 0x27 then
    (if f3 = 2 ∨ f3 = 3 then s.hartFStore h 4 (f3 = 3) (base + (Rv.f7Of w ++ Rv.rdOf w).signExtend 64).toNat (Rv.rs2Of w)
     else s.hartIllegal h w 0)
  else if opc = 0x53 then s.hartFp h w (fpOp k w)
  else s.hartFp h w (fpFused k w ((opc - 0x43) / 4))

end State

/-! ## Compressed instructions (C) -/

/-- Bits of a compressed word gathered: a list of (lowest bit in the word, width, lowest bit in the immediate). -/
def cBits (w : Nat) (l : List (Nat × Nat × Nat)) : Nat := l.foldl (fun a e => a + bitsOf w e.1 e.2.1 * 2 ^ e.2.2) 0

namespace State

/-- A jump of a compressed instruction. -/
def shortJump (s : State) (h : Nat) (rd : BitVec 5) (target : Word) : State :=
  s.modHart h fun k => (k.setX rd (k.pc + 2#64)).retireTo target

/-- The instruction of 16 bits: what its expansion to a 32-bit instruction does, with a length of 2.  Reserved encodings are illegal; hints
only retire. -/
def hartShort (s : State) (h w : Nat) : State :=
  let k := s.hart h
  let bad := s.hartIllegal h (BitVec.ofNat 32 w) 0
  let nop := s.hartNext h 2
  let rd := BitVec.ofNat 5 (bitsOf w 7 5)
  let rs2 := BitVec.ofNat 5 (bitsOf w 2 5)
  let r7 := BitVec.ofNat 5 (8 + bitsOf w 7 3)
  let r2 := BitVec.ofNat 5 (8 + bitsOf w 2 3)
  let sp := k.getX 2#5
  let wr := fun (r : BitVec 5) (v : Word) => s.hartDone h 2 r v
  let ld := fun (op : LdOp) (r : BitVec 5) (a : Word) => s.hartLoad h a.toNat (Rv.ldSize op) fun s x => s.hartDone h 2 r (Rv.ldVal op x)
  let st := fun (n : Nat) (r : BitVec 5) (a : Word) => s.hartStore h a.toNat n ((k.getX r).toNat % 2 ^ (8 * n)) fun s => s.hartNext h 2
  let fl := fun (r : BitVec 5) (a : Word) => if k.fpOff then bad else s.hartFLoad h 2 true a.toNat r
  let fs := fun (r : BitVec 5) (a : Word) => if k.fpOff then bad else s.hartFStore h 2 true a.toNat r
  let plus := fun (a : Word) (n : Nat) => a + BitVec.ofNat 64 n
  let imm6 : BitVec 6 := BitVec.ofNat 6 (cBits w [(12, 1, 5), (2, 5, 0)])
  let imm := imm6.signExtend 64
  let sh := imm6.toNat
  let offW := cBits w [(10, 3, 3), (6, 1, 2), (5, 1, 6)]
  let offD := cBits w [(10, 3, 3), (5, 2, 6)]
  let offB := (BitVec.ofNat 9 (cBits w [(12, 1, 8), (10, 2, 3), (5, 2, 6), (3, 2, 1), (2, 1, 5)])).signExtend 64
  let offJ := (BitVec.ofNat 12 (cBits w
    [(12, 1, 11), (11, 1, 4), (9, 2, 8), (8, 1, 10), (7, 1, 6), (6, 1, 7), (3, 3, 1), (2, 1, 5)])).signExtend 64
  let a7 := k.getX r7
  match bitsOf w 0 2, bitsOf w 13 3 with
  | 0, 0 =>
    let n := cBits w [(11, 2, 4), (7, 4, 6), (6, 1, 2), (5, 1, 3)]
    if n = 0 then bad else wr r2 (plus sp n)
  | 0, 1 => fl r2 (plus a7 offD)
  | 0, 2 => ld .lw r2 (plus a7 offW)
  | 0, 3 => ld .ld r2 (plus a7 offD)
  | 0, 5 => fs r2 (plus a7 offD)
  | 0, 6 => st 4 r2 (plus a7 offW)
  | 0, 7 => st 8 r2 (plus a7 offD)
  | 1, 0 => wr rd (k.getX rd + imm)
  | 1, 1 => if rd = 0#5 then bad else wr rd (Rv.sext32 (k.getX rd + imm))
  | 1, 2 => wr rd imm
  | 1, 3 =>
    if rd = 2#5 then
      let n := (BitVec.ofNat 10 (cBits w [(12, 1, 9), (6, 1, 4), (5, 1, 6), (3, 2, 7), (2, 1, 5)])).signExtend 64
      if n = 0#64 then bad else wr 2#5 (sp + n)
    else if sh = 0 then bad
    else wr rd (imm <<< 12)
  | 1, 4 =>
    let b := k.getX r2
    match bitsOf w 10 2, bitsOf w 12 1, bitsOf w 5 2 with
    | 0, _, _ => wr r7 (a7 >>> sh)
    | 1, _, _ => wr r7 (a7.sshiftRight sh)
    | 2, _, _ => wr r7 (a7 &&& imm)
    | _, 0, 0 => wr r7 (a7 - b)
    | _, 0, 1 => wr r7 (a7 ^^^ b)
    | _, 0, 2 => wr r7 (a7 ||| b)
    | _, 0, _ => wr r7 (a7 &&& b)
    | _, _, 0 => wr r7 (Rv.sext32 (a7 - b))
    | _, _, 1 => wr r7 (Rv.sext32 (a7 + b))
    | _, _, _ => bad
  | 1, 5 => s.shortJump h 0#5 (k.pc + offJ)
  | 1, 6 => if a7 = 0#64 then s.shortJump h 0#5 (k.pc + offB) else nop
  | 1, 7 => if a7 = 0#64 then nop else s.shortJump h 0#5 (k.pc + offB)
  | 2, 0 => wr rd (k.getX rd <<< sh)
  | 2, 1 => fl rd (plus sp (cBits w [(12, 1, 5), (5, 2, 3), (2, 3, 6)]))
  | 2, 2 => if rd = 0#5 then bad else ld .lw rd (plus sp (cBits w [(12, 1, 5), (4, 3, 2), (2, 2, 6)]))
  | 2, 3 => if rd = 0#5 then bad else ld .ld rd (plus sp (cBits w [(12, 1, 5), (5, 2, 3), (2, 3, 6)]))
  | 2, 4 =>
    if bitsOf w 12 1 = 0 then
      (if rs2 ≠ 0#5 then wr rd (k.getX rs2) else if rd = 0#5 then bad else s.shortJump h 0#5 (k.getX rd &&& ~~~1#64))
    else if rs2 ≠ 0#5 then wr rd (k.getX rd + k.getX rs2)
    else if rd = 0#5 then s.hartTrap h Exc.breakpoint k.pc 0#64
    else s.shortJump h 1#5 (k.getX rd &&& ~~~1#64)
  | 2, 5 => fs rs2 (plus sp (cBits w [(10, 3, 3), (7, 3, 6)]))
  | 2, 6 => st 4 rs2 (plus sp (cBits w [(9, 4, 2), (7, 2, 6)]))
  | 2, 7 => st 8 rs2 (plus sp (cBits w [(10, 3, 3), (7, 3, 6)]))
  | _, _ => bad

/-! ## What a hart does with an encoding outside the table -/

/-- A standard encoding outside the table on a hart: compressed, atomic and floating-point instructions, FENCE.I, MRET and SFENCE.VMA act; every
other one is an illegal instruction. -/
def hartOther (s : State) (h : Nat) (w : BitVec 32) : State :=
  let k := s.hart h
  let opc := fld w 0 7
  if fld w 0 2 ≠ 3 then s.hartShort h (fld w 0 16)
  else if w = 0x30200073#32 then (if k.mode = 3 then s.modHart h Hart.mret else s.hartIllegal h w 0)
  else if opc = 0x73 ∧ fld w 25 7 = 0x09 ∧ fld w 12 3 = 0 ∧ fld w 7 5 = 0 then
    (if k.mode = 0 ∨ (k.mode = 1 ∧ k.mstatus.getLsbD 20) then s.hartIllegal h w 0 else s.hartNext h 4)
  else if opc = 0x0F ∧ fld w 12 3 = 1 then s.hartNext h 4
  else if opc = 0x2F then s.hartAtomic h w
  else if [0x07, 0x27, 0x43, 0x47, 0x4B, 0x4F, 0x53].contains opc then s.hartFloat h w
  else s.hartIllegal h w 0

end State

/-- UNASSIGNED_CT_ENCODING (R58, R71): on a control sequencer ILLOP with detail 0x0020, 0x0022 or 0x0023, before any effect; on a hart the encodings of
RV64GC that the table has no row for act (R411), and what is left is the illegal-instruction exception. -/
def execUnassignedCtEncoding (w : BitVec 32) (s : State) : Host.Outcome State Fault Refusal :=
  match s.agent with
  | .seq c .ct => .next (s.raiseCt c FCode.illop (unassignedDetail w).toNat 0#64)
  | .hart h => .next (if customOpc (Rv.opcOf w) then s.hartIllegal h w 0 else s.hartOther h w)
  | _ => .next s

end Sys2Proof.Machine
end

