-- ==== Sys2Proof/Machine/Kv.lean ====
section
/-!
DEFINITION. Key-value pages (13): KVAPP (R382 to R386), KVHAND (R389, R390) and KVTAKE (R391).
-/

namespace Sys2Proof.Machine

/-! ## KVAPP -/

/-- The issue of a KVAPP (R382, R383). -/
def kvappWord (f : DxWord) (c : Nat) (s : State) : Iss :=
  let k := s.core c
  let d := k.desc f.sd.toNat
  let v := f.vi.toNat
  if drBusy k [] then .stall .none s
  else if !k.awakeV v then .flt FCode.regcold 0 noElem
  else if !Desc.bound d then .flt FCode.missobj 1 noElem
  else if !fmtListed f.fmt.toNat then .flt FCode.fmtbad 1 noElem
  else if !s.walkReady (s.principal c) (Desc.handle d) then .stall .none s
  else
    match s.lookupEl (s.principal c) (Desc.handle d) (fun _ => [0, 0, 0, 0, 0]) with
    | .bad e => .flt e.code e.detail noElem
    | .ok l =>
      if l.tord ≠ 3 then .flt FCode.fmtbad 3 noElem
      else if l.fmt ≠ f.fmt.toNat then .flt FCode.fmtbad 6 noElem
      else
        if Desc.gone d || Desc.published d then .flt FCode.vergone 2 noElem
        else if !Desc.draft d then .flt FCode.vergone 4 noElem
        else
          match s.resolve (s.principal c) (Desc.handle d) l [0, 0, 0, 0, 0] Right.write (State.destSel d) with
          | .bad e => .fail (s.noteMiss (Desc.handle d) l [0, 0, 0, 0, 0] (State.destSel d) e) e.code e.detail noElem
          | .ok _ =>
            let n := l.e 2
            let els := (tab n fun i => i) ++ tab n fun i => 512 + i
            match els.find? fun i => !k.deadV v && k.poisV v i with
            | some i => .flt FCode.uncorr 0 (elemNo i)
            | none =>
              let x := (if k.deadV v then zeros else k.physV v).toArray
              .go (sendDr s c d (.token f.rm.toNat (els.map fun i => x.getD i 0)))

/-- KVAPP (R382). -/
def execKvapp (g : Guard) (f : DxWord) (s : State) : Host.Outcome State Fault Refusal :=
  issueWord g 1 (fun _ _ => DxUse.illop { sd := true, vi := true, rm := true, fmt := true } f (decide (5 < f.rm.toNat)))
    (fun c _ s => kvappWord f c s) s

/-- A channel of a BF16 page, and whether it was clamped (R384). -/
def kvBf16 (m : RMode) (x : Nat) : Nat × Bool :=
  let v := fpOf x
  let r := FFmt.bf16.round m v
  if v.isFin && r % 2 ^ 15 == 0x7F80 then (r - 1, true) else (r, false)

/-- The greatest finite value of an MX page's format (R385). -/
def kvMax (f : Nat) : Q := if f = 0x20 then ⟨448, 1⟩ else ⟨57344, 1⟩

/-- Does a finite value fit at a scale (R385)? -/
def kvFits (f s : Nat) (v : FVal) : Bool := Q.le (Q.mul (Q.abs v.toQ) (Q.pow2 (127 - (s : Int)))) (kvMax f)

/-- The code of a value at a scale. -/
def kvCode (f : Nat) (m : RMode) (s : Nat) (v : FVal) : Nat := roundElem f m (v.scale (127 - (s : Int)))

/-- The least scale above `s`, capped at 254, at which the value fits (R385). -/
def kvScale (f : Nat) (v : FVal) : Nat → Nat → Nat
  | 0, s => s
  | n + 1, s => if 254 ≤ s + 1 ∨ kvFits f (s + 1) v then s + 1 else kvScale f v n (s + 1)

/-- What KVAPP does to a key channel of an MX page: its code, the scale, the codes of the earlier tokens of the block when they are
re-rounded, and whether a value was clamped (R385). -/
structure KvChan where
  code : Nat
  s : Nat
  old : Option (List Nat)
  satf : Bool

/-- The value of a stored code, moved to another scale; NaN codes stay (R385). -/
def kvReround (f : Nat) (m : RMode) (s t code : Nat) : Nat :=
  let v := codeVal f code
  if v.isNan then code else roundElem f m (v.scale ((s : Int) - (t : Int)))

/-- A key channel of an MX page (R385): `s0` is the block's scale, `old` the codes of its earlier tokens. -/
def kvKey (f : Nat) (m : RMode) (policy : Bool) (s0 : Nat) (old : List Nat) (x : Nat) : KvChan :=
  let v := fpOf x
  let s :=
    if old.isEmpty then
      (if !v.isFin || v.isZero then 127 else (isat (Q.log2 v.toQ - mxEmax f) (-127) 127 + 127).toNat)
    else s0
  let top := FFmt.encodeFin ((eltFmt f).getD .mxE4m3) v.sign (kvMax f)
  if s = 255 then { code := 0, s := s, old := none, satf := false }
  else
    match v with
    | .nan => { code := if f = 0x20 then 0x7F else 0x7E, s := s, old := none, satf := false }
    | .inf n => { code := roundElem f m (.inf n), s := s, old := none, satf := f == 0x20 }
    | v =>
      if kvFits f s v then { code := kvCode f m s v, s := s, old := none, satf := false }
      else if !policy || s == 254 then { code := top, s := s, old := none, satf := true }
      else
        let t := kvScale f v 255 s
        let fits := kvFits f t v
        { code := if fits then kvCode f m t v else top, s := t
          old := if old.isEmpty then none else some (old.map (kvReround f m s t)), satf := !fits }

namespace State

/-- The elements and the scale bytes of a page that the append of token `t` may write (R384, R385). -/
def kvCells (l : Layout) (t : Nat) : List (List Nat × Bool) :=
  let mx := l.fmt != 0x11
  let rows := (List.range (l.e 2)).map fun c => [([0, t, c, 0, 0], false), ([1, t, c, 0, 0], false)]
  let scs := if mx then (List.range (l.e 2)).map fun c => [([0, t, c, 0, 0], true), ([1, t, c, 0, 0], true)] else []
  rows.flatten ++ scs.flatten

/-- The place of an element of a page, or of its scale byte. -/
def kvPlace (s : State) (pr : Principal) (h : Word) (l : Layout) (v : VSel) (e : List Nat × Bool) : Rs Place :=
  if e.2 then s.scalePlace (Handle.key h) l e.1 v else s.resolve pr h l e.1 Right.write v

/-- The stores of one KVAPP into a page whose tokens are `t`: places and values, whether a value was clamped, whether a block was
re-rounded; none when a byte that it consumes is poisoned: a scale of a block begun before, or an earlier code that is re-rounded. -/
def kvStores (s : State) (at_ : List Nat × Bool → Option Place) (l : Layout) (rm : Nat) (vals : List Nat) (t : Nat) (policy : Bool) :
    Option (List (Place × Nat) × Bool × Bool) :=
  let m := (RMode.ofNat rm 0).getD .rne
  let n := l.e 2
  let f := l.fmt
  let kx := vals.take n
  let vx := vals.drop n
  let put := fun (i : List Nat) (sc : Bool) (x : Nat) => ((at_ (i, sc)).map fun p => (p, x)).toList
  let idx := List.range n
  if f = 0x11 then
    let ks := (idx.zip kx).map fun e => ([0, t, e.1, 0, 0], kvBf16 m e.2)
    let vs := (idx.zip vx).map fun e => ([1, t, e.1, 0, 0], kvBf16 m e.2)
    some (((ks ++ vs).map fun e => put e.1 false e.2.1).flatten, (ks ++ vs).any fun e => e.2.2, false)
  else
    let first := t / 32 * 32
    let read := fun (c : Nat) => (tab (t - first) fun j => at_ ([0, first + j, c, 0, 0], false)).filterMap id
    let ks := (idx.zip kx).map fun e =>
      let s0 := ((at_ ([0, t, e.1, 0, 0], true)).map fun p => s.readPlace p).getD 0
      (e.1, kvKey f m policy s0 ((read e.1).map fun p => s.readPlace p) e.2)
    let bad := first < t && ks.any fun e =>
      ((at_ ([0, t, e.1, 0, 0], true)).map fun p => s.placePoisoned p).getD false ||
        (e.2.old.isSome && (read e.1).any fun p => s.placePoisoned p)
    if bad then none
    else
      let kw := (ks.map fun e =>
        put [0, t, e.1, 0, 0] false e.2.code ++ put [0, t, e.1, 0, 0] true e.2.s ++
          (match e.2.old with
           | some o => List.zip (read e.1) o
           | none => [])).flatten
      let vw := ((List.range (n / 32)).map fun b =>
        let xs := (vx.drop (32 * b)).take 32
        let r := mxBlock f (xs.map fun x => let y := fpOf x; if y.isFin then some y else none) (List.replicate 32 m)
        ((r.2.zip (List.range 32)).map fun e => put [1, t, 32 * b + e.2, 0, 0] false e.1).flatten ++
          put [1, t, 32 * b, 0, 0] true r.1).flatten
      some (kw ++ vw, ks.any fun e => e.2.satf, ks.any fun e => e.2.old.isSome)

/-- The apply step of a KVAPP (R383 to R386); it waits while a page that it writes is locked (R428) or a frame is wanting (R157). -/
def kvApply (s : State) (c : Nat) (x : DrStore) (rm : Nat) (vals : List Nat) : State :=
  let pr := s.principal c
  let h := Desc.handle x.desc
  let v := destSel x.desc
  let zero := [0, 0, 0, 0, 0]
  if !s.walkReady pr h then s
  else
    match s.lookupEl pr h (fun _ => zero) with
    | .bad f => s.failStore c x f noElem
    | .ok l =>
      match s.resolve pr h l zero Right.write v with
      | .bad f => (s.noteMiss h l zero v f).failStore c x f noElem
      | .ok p0 =>
        let pco := if l.fmt = 0x11 then 256 * l.e 2 else 132 * l.e 2
        let pk := p0.key / 65536 * 65536 + pco
        let pcw := s.num pk 8
        let t := pcw % 128
        if s.poisoned pk 8 then s.failStore c x ⟨FCode.uncorr, 0⟩ noElem
        else if bitsOf pcw 9 23 ≠ 0 ∨ 64 < t then s.failStore c x ⟨FCode.fmtbad, 0xB⟩ noElem
        else if t = 64 then s.failStore c x ⟨FCode.bounds, 1⟩ noElem
        else
          let cells := kvCells l t
          match cells.findSome? fun e => match s.kvPlace pr h l v e with
              | .bad f => some (e.1, f)
              | .ok _ => none with
          | some (i, f) => (s.noteMiss h l i v f).failStore c x f noElem
          | none =>
            let at0 := fun e => match s.kvPlace pr h l v e with
              | .ok p => some p
              | .bad _ => none
            match s.kvStores at0 l rm vals t (bitOf pcw 8) with
            | none => s.failStore c x ⟨FCode.uncorr, 0⟩ noElem
            | some (ws, _, _) =>
              let places := p0 :: ws.map (·.1)
              if places.any fun p => s.pageLocked p.key then s
              else
                match s.ownPages ((places.map (·.page)).eraseDups.map fun p => (Handle.key h, p)) with
                | none => s.waitPool c (s.poolOf l 0)
                | some s =>
                  let at_ := fun e => match s.kvPlace pr h l v e with
                    | .ok p => some p
                    | .bad _ => none
                  match s.resolve pr h l zero Right.write v, s.kvStores at_ l rm vals t (bitOf pcw 8) with
                  | .ok p0, some (ws, satf, swap) =>
                    let pk := p0.key / 65536 * 65536 + pco
                    let s1 := ws.foldl (fun s w => s.storePlace w.1 w.2) s
                    let swaps := (pcw / 2 ^ 32 + b2n swap) % 2 ^ 32
                    let pcw1 := swaps * 2 ^ 32 + b2n (bitOf pcw 8) * 256 + b2n (bitOf pcw 7 || satf) * 128 + (t + 1)
                    ((s1.writeNum pk 8 pcw1).noteRemote [pk]).landStore c x
                  | _, _ => s.failStore c x ⟨FCode.uncorr, 0⟩ noElem

end State

/-- KVAPP_APPLY (R383, R386). -/
def execKvappApply (s : State) : Host.Outcome State Fault Refusal :=
  let c := s.unit
  match (s.core c).stores with
  | x :: _ =>
    (match x.work with
     | .token rm vals => .next (s.kvApply c x rm vals)
     | _ => .next s)
  | [] => .next s

/-! ## Hand-over lists (R387) -/

namespace State

/-- Reads `n` doublewords from a view address on, one load after the other; the first that faults raises its fault (R172, R387). -/
def viewWords (s : State) (c a n : Nat) (cont : List Word → State) : State :=
  let rs := tab n fun i => (a + 8 * i, s.viewLoad c (a + 8 * i) 8)
  if (List.range n).any fun i => s.viewHeld c (a + 8 * i) 8 1 then s
  else
  match rs.findSome? fun e => match e.2 with
      | .bad f => some (e.1, f)
      | .ok _ => none with
  | some (x, f) => s.raiseAccess c x f
  | none => cont (rs.map fun e => match e.2 with
      | .ok bs => BitVec.ofNat 64 (leNat bs)
      | .bad _ => 0#64)

/-- Reads a hand-over list (R387); an object named twice, the flag among them, is ILLOP. -/
def handList (s : State) (c : Nat) (a : Word) (cont : HandList → State) : State :=
  if a.toNat % 64 ≠ 0 then s.raiseCt c FCode.align 0 a
  else
    s.viewWords c a.toNat 2 fun ws =>
      let w1 := nth 0#64 ws 1
      let n := fld w1 32 16
      if n = 0 ∨ 64 < n ∨ fld w1 48 16 ≠ 0 ∨ fld w1 16 16 ≠ 0 then s.ctIllop c 0x26
      else
        s.viewWords c (a.toNat + 16) n fun ps =>
          if ((nth 0#64 ws 0 :: ps).map Handle.key).eraseDups.length ≠ n + 1 then s.ctIllop c 0x26
          else cont { flag := nth 0#64 ws 0, team := fld w1 0 16, pages := ps }

/-- A KVHAND or KVTAKE waits, from now on or from where it began to wait, with the list that it has read (R389, R391). -/
def waitList (s : State) (c : Nat) (kind : WaitKind) (a b d : BitVec 5) (l : HandList) : State :=
  let since := ((s.waiting c kind).map (·.since)).getD s.pcc
  s.modCt c fun t => { t with wait := some { kind := kind, a := a, b := b, d := d, since := since, list := some l } }

/-- Does RL0 of an entry name a team (R389, R391)? -/
def ownedByTeam (s : State) (key tm : Nat) : Bool :=
  let r := fld (s.ew key 14) 0 32
  bitOf r 31 && bitsOf r 24 3 == 3 && bitsOf r 0 24 == tm

/-- The checks of the pages of a KVHAND, made at issue (R389). -/
def handChecks (s : State) (c : Nat) : List Word → (State → State) → State
  | [], cont => cont s
  | h :: t, cont =>
    let pr := s.principal c
    if s.entryLocked h then s
    else
      match s.lookup pr h with
      | .bad f => s.raiseCt c f.code f.detail 0#64
      | .ok l =>
        if l.flg then s.raiseCt c FCode.rights 0x20 0#64
        else if l.tord ≠ 3 then s.raiseCt c FCode.fmtbad 3 0#64
        else
          match s.checkRights pr h l (Right.hand + Right.publish) false with
          | some f => s.raiseCt c f.code f.detail 0#64
          | none => handChecks s c t cont

/-- REFUSED or LINKDEAD with FIRST (R388). -/
def handStatus (bit first : Nat) : Word := BitVec.ofNat 64 (first * 2 ^ 16 + bit)

/-- The first page that keeps KVHAND from taking effect, with its bit (R389). -/
def handFails (s : State) (pr : Principal) (ps : List (Nat × Word)) : Option Word :=
  ps.findSome? fun e =>
    let key := Handle.key e.2
    if !s.liveRoute (Handle.home e.2) then some (handStatus 2 e.1)
    else if !s.holds pr key || !s.ownedByTeam key pr.team then some (handStatus 4 e.1)
    else none

/-- One page handed over: published, and RL0 names the new team; no handle cache keeps the entry (R389, R390). -/
def handPage (s : State) (tm : Nat) (h : Word) : State :=
  let key := Handle.key h
  let s1 := s.publishDraft key
  let s2 := s1.setEw key 14 0 24 tm
  { s2 with hcache := s2.hcache.filter fun e => e.1 / 128 != key }

/-- The event of a KVHAND whose checks have passed (R389, R390); `wait` says what it does while a covered store is on its way, a page's
publish point waits (R429) or an entry is locked (R420). -/
def handEvent (s : State) (c : Nat) (l : HandList) (v : Word) (d : BitVec 5) (wait : State → State) : State :=
  let pr := s.principal c
  let ps := (List.range l.pages.length).zip l.pages
  let lay := fun (h : Word) => layoutOf (Handle.home h) (s.entry (Handle.key h))
  if (l.flag :: l.pages).any (fun h => s.entryLocked h) || l.pages.any (fun h => s.draftOut (Handle.key h) (lay h)) then wait s
  else if !s.liveRoute (Handle.home l.flag) then s.raiseCt c FCode.linkdead 0 0#64
  else if (s.team l.team).isNone then s.ctDone c d (handStatus 4 0xFF)
  else
    match s.handFails pr ps with
    | some w => s.ctDone c d w
    | none =>
      let lost := ps.map fun e => (e.1, s.draftLost (Handle.key e.2) (lay e.2))
      match lost.find? fun e => !e.2.isEmpty with
      | some (i, _) =>
        let n := lost.foldl (fun n e => n + e.2.length) 0
        let dead := lost.any fun e => e.2.any fun x => x.2 == 1
        s.ctDone c d (handStatus (min n 255 * 256 + (if dead then 2 else 0)) i)
      | none =>
        if l.pages.any fun h => (s.ew (Handle.key h) 0).getLsbD 49 then wait s
        else
          let s1 := l.pages.foldl (fun s h => s.handPage l.team h) s
          let full := l.pages.any fun h => s1.liven (Handle.key h) == 4
          ((s1.setFlag (Handle.key l.flag) v).expose c).ctDone c d
            (BitVec.ofNat 64 (l.pages.length * 2 ^ 32 + 1 + (if full then 8 else 0)))

/-- KVHAND with its operands (R389): the checks made at issue, and the event when it need not wait. -/
def kvhand (s : State) (c : Nat) (a v : Word) (d : BitVec 5) (wait : HandList → State → State) : State :=
  if (s.principal c).team = 0 then s.raiseCt c FCode.teambad 6 0#64
  else
    s.handList c a fun l =>
      s.objStep c l.flag Right.publish true true true id fun _ =>
        s.handChecks c l.pages fun s => s.handEvent c l v d (wait l)

/-- What KVTAKE finds of its pages in list order: a fault, a status word, or that all are to be pinned (R391). Without a live route the
entry is read only where a handle cache holds it; a handle whose entry cannot be read has the status LINKDEAD, if its form is good. -/
def takeFails (s : State) (pr : Principal) : List (Nat × Word) → Option (Flt ⊕ Word)
  | [] => none
  | e :: t =>
    let key := Handle.key e.2
    match s.lookup pr e.2 with
    | .bad f => some (if f.code = FCode.linkdead then .inr (handStatus 2 e.1) else .inl f)
    | .ok l =>
      if !s.liveRoute (Handle.home e.2) then some (.inr (handStatus 2 e.1))
      else if !s.ownedByTeam key pr.team || s.pinOf key 3 == 2 ^ 32 - 1 then some (.inr (handStatus 4 e.1))
      else
        match s.checkRights pr e.2 l Right.read false with
        | some f => some (.inl f)
        | none => takeFails s pr t

/-- One pin on CURV of a page, held by the task. -/
def takePage (s : State) (c : Nat) (h : Word) : State :=
  let key := Handle.key h
  let v := s.curv key
  ((s.pin key v).getD s).countPin c key v true

/-- A KVTAKE whose checks at issue have passed: it completes when the flag has reached the value (R391); `wait` says what it does while it
has not, or an entry is locked (R420). -/
def takeEvent (s : State) (c : Nat) (l : HandList) (v : Word) (d : BitVec 5) (wait : State → State) : State :=
  let pr := s.principal c
  if s.entryLocked l.flag then wait s
  else if !s.liveRoute (Handle.home l.flag) then s.raiseCt c FCode.linkdead 0 0#64
  else if (s.flag (Handle.key l.flag)).toNat < v.toNat || l.pages.any (fun h => s.entryLocked h) then wait s
  else
    match s.takeFails pr ((List.range l.pages.length).zip l.pages) with
    | some (.inl f) => s.raiseCt c f.code f.detail 0#64
    | some (.inr w) => s.ctDone c d w
    | none =>
      (l.pages.foldl (fun s h => s.takePage c h) s).ctDone c d (BitVec.ofNat 64 (l.pages.length * 2 ^ 32 + 1))

/-- KVTAKE with its operands (R391); `hold` says what it does while the flag's entry is locked (R420), `wait` what it does while the event is
awaited. -/
def kvtake (s : State) (c : Nat) (a v : Word) (d : BitVec 5) (hold : State → State) (wait : HandList → State → State) : State :=
  let pr := s.principal c
  if pr.team = 0 then s.raiseCt c FCode.teambad 6 0#64
  else
    s.handList c a fun l =>
      s.objStep c l.flag Right.read true false true hold fun _ =>
        if l.team ≠ pr.team then s.ctDone c d (handStatus 4 0xFF)
        else s.takeEvent c l v d (wait l)

end State

/-- KVHAND (R388, R389). -/
def execKvhand (b a d : BitVec 5) (s : State) : Host.Outcome State Fault Refusal :=
  ctOnly (.kvhand b a d) (fun c s => s.kvhand c (s.rx a) (s.rx b) d fun l s => s.waitList c .kvhand a b d l) s

/-- KVHAND_EVENT (R389, R390). -/
def execKvhandEvent (s : State) : Host.Outcome State Fault Refusal :=
  let c := s.unit
  match s.waiting c .kvhand with
  | none => .next s
  | some w =>
    match w.list with
    | none => .next s
    | some l => .next (s.handEvent c l ((s.core c).getX w.b) w.d id)

/-- KVTAKE (R388, R391). -/
def execKvtake (b a d : BitVec 5) (s : State) : Host.Outcome State Fault Refusal :=
  ctOnly (.kvtake b a d) (fun c s =>
    s.kvtake c (s.rx a) (s.rx b) d (fun s => s.waitAt c .kvtake a b d) fun l s => s.waitList c .kvtake a b d l) s

/-- KVTAKE_COMPLETE (R391): a KVTAKE that has not read its list, for the lock of the flag's entry, reads it now. -/
def execKvtakeComplete (s : State) : Host.Outcome State Fault Refusal :=
  let c := s.unit
  match s.waiting c .kvtake with
  | none => .next s
  | some w =>
    match w.list with
    | none =>
      .next (s.kvtake c ((s.core c).getX w.a) ((s.core c).getX w.b) w.d id fun l s => s.waitList c .kvtake w.a w.b w.d l)
    | some l => .next (s.takeEvent c l ((s.core c).getX w.b) w.d id)

end Sys2Proof.Machine
end

