-- ==== Sys2Proof/Machine/Moment.lean ====
section
/-!
DEFINITION. The moment unit (11): the words of R315 to R326.
-/

namespace Sys2Proof.Machine

/-- What one element of a moment word works on, as FP32 codes after R313: the operands a, b and c, the scalar, ρ, and whether ρ
takes part (COV is not INDEP). -/
structure MoArgs where
  ma : Nat := 0
  va : Nat := 0
  mb : Nat := 0
  vb : Nat := 0
  mc : Nat := 0
  vc : Nat := 0
  s : Nat := 0
  rho : FVal := .fin false Q.zero
  cov : Bool := false

namespace Mo

def isNanC (x : Nat) : Bool := (fpOf x).isNan

/-- A negative variance: any negative value other than -0 (R313). -/
def negC (x : Nat) : Bool :=
  let v := fpOf x
  !v.isNan && v.sign && !v.isZero

/-- The square root of an extended real, where only its being zero, finite or infinite matters. -/
def rootish : FVal → FVal
  | .fin _ a => .fin false (if a.isZero then Q.zero else Q.one)
  | v => v

/-- One half of a result: the sum of terms plus `co` times the square root of `rad`, rounded once (R312).  Where some operand is
infinite the half is evaluated over the extended reals. -/
def half (terms : List FVal) (surd : Option (FVal × FVal)) : Nat :=
  let sum := terms.foldl FVal.add (.fin false Q.zero)
  let plain := fun (v : FVal) =>
    match v with
    | .fin n a => FFmt.fp32.round .rne (FVal.ofQ (FVal.toQ (.fin n a)))
    | v => FFmt.fp32.round .rne v
  match surd with
  | none => plain sum
  | some (co, rad) =>
    match sum, co, rad with
    | .fin n a, .fin m b, .fin _ r =>
      let c := FVal.toQ (.fin m b)
      ({ a := FVal.toQ (.fin n a), neg := c.isNeg, e := Q.mul (Q.mul c c) r } : Surd).rne
    | _, _, _ => plain (sum.add (co.mul (rootish rad)))

def two : FVal := .fin false ⟨2, 1⟩
def four : FVal := .fin false ⟨4, 1⟩
def one : FVal := .fin false Q.one

/-- The surd term of R317 with coefficient `co` and radicand x·y; none when COV is INDEP. -/
def rhoTerm (x : MoArgs) (co a b : FVal) : Option (FVal × FVal) := if x.cov then some (co, a.mul b) else none

def add (x : MoArgs) (neg : Bool) : Nat × Nat :=
  let mb := if neg then (fpOf x.mb).negate else fpOf x.mb
  let co := two.mul (if neg then x.rho.negate else x.rho)
  (half [fpOf x.ma, mb] none, half [fpOf x.va, fpOf x.vb] (rhoTerm x co (fpOf x.va) (fpOf x.vb)))

def mul (x : MoArgs) : Nat × Nat :=
  let ma := fpOf x.ma
  let mb := fpOf x.mb
  let va := fpOf x.va
  let vb := fpOf x.vb
  let rr := if x.cov then one.add (x.rho.mul x.rho) else one
  (half [ma.mul mb] (rhoTerm x x.rho va vb),
   half [(ma.mul ma).mul vb, (mb.mul mb).mul va, (rr.mul va).mul vb]
     (rhoTerm x (((two.mul x.rho).mul ma).mul mb) va vb))

def scl (x : MoArgs) : Nat × Nat :=
  let s := fpOf x.s
  (half [s.mul (fpOf x.ma)] none, half [(s.mul s).mul (fpOf x.va)] none)

def axpy (x : MoArgs) : Nat × Nat :=
  let s := fpOf x.s
  (half [s.mul (fpOf x.ma), fpOf x.mc] none,
   half [(s.mul s).mul (fpOf x.va), fpOf x.vc] (rhoTerm x ((two.mul x.rho).mul s) (fpOf x.va) (fpOf x.vc)))

def sq (x : MoArgs) : Nat × Nat :=
  let m := fpOf x.ma
  let v := fpOf x.va
  (half [m.mul m, v] none, half [(two.mul v).mul v, ((four.mul m).mul m).mul v] none)

/-- √ of a code, rounded (R312). -/
def sqrtC (x : Nat) : Nat := half [] (some (one, fpOf x))

def nan2 : Nat × Nat := (nan32.toNat, nan32.toNat)
def infC (neg : Bool) : Nat := FFmt.fp32.infCode neg

def roundQ (x : Q) : Nat := FFmt.fp32.round .rne (FVal.ofQ x)

/-- MORELU and MOLRELU (R319, R320): λ is `s`. -/
def relu (x : MoArgs) : Nat × Nat :=
  match fpOf x.s, fpOf x.ma, fpOf x.va with
  | .fin ns l, .fin nm m, .fin _ v =>
    let lam := FVal.toQ (.fin ns l)
    let mu := FVal.toQ (.fin nm m)
    if v.isZero then (if Q.lt Q.zero mu then x.ma else roundQ (Q.mul lam mu), 0)
    else
      let sC := sqrtC x.va
      let sg := FVal.toQ (fpOf sC)
      let (pc, qc) := cdfPdf (roundQ (Q.div mu sg))
      let p := FVal.toQ (fpOf pc)
      let q := FVal.toQ (fpOf qc)
      let r := Q.add (Q.mul mu p) (Q.mul sg q)
      let e := Q.add (Q.mul (Q.add (Q.mul mu mu) v) p) (Q.mul (Q.mul mu sg) q)
      let om := Q.sub Q.one lam
      (roundQ (Q.add (Q.mul om r) (Q.mul lam mu)),
       roundQ (Q.add (Q.add (Q.mul (Q.mul om om) (Q.sub e (Q.mul r r))) (Q.mul (Q.mul lam lam) v))
         (Q.mul (Q.mul (Q.mul ⟨2, 1⟩ lam) om) (Q.sub e (Q.mul r mu)))))
  | .fin ns l, .inf nm, .fin _ _ =>
    if !nm then (infC false, nan32.toNat)
    else if l.isZero then (0, 0)
    else (infC (!ns), nan32.toNat)
  | .fin _ _, .fin _ _, .inf _ => (infC false, infC false)
  | _, _, _ => nan2

/-- log2 e and π/8 as FP32 (R321, R322). -/
def logE : FVal := fpOf 0x3FB8AA3B
def c8 : FVal := fpOf 0x3EC90FDB

/-- MOEXP (R321). -/
def exp (x : MoArgs) : Nat × Nat :=
  let v := fpOf x.va
  let t := half [fpOf x.ma, v.mul (.fin false ⟨1, 2⟩)] none
  let mean := vexp2 (half [(fpOf t).mul logE] none)
  let small := match v with
    | .fin n a => Q.lt (FVal.toQ (.fin n a)) (Q.pow2 (-7))
    | _ => false
  let g :=
    if small then half [v, (v.mul v).mul (.fin false ⟨1, 2⟩), ((v.mul v).mul v).mul (.fin false ⟨1, 6⟩)] none
    else half [fpOf (vexp2 (half [v.mul logE] none)), one.negate] none
  if fpOf x.ma = .inf true ∧ v.isFin then (0, 0) else (mean, half [((fpOf g).mul (fpOf mean)).mul (fpOf mean)] none)

/-- The reciprocal over the extended reals. -/
def inv : FVal → FVal
  | .nan => .nan
  | .inf _ => .fin false Q.zero
  | .fin n a => if a.isZero then .inf n else .fin n (Q.div Q.one a)

/-- MOSIGM (R322). -/
def sigm (x : MoArgs) : Nat × Nat :=
  let u := half [one, c8.mul (fpOf x.va)] none
  let k := half [] (some (one, inv (fpOf u)))
  let z := half [(fpOf k).mul (fpOf x.ma)] none
  let e := vexp2 (half [((fpOf z).negate).mul logE] none)
  let mean := FFmt.fp32.round .rne (inv (one.add (fpOf e)))
  let om := fun (c : Nat) => one.add (fpOf c).negate
  (mean, half [((fpOf mean).mul (om mean)).mul (om k)] none)

end Mo

/-! ## The generic moment word -/

/-- How a moment word uses its operands: which moment operands' variances it consumes, whether B is a scalar, and whether ρ is
read. -/
structure MoUse where
  a : Bool := true
  b : Bool := false
  c : Bool := false
  s : Bool := false
  rho : Bool := false
  /-- Only element 0 of B is read (R324). -/
  seed : Bool := false

/-- What one element answers: a fault, or both halves and whether NVS is set. -/
inductive MoRes where
  | flt (code detail : Nat)
  | val (m v : Nat) (nvs : Bool)

/-- One element: the variances consumed (R313), NaN operands (R312), the function, the variance produced. -/
def moElem (u : MoUse) (nvc : Bool) (fn : MoArgs → Nat × Nat) (x : MoArgs) : MoRes :=
  let negs := (u.a && Mo.negC x.va) || (u.b && Mo.negC x.vb) || (u.c && Mo.negC x.vc)
  if negs && !nvc then .flt FCode.negvar 1
  else
    let cl := fun (v : Nat) => if Mo.negC v then 0 else v
    let x := { x with va := if u.a then cl x.va else x.va, vb := if u.b then cl x.vb else x.vb,
                      vc := if u.c then cl x.vc else x.vc }
    let nan := (u.a && (Mo.isNanC x.ma || Mo.isNanC x.va)) || (u.b && (Mo.isNanC x.mb || Mo.isNanC x.vb)) ||
      (u.c && (Mo.isNanC x.mc || Mo.isNanC x.vc)) || (u.s && Mo.isNanC x.s)
    let (m, v) := if nan then Mo.nan2 else fn x
    if Mo.negC v then (if nvc then .val m 0 true else .flt FCode.negvar 2) else .val m v negs

/-- Pairs of codes of a moment register. -/
def codesM (k : Core) (r : Nat) : List (Nat × Nat) := (k.physM r).map fun e => (e.1.toNat, e.2.toNat)

/-- ρ of every element under MCTL.COV (R314). -/
def rhoList (k : Core) : List FVal :=
  match fld k.mctl 0 2 with
  | 0 => List.replicate 1024 (.fin false Q.zero)
  | 1 => List.replicate 1024 (.fin false Q.one)
  | 2 => List.replicate 1024 (.fin true Q.one)
  | _ =>
    (k.readV (fld k.mctl 4 5)).map fun x =>
      match fpOf x with
      | .nan => .nan
      | .inf n => .fin n Q.one
      | .fin n a => .fin n (if Q.lt Q.one a then Q.one else a)

/-- Does the word read the register RHOV? -/
def usesRhov (k : Core) (u : MoUse) : Bool := u.rho && fld k.mctl 0 2 == 3

/-- Poison of a moment word's sources at element i. -/
def moPois (k : Core) (F : VForm) (f : VrWord) (u : MoUse) (i : Nat) : Bool :=
  let src := fun (r : Role) (n : Nat) =>
    match r with
    | .m => k.poisM n i
    | .v => k.poisNamed n i
    | _ => false
  !(k.vPois.isEmpty && k.mPois.isEmpty) &&
    (src F.a f.a.toNat || (!f.bi && (if u.seed then k.poisNamed f.b.toNat 0 else src F.b f.b.toNat)) || src F.c f.c.toNat ||
      (usesRhov k u && k.poisNamed (fld k.mctl 4 5) i))

/-- The arguments of every element. -/
def moArgs (k : Core) (F : VForm) (f : VrWord) (u : MoUse) : List MoArgs :=
  let a := if F.a = .m then codesM k f.a.toNat else (k.readV f.a.toNat).map fun x => (x, 0)
  let b := if F.b = .m then codesM k f.b.toNat else (k.operandB F f).map fun x => (0, x)
  let c := if F.c = .m then codesM k f.c.toNat else zeros.map fun x => (x, x)
  let cov := fld k.mctl 0 2 != 0
  let rho := if u.rho then rhoList k else List.replicate 1024 (.fin false Q.zero)
  List.zipWith (fun (p : (Nat × Nat) × (Nat × Nat)) (q : (Nat × Nat) × FVal) =>
    { ma := p.1.1, va := p.1.2, mb := p.2.1, vb := p.2.2, mc := q.1.1, vc := q.1.2, s := p.2.2, rho := q.2, cov := cov })
    (a.zip b) (c.zip rho)

/-- The results of all elements in turn: the first fault with its element, or the values and NVS. -/
def moAll (k : Core) (F : VForm) (f : VrWord) (u : MoUse) (fn : Nat → MoArgs → Nat × Nat) :
    Nat → List Bool → List MoArgs → List (Option (Elem32 × Elem32)) → Bool →
    (Nat × Nat × Nat) ⊕ (List (Option (Elem32 × Elem32)) × Bool)
  | i, t :: ts, x :: xs, acc, nvs =>
    if !t then moAll k F f u fn (i + 1) ts xs ((if f.zm then some (0#32, 0#32) else none) :: acc) nvs
    else
      match moElem u (k.mctl.getLsbD 2) (fn i) x with
      | .flt c d => .inl (c, d, i)
      | .val m v n =>
        if moPois k F f u i then .inl (FCode.uncorr, 0, i)
        else moAll k F f u fn (i + 1) ts xs (some (BitVec.ofNat 32 m, BitVec.ofNat 32 v) :: acc) (nvs || n)
  | _, _, _, acc, nvs => .inr (acc.reverse, nvs)

/-- Is the seed that an active element consumes poisoned while element 0 itself is not active?  It is element 0 of its register (R251, R324),
so it is then the lowest of the element faults. -/
def seedPoisoned (k : Core) (f : VrWord) (u : MoUse) (act : List Bool) : Bool :=
  u.seed && !f.bi && k.poisNamed f.b.toNat 0 && act.any id && !nth false act 0

/-- A moment word of form `F`; `vec` says that its destination is a vector register, which takes the first half. -/
def moWord (F : VForm) (u : MoUse) (occ lat : Nat) (fn : Core → Nat → MoArgs → Nat × Nat) (g : Guard) (f : VrWord) (s : State) :
    Host.Outcome State Fault Refusal :=
  issueWord g 1 (fun _ _ => F.illop f)
    (fun c e s =>
      let k := s.core c
      let vec := F.d == .v
      let names : List MaDst := if vec then k.outV f.d.toNat [] else [.m f.d.toNat []]
      if unitHeld s k unitMom then .stall .none s
      else if k.cold F f || (usesRhov k u && !k.awakeV (k.rotV (fld k.mctl 4 5))) then .flt FCode.regcold 0 noElem
      else if wportHit k (s.pcc + lat) names then .flt FCode.wport 0 noElem
      else
        let act := k.activeList f.me f.pm.toNat true
        if seedPoisoned k f u act then .flt FCode.uncorr 0 (elemNo 0)
        else
        match moAll k F f u (fn k) 0 act (moArgs k F f u) [] false with
        | .inl (code, detail, i) => .flt code detail (elemNo i)
        | .inr (r, nvs) =>
          let dsts : List MaDst :=
            if vec then k.outV f.d.toNat (r.map fun o => o.map fun x => x.1.toNat) else [.m f.d.toNat r]
          let s1 := if nvs then s.modCore c fun k => { k with mctl := k.mctl ||| 0x200#32 } else s
          .go (maLaunch s1 c e unitMom occ lat dsts)) s

/-! ## Forms (R315) -/

def formM1 : VForm := { d := .m, a := .m, subUsed := true }
def formM2 : VForm := { d := .m, a := .m, b := .m, subUsed := true }
def formMS : VForm := { d := .m, a := .m, b := .v, bi := true, subUsed := true, strict := true }

/-- MOSET (R325): the mean from A, the variance from B or its square. -/
def execMoset (g : Guard) (f : VrWord) (s : State) : Host.Outcome State Fault Refusal :=
  moWord { d := .m, a := .v, b := .v, bi := true, subUsed := true, subMax := 1, strict := true } { a := false } 4 4
    (fun _ _ x =>
      if Mo.isNanC x.ma || Mo.isNanC x.s then Mo.nan2
      else (x.ma, if f.sub = 1#4 then Mo.half [(fpOf x.s).mul (fpOf x.s)] none else x.s)) g f s

/-- MOADD (R317). -/
def execMoadd (g : Guard) (f : VrWord) (s : State) : Host.Outcome State Fault Refusal :=
  moWord formM2 { b := true, rho := true } 8 12 (fun _ _ x => Mo.add x false) g f s

/-- MOSUB. -/
def execMosub (g : Guard) (f : VrWord) (s : State) : Host.Outcome State Fault Refusal :=
  moWord formM2 { b := true, rho := true } 8 12 (fun _ _ x => Mo.add x true) g f s

/-- MOMUL. -/
def execMomul (g : Guard) (f : VrWord) (s : State) : Host.Outcome State Fault Refusal :=
  moWord formM2 { b := true, rho := true } 8 16 (fun _ _ x => Mo.mul x) g f s

/-- MOSCL. -/
def execMoscl (g : Guard) (f : VrWord) (s : State) : Host.Outcome State Fault Refusal :=
  moWord formMS { s := true } 8 12 (fun _ _ x => Mo.scl x) g f s

/-- MOAXPY. -/
def execMoaxpy (g : Guard) (f : VrWord) (s : State) : Host.Outcome State Fault Refusal :=
  moWord { formMS with c := .m } { c := true, s := true, rho := true } 8 12 (fun _ _ x => Mo.axpy x) g f s

/-- MOSQ. -/
def execMosq (g : Guard) (f : VrWord) (s : State) : Host.Outcome State Fault Refusal :=
  moWord formM1 {} 8 16 (fun _ _ x => Mo.sq x) g f s

/-- MORELU (R319): λ is +0. -/
def execMorelu (g : Guard) (f : VrWord) (s : State) : Host.Outcome State Fault Refusal :=
  moWord formM1 {} 16 40 (fun _ _ x => Mo.relu { x with s := 0 }) g f s

/-- MOLRELU. -/
def execMolrelu (g : Guard) (f : VrWord) (s : State) : Host.Outcome State Fault Refusal :=
  moWord formMS { s := true } 16 40 (fun _ _ x => Mo.relu x) g f s

/-- MOEXP. -/
def execMoexp (g : Guard) (f : VrWord) (s : State) : Host.Outcome State Fault Refusal :=
  moWord formM1 {} 16 36 (fun _ _ x => Mo.exp x) g f s

/-- MOSIGM. -/
def execMosigm (g : Guard) (f : VrWord) (s : State) : Host.Outcome State Fault Refusal :=
  moWord formM1 {} 16 44 (fun _ _ x => Mo.sigm x) g f s

/-- MOCOLL (R323, R324). -/
def execMocoll (g : Guard) (f : VrWord) (s : State) : Host.Outcome State Fault Refusal :=
  let q := f.sub = 2#4
  let dr := f.sub = 3#4
  moWord { d := .v, a := .m, b := if q || dr then .v else .none, bi := q || dr, subUsed := true, subMax := 3, strict := true }
    { a := f.sub != 0#4, s := q, seed := dr } (if dr then 16 else 8) (if dr then 40 else 12)
    (fun k =>
      let eps : Array Nat :=
        if dr then
          let seed := if f.bi then f.imm.toNat else nth 0 (k.readV f.b.toNat) 0
          ((chunks 2 1024 (draws 2048 (seedOf seed))).map fun p => gaussEps (nth 0 p 0) (nth 0 p 1)).toArray
        else #[]
      fun i x =>
        if f.sub = 0#4 then (if Mo.isNanC x.ma then nan32.toNat else x.ma, 0)
        else if f.sub = 1#4 then (Mo.sqrtC x.va, 0)
        else if q then (Mo.half [fpOf x.ma] (some (fpOf x.s, fpOf x.va)), 0)
        else (Mo.half [fpOf x.ma] (some (fpOf (eps.getD i 0), fpOf x.va)), 0)) g f s

/-- MOZV (R325): the variance is not read, or both halves are copied. -/
def execMozv (g : Guard) (f : VrWord) (s : State) : Host.Outcome State Fault Refusal :=
  let F : VForm := { d := .m, a := .m, subUsed := true, subMax := 1 }
  issueWord g 1 (fun _ _ => F.illop f)
    (fun c e s =>
      let k := s.core c
      if unitHeld s k unitMom then .stall .none s
      else if k.cold F f then .flt FCode.regcold 0 noElem
      else if wportHit k (s.pcc + 4) [.m f.d.toNat []] then .flt FCode.wport 0 noElem
      else
        let act := k.activeList f.me f.pm.toNat true
        match (if k.mPois.isEmpty then none
               else firstTrue 0 (List.zipWith (fun a i => a && k.poisM f.a.toNat i) act (List.range 1024))) with
        | some i => .flt FCode.uncorr 0 (elemNo i)
        | none =>
          let r := List.zipWith (fun a (x : Elem32 × Elem32) =>
            if a then some (if f.sub = 1#4 then x else (if Mo.isNanC x.1.toNat then nan32 else x.1, 0#32))
            else if f.zm then some (0#32, 0#32) else none) act (k.physM f.a.toNat)
          .go (maLaunch s c e unitMom 4 4 [.m f.d.toNat r])) s

/-- MOCTL #imm (R326): MCTL takes the value in the clk after issue. -/
def execMoctl (g : Guard) (f : VrWord) (s : State) : Host.Outcome State Fault Refusal :=
  issueWord g 1
    (fun _ _ =>
      (({ immBits := 32, mask := false, zm := false, subUsed := true } : VForm).illop f).or
        (if f.imm &&& 0xFFFFFC08#32 != 0#32 then some 0x12 else none))
    (fun c e s =>
      if unitHeld s (s.core c) unitMom then .stall .none s else .go (maLaunch s c e unitMom 1 1 [.mctl f.imm])) s

/-- MOCTL.RD (R326): MCTL in every element of D. -/
def execMoctlRd (g : Guard) (f : VrWord) (s : State) : Host.Outcome State Fault Refusal :=
  let F : VForm := { d := .v, mask := false, zm := false, subUsed := true, subMax := 1 }
  issueWord g 1 (fun _ _ => F.illop f)
    (fun c e s =>
      let k := s.core c
      if unitHeld s k unitMom then .stall .none s
      else if k.cold F f then .flt FCode.regcold 0 noElem
      else if wportHit k (s.pcc + 2) (k.outV f.d.toNat []) then .flt FCode.wport 0 noElem
      else .go (maLaunch s c e unitMom 1 2 (k.outV f.d.toNat (List.replicate 1024 (some k.mctl.toNat))))) s

end Sys2Proof.Machine
end

