-- ==== Sys2Proof/Machine/Dispatch.lean ====
section
/-!
DEFINITION. What each instruction does: one arm for each constructor, each a direct call of its meaning.
-/

namespace Sys2Proof.Machine

def exec (i : Instr) (s : State) : Host.Outcome State Fault Refusal :=
  match i with
  | .offer msg => Sys2Proof.Machine.execOffer msg s
  | .helperRsp msg => Sys2Proof.Machine.execHelperRsp msg s
  | .floorRsp msg => Sys2Proof.Machine.execFloorRsp msg s
  | .imageRsp msg => Sys2Proof.Machine.execImageRsp msg s
  | .errorRsp msg => Sys2Proof.Machine.execErrorRsp msg s
  | .getVersion req => Sys2Proof.Machine.execGetVersion req s
  | .getCapabilities req => Sys2Proof.Machine.execGetCapabilities req s
  | .negotiateAlgorithms req => Sys2Proof.Machine.execNegotiateAlgorithms req s
  | .getMeasurements req => Sys2Proof.Machine.execGetMeasurements req s
  | .spdmUnsupportedRequest req => Sys2Proof.Machine.execSpdmUnsupportedRequest req s
  | .cxlMemAccess wr addr data => Sys2Proof.Machine.execCxlMemAccess wr addr data s
  | .thermChange reading => Sys2Proof.Machine.execThermChange reading s
  | .marginMeasure value => Sys2Proof.Machine.execMarginMeasure value s
  | .clstatWrite value => Sys2Proof.Machine.execClstatWrite value s
  | .flitData flit => Sys2Proof.Machine.execFlitData flit s
  | .flitNak flit => Sys2Proof.Machine.execFlitNak flit s
  | .flitXoff flit => Sys2Proof.Machine.execFlitXoff flit s
  | .flitXon flit => Sys2Proof.Machine.execFlitXon flit s
  | .flitIdle flit => Sys2Proof.Machine.execFlitIdle flit s
  | .portTrainEnd ok farEnd => Sys2Proof.Machine.execPortTrainEnd ok farEnd s
  | .rdreq msg => Sys2Proof.Machine.execRdreq msg s
  | .rdrsp msg => Sys2Proof.Machine.execRdrsp msg s
  | .wrreq msg => Sys2Proof.Machine.execWrreq msg s
  | .wrack msg => Sys2Proof.Machine.execWrack msg s
  | .yardMsg msg => Sys2Proof.Machine.execYardMsg msg s
  | .collMsg msg => Sys2Proof.Machine.execCollMsg msg s
  | .stepMsg msg => Sys2Proof.Machine.execStepMsg msg s
  | .sectionStart e => Sys2Proof.Machine.execSectionStart e s
  | .sectionRetire e => Sys2Proof.Machine.execSectionRetire e s
  | .guardStallDetect e => Sys2Proof.Machine.execGuardStallDetect e s
  | .guardRelease e => Sys2Proof.Machine.execGuardRelease e s
  | .matrixCommandStart => Sys2Proof.Machine.execMatrixCommandStart s
  | .matrixCommandWrite => Sys2Proof.Machine.execMatrixCommandWrite s
  | .watermarkHold e => Sys2Proof.Machine.execWatermarkHold e s
  | .launch entry => Sys2Proof.Machine.execLaunch entry s
  | .waitev entry => Sys2Proof.Machine.execWaitev entry s
  | .skipif entry => Sys2Proof.Machine.execSkipif entry s
  | .jump entry => Sys2Proof.Machine.execJump entry s
  | .call entry => Sys2Proof.Machine.execCall entry s
  | .ret entry => Sys2Proof.Machine.execRet entry s
  | .signal entry => Sys2Proof.Machine.execSignal entry s
  | .publish entry => Sys2Proof.Machine.execPublish entry s
  | .preempt entry => Sys2Proof.Machine.execPreempt entry s
  | .pass entry => Sys2Proof.Machine.execPass entry s
  | .endList entry => Sys2Proof.Machine.execEndList entry s
  | .fppushWrite value => Sys2Proof.Machine.execFppushWrite value s
  | .fpushWrite value => Sys2Proof.Machine.execFpushWrite value s
  | .mrdoneWrite value => Sys2Proof.Machine.execMrdoneWrite value s
  | .measurementExtend value => Sys2Proof.Machine.execMeasurementExtend value s
  | .registerWrite addr value => Sys2Proof.Machine.execRegisterWrite addr value s
  | .paAccess wr size pa data rd => Sys2Proof.Machine.execPaAccess wr size pa data rd s
  | .resolverWalk home loc => Sys2Proof.Machine.execResolverWalk home loc s
  | .bankWake bank => Sys2Proof.Machine.execBankWake bank s
  | .gwaitRelease e => Sys2Proof.Machine.execGwaitRelease e s
  | .fence imm rs1 rd => Sys2Proof.Machine.execFence imm rs1 rd s
  | .csrAccess op csr rs1 rd => Sys2Proof.Machine.execCsrAccess op csr rs1 rd s
  | .viewLoad op imm rs1 rd => Sys2Proof.Machine.execViewLoad op imm rs1 rd s
  | .viewStore op imm rs1 rs2 => Sys2Proof.Machine.execViewStore op imm rs1 rs2 s
  | .jalr imm rs1 rd => Sys2Proof.Machine.execJalr imm rs1 rd s
  | .fork a => Sys2Proof.Machine.execFork a s
  | .pleave a d => Sys2Proof.Machine.execPleave a d s
  | .secq e d => Sys2Proof.Machine.execSecq e d s
  | .gset g a => Sys2Proof.Machine.execGset g a s
  | .gclr g => Sys2Proof.Machine.execGclr g s
  | .grd g d => Sys2Proof.Machine.execGrd g d s
  | .faultrd h e d => Sys2Proof.Machine.execFaultrd h e d s
  | .resume e => Sys2Proof.Machine.execResume e s
  | .svc n => Sys2Proof.Machine.execSvc n s
  | .tspawn b a d => Sys2Proof.Machine.execTspawn b a d s
  | .tcont a => Sys2Proof.Machine.execTcont a s
  | .tjoin b a d => Sys2Proof.Machine.execTjoin b a d s
  | .tleave d => Sys2Proof.Machine.execTleave d s
  | .tbar d => Sys2Proof.Machine.execTbar d s
  | .tinfo a d => Sys2Proof.Machine.execTinfo a d s
  | .tdln a => Sys2Proof.Machine.execTdln a s
  | .kvhand b a d => Sys2Proof.Machine.execKvhand b a d s
  | .kvtake b a d => Sys2Proof.Machine.execKvtake b a d s
  | .oclaim b a d => Sys2Proof.Machine.execOclaim b a d s
  | .opub a d => Sys2Proof.Machine.execOpub a d s
  | .osub b a d => Sys2Proof.Machine.execOsub b a d s
  | .opin b a d => Sys2Proof.Machine.execOpin b a d s
  | .ounpin b a => Sys2Proof.Machine.execOunpin b a s
  | .oview b a d => Sys2Proof.Machine.execOview b a d s
  | .ounview a => Sys2Proof.Machine.execOunview a s
  | .over a d => Sys2Proof.Machine.execOver a d s
  | .oinfo b a d => Sys2Proof.Machine.execOinfo b a d s
  | .flrel b a => Sys2Proof.Machine.execFlrel b a s
  | .flacq b a d => Sys2Proof.Machine.execFlacq b a d s
  | .fltest b a d => Sys2Proof.Machine.execFltest b a d s
  | .lq m a d => Sys2Proof.Machine.execLq m a d s
  | .sq m a r => Sys2Proof.Machine.execSq m a r s
  | .cjob b a d => Sys2Proof.Machine.execCjob b a d s
  | .cwait a d => Sys2Proof.Machine.execCwait a d s
  | .cstat a d => Sys2Proof.Machine.execCstat a d s
  | .cbinit b a d => Sys2Proof.Machine.execCbinit b a d s
  | .cbq a d => Sys2Proof.Machine.execCbq a d s
  | .clar b a d => Sys2Proof.Machine.execClar b a d s
  | .clmrg b a d => Sys2Proof.Machine.execClmrg b a d s
  | .clbc b a d => Sys2Proof.Machine.execClbc b a d s
  | .clgath b a d => Sys2Proof.Machine.execClgath b a d s
  | .clwait a d => Sys2Proof.Machine.execClwait a d s
  | .yrd a d => Sys2Proof.Machine.execYrd a d s
  | .ywr b a => Sys2Proof.Machine.execYwr b a s
  | .ylock a d => Sys2Proof.Machine.execYlock a d s
  | .yswitch b a d => Sys2Proof.Machine.execYswitch b a d s
  | .hhinv a => Sys2Proof.Machine.execHhinv a s
  | .pghash b a => Sys2Proof.Machine.execPghash b a s
  | .nop g f => Sys2Proof.Machine.execNop g f s
  | .loop g f => Sys2Proof.Machine.execLoop g f s
  | .loopr g f => Sys2Proof.Machine.execLoopr g f s
  | .lbrk g f => Sys2Proof.Machine.execLbrk g f s
  | .gwait g f => Sys2Proof.Machine.execGwait g f s
  | .mark g f => Sys2Proof.Machine.execMark g f s
  | .estop g f => Sys2Proof.Machine.execEstop g f s
  | .sbind g f => Sys2Proof.Machine.execSbind g f s
  | .sload g f => Sys2Proof.Machine.execSload g f s
  | .sloadv g f => Sys2Proof.Machine.execSloadv g f s
  | .sgath g f => Sys2Proof.Machine.execSgath g f s
  | .sgathf g f => Sys2Proof.Machine.execSgathf g f s
  | .sadv g f => Sys2Proof.Machine.execSadv g f s
  | .sscale g f => Sys2Proof.Machine.execSscale g f s
  | .spref g f => Sys2Proof.Machine.execSpref g f s
  | .swaitb g f => Sys2Proof.Machine.execSwaitb g f s
  | .srel g f => Sys2Proof.Machine.execSrel g f s
  | .vadd g f => Sys2Proof.Machine.execVadd g f s
  | .vsub g f => Sys2Proof.Machine.execVsub g f s
  | .vmul g f => Sys2Proof.Machine.execVmul g f s
  | .vfma g f => Sys2Proof.Machine.execVfma g f s
  | .vfms g f => Sys2Proof.Machine.execVfms g f s
  | .vmax g f => Sys2Proof.Machine.execVmax g f s
  | .vmin g f => Sys2Proof.Machine.execVmin g f s
  | .vabs g f => Sys2Proof.Machine.execVabs g f s
  | .vneg g f => Sys2Proof.Machine.execVneg g f s
  | .vcmp g f => Sys2Proof.Machine.execVcmp g f s
  | .vsel g f => Sys2Proof.Machine.execVsel g f s
  | .viadd g f => Sys2Proof.Machine.execViadd g f s
  | .visub g f => Sys2Proof.Machine.execVisub g f s
  | .vimul g f => Sys2Proof.Machine.execVimul g f s
  | .vimad g f => Sys2Proof.Machine.execVimad g f s
  | .vand g f => Sys2Proof.Machine.execVand g f s
  | .vor g f => Sys2Proof.Machine.execVor g f s
  | .vxor g f => Sys2Proof.Machine.execVxor g f s
  | .vnot g f => Sys2Proof.Machine.execVnot g f s
  | .vshl g f => Sys2Proof.Machine.execVshl g f s
  | .vshr g f => Sys2Proof.Machine.execVshr g f s
  | .vsra g f => Sys2Proof.Machine.execVsra g f s
  | .vicmp g f => Sys2Proof.Machine.execVicmp g f s
  | .vimin g f => Sys2Proof.Machine.execVimin g f s
  | .vimax g f => Sys2Proof.Machine.execVimax g f s
  | .vadd64 g f => Sys2Proof.Machine.execVadd64 g f s
  | .vsub64 g f => Sys2Proof.Machine.execVsub64 g f s
  | .vshl64 g f => Sys2Proof.Machine.execVshl64 g f s
  | .vshr64 g f => Sys2Proof.Machine.execVshr64 g f s
  | .vcmp64 g f => Sys2Proof.Machine.execVcmp64 g f s
  | .vcvt g f => Sys2Proof.Machine.execVcvt g f s
  | .vrnd g f => Sys2Proof.Machine.execVrnd g f s
  | .vpack g f => Sys2Proof.Machine.execVpack g f s
  | .vunpk g f => Sys2Proof.Machine.execVunpk g f s
  | .vrsqa g f => Sys2Proof.Machine.execVrsqa g f s
  | .vrcpa g f => Sys2Proof.Machine.execVrcpa g f s
  | .vexp2 g f => Sys2Proof.Machine.execVexp2 g f s
  | .vlog2 g f => Sys2Proof.Machine.execVlog2 g f s
  | .vrotr g f => Sys2Proof.Machine.execVrotr g f s
  | .vrotc g f => Sys2Proof.Machine.execVrotc g f s
  | .vbcr g f => Sys2Proof.Machine.execVbcr g f s
  | .vbcc g f => Sys2Proof.Machine.execVbcc g f s
  | .vredr g f => Sys2Proof.Machine.execVredr g f s
  | .vredc g f => Sys2Proof.Machine.execVredc g f s
  | .vscanr g f => Sys2Proof.Machine.execVscanr g f s
  | .vtrn g f => Sys2Proof.Machine.execVtrn g f s
  | .vmov g f => Sys2Proof.Machine.execVmov g f s
  | .vli g f => Sys2Proof.Machine.execVli g f s
  | .viota g f => Sys2Proof.Machine.execViota g f s
  | .vxg g f => Sys2Proof.Machine.execVxg g f s
  | .vxs g f => Sys2Proof.Machine.execVxs g f s
  | .vpart g f => Sys2Proof.Machine.execVpart g f s
  | .pand g f => Sys2Proof.Machine.execPand g f s
  | .por g f => Sys2Proof.Machine.execPor g f s
  | .pxor g f => Sys2Proof.Machine.execPxor g f s
  | .pnot g f => Sys2Proof.Machine.execPnot g f s
  | .pfx g f => Sys2Proof.Machine.execPfx g f s
  | .pcnt g f => Sys2Proof.Machine.execPcnt g f s
  | .pmov g f => Sys2Proof.Machine.execPmov g f s
  | .vnest g f => Sys2Proof.Machine.execVnest g f s
  | .vsleep g f => Sys2Proof.Machine.execVsleep g f s
  | .vwake g f => Sys2Proof.Machine.execVwake g f s
  | .vlive g f => Sys2Proof.Machine.execVlive g f s
  | .moset g f => Sys2Proof.Machine.execMoset g f s
  | .moadd g f => Sys2Proof.Machine.execMoadd g f s
  | .mosub g f => Sys2Proof.Machine.execMosub g f s
  | .momul g f => Sys2Proof.Machine.execMomul g f s
  | .moscl g f => Sys2Proof.Machine.execMoscl g f s
  | .moaxpy g f => Sys2Proof.Machine.execMoaxpy g f s
  | .mosq g f => Sys2Proof.Machine.execMosq g f s
  | .morelu g f => Sys2Proof.Machine.execMorelu g f s
  | .molrelu g f => Sys2Proof.Machine.execMolrelu g f s
  | .moexp g f => Sys2Proof.Machine.execMoexp g f s
  | .mosigm g f => Sys2Proof.Machine.execMosigm g f s
  | .mocoll g f => Sys2Proof.Machine.execMocoll g f s
  | .moctl g f => Sys2Proof.Machine.execMoctl g f s
  | .moctlRd g f => Sys2Proof.Machine.execMoctlRd g f s
  | .mozv g f => Sys2Proof.Machine.execMozv g f s
  | .mmac g f => Sys2Proof.Machine.execMmac g f s
  | .mmacz g f => Sys2Proof.Machine.execMmacz g f s
  | .mmom g f => Sys2Proof.Machine.execMmom g f s
  | .mmhad g f => Sys2Proof.Machine.execMmhad g f s
  | .mmanc g f => Sys2Proof.Machine.execMmanc g f s
  | .mmclr g f => Sys2Proof.Machine.execMmclr g f s
  | .mmcopy g f => Sys2Proof.Machine.execMmcopy g f s
  | .atsc g f => Sys2Proof.Machine.execAtsc g f s
  | .atsm g f => Sys2Proof.Machine.execAtsm g f s
  | .atpv g f => Sys2Proof.Machine.execAtpv g f s
  | .atfuse g f => Sys2Proof.Machine.execAtfuse g f s
  | .attri g f => Sys2Proof.Machine.execAttri g f s
  | .drain g f => Sys2Proof.Machine.execDrain g f s
  | .drainmx g f => Sys2Proof.Machine.execDrainmx g f s
  | .drainm g f => Sys2Proof.Machine.execDrainm g f s
  | .dcmpr g f => Sys2Proof.Machine.execDcmpr g f s
  | .dstore g f => Sys2Proof.Machine.execDstore g f s
  | .dstsc g f => Sys2Proof.Machine.execDstsc g f s
  | .dbarsFull g f => Sys2Proof.Machine.execDbarsFull g f s
  | .dbarsWait g f => Sys2Proof.Machine.execDbarsWait g f s
  | .bkupd g f => Sys2Proof.Machine.execBkupd g f s
  | .xwin g f => Sys2Proof.Machine.execXwin g f s
  | .xacc g f => Sys2Proof.Machine.execXacc g f s
  | .xflush g f => Sys2Proof.Machine.execXflush g f s
  | .kvapp g f => Sys2Proof.Machine.execKvapp g f s
  | .rv64IntegerInstruction op => Sys2Proof.Machine.execRv64IntegerInstruction op s
  | .unassignedCtEncoding w => Sys2Proof.Machine.execUnassignedCtEncoding w s
  | .unassignedEngineOpcode w => Sys2Proof.Machine.execUnassignedEngineOpcode w s
  | .cxlMailboxAccess wr off data => Sys2Proof.Machine.execCxlMailboxAccess wr off data s
  | .packageResetRelease => Sys2Proof.Machine.execPackageResetRelease s
  | .bootRetryTimer => Sys2Proof.Machine.execBootRetryTimer s
  | .bootRequestTimeout => Sys2Proof.Machine.execBootRequestTimeout s
  | .cxlLinkDown => Sys2Proof.Machine.execCxlLinkDown s
  | .thermDropTimer => Sys2Proof.Machine.execThermDropTimer s
  | .governorGrant => Sys2Proof.Machine.execGovernorGrant s
  | .vcodeStep => Sys2Proof.Machine.execVcodeStep s
  | .degradedQueueMove => Sys2Proof.Machine.execDegradedQueueMove s
  | .replayTimeout => Sys2Proof.Machine.execReplayTimeout s
  | .portDead => Sys2Proof.Machine.execPortDead s
  | .portctlRetrain => Sys2Proof.Machine.execPortctlRetrain s
  | .portctlHold => Sys2Proof.Machine.execPortctlHold s
  | .forkStallDetect => Sys2Proof.Machine.execForkStallDetect s
  | .feLoadResolve => Sys2Proof.Machine.execFeLoadResolve s
  | .drStoreAccept => Sys2Proof.Machine.execDrStoreAccept s
  | .serviceEntryEngineFault => Sys2Proof.Machine.execServiceEntryEngineFault s
  | .deadlineTrap => Sys2Proof.Machine.execDeadlineTrap s
  | .lateBandEntry => Sys2Proof.Machine.execLateBandEntry s
  | .queueRingRefill => Sys2Proof.Machine.execQueueRingRefill s
  | .spillToRing => Sys2Proof.Machine.execSpillToRing s
  | .corePop => Sys2Proof.Machine.execCorePop s
  | .taskStart => Sys2Proof.Machine.execTaskStart s
  | .restoreComplete => Sys2Proof.Machine.execRestoreComplete s
  | .saveWritten => Sys2Proof.Machine.execSaveWritten s
  | .packageQueueMove => Sys2Proof.Machine.execPackageQueueMove s
  | .waitYieldTimeout => Sys2Proof.Machine.execWaitYieldTimeout s
  | .nextKernelPrefetch => Sys2Proof.Machine.execNextKernelPrefetch s
  | .preemptDrainExpiry => Sys2Proof.Machine.execPreemptDrainExpiry s
  | .passQueueTake => Sys2Proof.Machine.execPassQueueTake s
  | .clEntryResume => Sys2Proof.Machine.execClEntryResume s
  | .clctlStart => Sys2Proof.Machine.execClctlStart s
  | .clctlClear => Sys2Proof.Machine.execClctlClear s
  | .timerInterrupt => Sys2Proof.Machine.execTimerInterrupt s
  | .softwareInterrupt => Sys2Proof.Machine.execSoftwareInterrupt s
  | .externalInterrupt => Sys2Proof.Machine.execExternalInterrupt s
  | .bankApply => Sys2Proof.Machine.execBankApply s
  | .vsleepEffect => Sys2Proof.Machine.execVsleepEffect s
  | .swaitbPass => Sys2Proof.Machine.execSwaitbPass s
  | .swaitbStallDetect => Sys2Proof.Machine.execSwaitbStallDetect s
  | .srelRelease => Sys2Proof.Machine.execSrelRelease s
  | .dbarsRelease => Sys2Proof.Machine.execDbarsRelease s
  | .dbarsStallDetect => Sys2Proof.Machine.execDbarsStallDetect s
  | .xflushApplied => Sys2Proof.Machine.execXflushApplied s
  | .kvappApply => Sys2Proof.Machine.execKvappApply s
  | .copyTile => Sys2Proof.Machine.execCopyTile s
  | .collectiveComplete => Sys2Proof.Machine.execCollectiveComplete s
  | .collectiveTimeout => Sys2Proof.Machine.execCollectiveTimeout s
  | .rdvComplete => Sys2Proof.Machine.execRdvComplete s
  | .aborteRetire => Sys2Proof.Machine.execAborteRetire s
  | .texitComplete => Sys2Proof.Machine.execTexitComplete s
  | .osubComplete => Sys2Proof.Machine.execOsubComplete s
  | .flacqComplete => Sys2Proof.Machine.execFlacqComplete s
  | .tbarComplete => Sys2Proof.Machine.execTbarComplete s
  | .oclaimDecide => Sys2Proof.Machine.execOclaimDecide s
  | .opubPublishPoint => Sys2Proof.Machine.execOpubPublishPoint s
  | .kvhandEvent => Sys2Proof.Machine.execKvhandEvent s
  | .kvtakeComplete => Sys2Proof.Machine.execKvtakeComplete s
  | .cwaitComplete => Sys2Proof.Machine.execCwaitComplete s
  | .cwaitStallDetect => Sys2Proof.Machine.execCwaitStallDetect s
  | .clwaitComplete => Sys2Proof.Machine.execClwaitComplete s
  | .ylockReleaseDone => Sys2Proof.Machine.execYlockReleaseDone s
  | .yswitchCommitDone => Sys2Proof.Machine.execYswitchCommitDone s
  | .ecall => Sys2Proof.Machine.execEcall s
  | .ebreak => Sys2Proof.Machine.execEbreak s
  | .sret => Sys2Proof.Machine.execSret s
  | .wfi => Sys2Proof.Machine.execWfi s
  | .rdv => Sys2Proof.Machine.execRdv s
  | .aborte => Sys2Proof.Machine.execAborte s
  | .texit => Sys2Proof.Machine.execTexit s
  | .ttrig => Sys2Proof.Machine.execTtrig s
  | .tyield => Sys2Proof.Machine.execTyield s
  | .discardStopped => Sys2Proof.Machine.execDiscardStopped s
  | .cxlLinkTrained => Sys2Proof.Machine.execCxlLinkTrained s

end Sys2Proof.Machine
end

