-- ==== Sys2Proof/Machine/Clock.lean ====
section
/-!
DEFINITION. The clk (01 R27): what registers and barriers show from a clk on, the happenings that are due in it, and those whose time
is not architectural, which a free value lets take place in it or later (log entries 1 and 2).
-/

namespace Sys2Proof.Machine

namespace Core

/-- Results whose write clk has come are written, and their words retire (R32, R241). -/
def writeDue (k : Core) (pcc : Nat) : Core :=
  let due := k.vPend.filter fun q => decide (q.due ≤ pcc)
  due.foldl (fun k q => (q.dst.foldl Core.writeDst k).modEng .ma fun g => State.landWord g q.sec)
    { k with vPend := k.vPend.filter fun q => !decide (q.due ≤ pcc) }

/-- Barrier values whose clk has come are seen; a job that has made its set gives up its barrier (R355, R365). -/
def seeBarriers (k : Core) (pcc : Nat) : Core :=
  let due := k.cbPend.filter fun p => decide (p.1 ≤ pcc)
  due.foldl (fun k p =>
      { k with cb := fillAt false k.cb p.2.1 p.2.2.1
               cbOwner := if p.2.2.2 = 0 then k.cbOwner else Tbl.erase k.cbOwner p.2.1 })
    { k with cbPend := k.cbPend.filter fun p => !decide (p.1 ≤ pcc) }

/-- A live depth set in the clk before takes effect (R243). -/
def setLive (k : Core) : Core :=
  match k.livePend with
  | none => k
  | some n => ({ k with live := n, livePend := none } : Core).buryDead k

/-- An engine's count becomes visible to the other engines (R16). -/
def showCount (g : EngSt) : EngSt := { g with retiredVis := g.retired }

/-- A core at the beginning of a clk: counts (R16), guards (R24), the live depth (R243), results, barriers. -/
def clk (k : Core) (pcc : Nat) : Core :=
  let k1 : Core := { k with fe := showCount k.fe, ma := showCount k.ma, dr := showCount k.dr, gSeen := k.gPrev, gPrev := k.gNow }
  (k1.setLive.writeDue pcc).seeBarriers pcc

end Core

namespace State

/-- Cores on which a task stands. -/
def activeCores (s : State) : List Nat := s.cores.filterMap fun e => if e.2.crid = 0 then none else some e.1

/-! ## Conditions that last (R23, R26, R217, R307, R362) -/

/-- What detects that an engine can go no further, if it cannot. -/
def engineStall (s : State) (c : Nat) (e : Eng) : Option Instr :=
  if (s.core c).phase ≠ .running then none
  else if guardStuck s c e then some (.guardStallDetect e)
  else
    match e with
    | .fe => if swaitbStuck s c then some .swaitbStallDetect else none
    | .dr => if dbarsStuck s c then some .dbarsStallDetect else none
    | .ma => none

/-- What detects that the fork of a core, or the job its CWAIT waits for, can go no further, if it cannot. -/
def coreStall (s : State) (c : Nat) : Option Instr :=
  if (s.core c).phase ≠ .running then none
  else if forkStuck s c then some .forkStallDetect
  else
    match s.waiting c .cwait with
    | none => none
    | some w =>
      match s.findJob c ((s.core c).getX w.a) with
      | some j => if s.cwaitStuck c j then some .cwaitStallDetect else none
      | none => none

/-- Since when a condition has held. -/
def sinceNow (s : State) (cond : Option Instr) (old : Option Nat) : Option Nat := if cond.isSome then old.or (some s.pcc) else none

/-- The clks since which the conditions of a core have held. -/
def markStalls (s : State) (c : Nat) : State :=
  s.modCore c fun k =>
    engines.foldl (fun k e => k.modEng e fun g => { g with stallSince := s.sinceNow (s.engineStall c e) g.stallSince })
      { k with forkStall := s.sinceNow (s.coreStall c) k.forkStall }

/-- The rows of a core whose conditions hold, each with the clk since which it has. -/
def stalls (s : State) (c : Nat) : List (Nat × Instr) :=
  let k := s.core c
  let row := fun (since : Option Nat) (i : Option Instr) =>
    match since, i with
    | some t, some i => [(t, i)]
    | _, _ => []
  row k.forkStall (s.coreStall c) ++ engines.flatMap fun e => row (k.eng e).stallSince (s.engineStall c e)

/-! ## Happenings that are due -/

/-- Bank wakes of a core whose clk has come (R246). -/
def wakes (k : Core) (pcc : Nat) : List Instr :=
  let of := fun (file : Nat) (l : List BankSt) =>
    (List.range l.length).filterMap fun b =>
      match nth .awake l b with
      | .waking t _ => if t ≤ pcc then some (Instr.bankWake (16 * file + b)) else none
      | _ => none
  of 0 k.bankV ++ of 1 k.bankM ++ of 2 k.bankA

/-- May an engine issue: the fork is outstanding, no fault and no stop holds it, and its task runs, or stops while the engine stands in a
stamped section (R36, R140)? -/
def mayIssue (k : Core) (g : EngSt) : Bool :=
  k.forkOut && !g.fault.v && !g.stopped &&
    (match k.phase with
     | .running => true
     | .stopping _ => g.inSec && g.hdr.getLsbD 48
     | _ => false)

/-- Has the clk come in which the bank of a held VSLEEP takes its new state, before any word of that clk issues (R245)? -/
def sleepDue (k : Core) (pcc : Nat) : Bool :=
  match k.ma.hold with
  | .vsleep (some t) =>
    decide (t ≤ pcc) && mayIssue k k.ma && !k.ma.held && k.ma.redo.isEmpty
  | _ => false

/-- What must happen on a core in this clk: stalls are detected within 16 clk; banks wake; a task starts, is restored, is saved, or
yields after its wait of 4,096 clk (R34, R115, R140). -/
def coreDue (s : State) (c : Nat) : List Instr :=
  let k := s.core c
  ((s.stalls c).filter fun x => decide (x.1 + 15 ≤ s.pcc)).map (·.2) ++ wakes k s.pcc ++
    (if sleepDue k s.pcc then [.vsleepEffect] else []) ++
    (match k.phase with
     | .starting _ first => if first ≤ s.pcc then [if s.crSv k.crid then .restoreComplete else .taskStart] else []
     | .saving t => if t ≤ s.pcc then [.saveWritten] else []
     | .running =>
       (match k.ct.wait with
        | some w => if yieldsAfter w.kind k.forkOut ∧ w.since + 4096 < s.pcc then [.waitYieldTimeout] else []
        | none => [])
     | _ => [])

/-- Late bands, refills and spills of a queue, and the fills for its next records (R108, R110, R111, R143). -/
def queueDue (s : State) (q : Nat) : List Instr :=
  let k := s.queue q
  (if State.markLate s.pcc (s.qGrace q) k = k then [] else [Instr.lateBandEntry]) ++
    (if !s.qFrozen q ∧ !k.ring.isEmpty ∧ k.head.length < 256 then [.queueRingRefill] else []) ++
    (if !s.qFrozen q ∧ !k.spill.isEmpty ∧ (k.ring.length < s.qCap q ∨ (s.qCap q = 0 ∧ k.ring.isEmpty ∧ k.head.length < 256)) then [.spillToRing]
     else []) ++
    (if q < 128 ∧ s.fillDue q then [.nextKernelPrefetch] else [])

/-- Moves between queues, in the clks whose PCC is a multiple of 4, one in each (R114, R456; log entry 43). -/
def moves (s : State) : List (Nat × Instr) :=
  if s.pcc % 4 ≠ 0 then []
  else
    (if s.qCount 136 = 0 ∧ (List.range 8).all (fun d => s.healthy d != 0 || s.qCount (128 + d) == 0) then [] else [(0, Instr.packageQueueMove)]) ++
      s.clusters.filterMap fun e => if e.2.degr && s.qCount e.1 != 0 then some (e.1, .degradedQueueMove) else none

/-- The idle cores of a die whose pops find something, in ascending order (R113). -/
def pops (s : State) (d : Nat) : List (Nat × Instr) :=
  if (s.queue (128 + d)).head.isEmpty && (List.range 16).all fun i => (s.queue (16 * d + i)).head.isEmpty then []
  else (List.range 256).filterMap fun i => if s.popFinds (256 * d + i) then some (256 * d + i, .corePop) else none

/-- What the command lists and pre-emptions have due (R132, R139). -/
def listsDue (s : State) : List (Nat × Instr) :=
  (s.interps.filterMap fun e => if e.2.st = 0 ∧ !e.2.pass.isEmpty then some (e.1, Instr.passQueueTake) else none) ++
    (List.range s.preempts.length).flatMap fun i =>
      match s.preempts[i]? with
      | none => []
      | some p =>
        (if p.method = 0 ∧ p.expiry ≤ s.pcc then [(i, .preemptDrainExpiry)] else []) ++
          (if p.method = 1 ∧ s.discardReady p then [(i, .discardStopped)] else [])

/-- What ports, collectives, supplies, governors, sensors and the boot ROM have due (R395, R396, R408, R440, R442, R451, R453, R455). -/
def unitsDue (s : State) : List (Nat × Instr) :=
  (s.ports.flatMap fun e =>
    if e.2.st ≠ 2 then []
    else
      (if !e.2.unacked.isEmpty ∧ e.2.lastAck + 4096 ≤ s.pcc then [(e.1, Instr.replayTimeout)] else []) ++
        (if e.2.lastGood + 2 ^ 20 ≤ s.pcc then [(e.1, .portDead)] else [])) ++
    (s.colls.filterMap fun k =>
      if k.status.isNone ∧ k.start + s.regN (0x7000 + 8 * k.io) ≤ s.pcc then some (k.cid, .collectiveTimeout) else none) ++
    (if s.pcc % 4096 = 0 then s.clusters.filterMap fun e => if e.2.vcode = e.2.target then none else some (e.1, .vcodeStep) else []) ++
    (s.govs.filterMap fun e => if e.2.reqs.isEmpty then none else some (e.1, .governorGrant)) ++
    (if s.thermFloor = s.therm then [] else [(0, .thermDropTimer)]) ++
    (if !s.boot.running then []
     else
       match s.boot.retryAt with
       | some t => if t ≤ s.pcc then [(0, .bootRetryTimer)] else []
       | none => if s.boot.req ≠ 0 ∧ s.boot.since + 2 ^ 27 ≤ s.pcc then [(0, .bootRequestTimeout)] else [])

/-- Everything that must happen in this clk, in the order in which it does. -/
def dueRows (s : State) : List (Nat × Instr) :=
  s.unitsDue ++ (s.activeCores.flatMap fun c => (s.coreDue c).map fun i => (c, i)) ++
    (s.queues.flatMap fun e => (s.queueDue e.1).map fun i => (e.1, i)) ++ s.moves ++ (List.range 8).flatMap s.pops ++ s.listsDue

/-! ## Happenings whose time is not architectural -/

/-- Walks of the die resolver that the bound descriptors of a core may cause (R149). -/
def walks (s : State) (c : Nat) : List (Nat × Instr) :=
  let hs := ((s.core c).sd.map fun d => nth 0#64 d.2 0).filter (· != 0#64)
  hs.filterMap fun h =>
    if (Tbl.find s.hcache (128 * Handle.key h + c / 16)).isSome then none
    else some (c / 16, .resolverWalk (Handle.home h) (Handle.loc h))

/-- What may happen on a core in this clk: stalls, service for an engine fault (R75), the resolving of a load (R218), the acceptance of a
store (R294, R383), walks. -/
def coreFree (s : State) (c : Nat) : List (Nat × Instr) :=
  let k := s.core c
  ((s.stalls c).filter fun x => !decide (x.1 + 15 ≤ s.pcc)).map (fun x => (c, x.2)) ++
    (if k.anyFault && !k.ct.sup && k.phase == .running && k.failed.isNone then [(c, .serviceEntryEngineFault)] else []) ++
    (if k.loads.isEmpty then [] else [(c, .feLoadResolve)]) ++
    (match k.stores with
     | [] => []
     | x :: _ =>
       match x.work with
       | .token _ _ => [(c, .kvappApply)]
       | _ => [(c, .drStoreAccept)]) ++
    s.walks c

/-- Can a copy engine do anything for a job now, other than be held or wait (R330)? -/
def jobReady (s : State) (j : Job) : Bool := !s.jobHeld j && (j.bmode == 0 || s.passed j || s.ringOpen j)

/-- The jobs of a die that its four engines take up, in order of acceptance (R330). -/
def jobsTaken (s : State) (d : Nat) : List Job := (s.jobs.filter fun j => j.die == d && !j.ended && s.jobReady j).take 4

/-- STATE of a job that has not ended (R332): held by a conflict, waiting at its barrier, or running. -/
def jobState (s : State) (j : Job) : Nat := if s.jobHeld j then 0 else if j.bmode ≠ 0 ∧ !s.passed j then 1 else 2

/-- The states of the jobs in this clk. -/
def noteJobs (s : State) : State := { s with jobs := s.jobs.map fun j => if j.ended then j else { j with st := s.jobState j } }

/-- Everything that may happen in this clk. -/
def freeRows (s : State) : List (Nat × Instr) :=
  s.activeCores.flatMap s.coreFree ++
    ((List.range 8).flatMap fun d => if s.bankq.any fun r => r.pa / 2 ^ 32 % 8 == d then [(d, Instr.bankApply)] else []) ++
    ((List.range 8).flatMap fun d => (s.jobsTaken d).map fun j => (jobUnit j, .copyTile)) ++
    (s.colls.filter fun k => k.status.isNone).map fun k => (k.cid, .collectiveComplete)

/-- Those of a list of happenings that take place in this clk: a free value decides on each. -/
def choose (s : State) (l : List (Nat × Instr)) : List (Nat × Instr) × State :=
  l.foldl (fun a x => let b := a.2.flip; (if b.1 then a.1 ++ [x] else a.1, b.2)) ([], s)

/-! ## The clk -/

/-- A handle cache of the package may drop an entry that HHINV named, and acknowledge (R422); a peer acknowledges by a message. -/
def ackOne (s : State) (key cl : Nat) : Bool × State :=
  let b := if cl < 128 then s.flip else (false, s)
  if b.1 then (true, { b.2 with hcache := Tbl.erase b.2.hcache (128 * key + cl) }) else (false, b.2)

/-- The caches that still have to acknowledge one HHINV. -/
def ackInv (s : State) (key : Nat) (cls : List Nat) : List Nat × State :=
  cls.foldl (fun a cl => let b := a.2.ackOne key cl; (if b.1 then a.1 else a.1 ++ [cl], b.2)) ([], s)

/-- Acknowledgements of this clk. -/
def acks (s : State) : State :=
  s.invs.foldl (fun s v =>
    let a := s.ackInv v.2.1 v.2.2
    if a.1.isEmpty then a.2 else { a.2 with invs := a.2.invs ++ [(v.1, v.2.1, a.1)] }) { s with invs := [] }

/-- A core that stops by save and on which everything has retired begins its save (R140). -/
def startSaves (s : State) : State :=
  s.activeCores.foldl (fun s c => if (s.core c).phase == .stopping false && s.coreQuiet c then s.beginSave c else s) s

/-- Pre-emptions whose victims have left their cores are over (R139). -/
def endPreempts (s : State) : State := { s with preempts := s.preempts.filter fun p => !(s.coresOf p.left).isEmpty }

/-- The boot ROM sends its first frame (R440). -/
def firstFrame (s : State) : State := if s.boot.running ∧ s.boot.req = 0 ∧ s.boot.retryAt.isNone then s.discover else s

/-- Sources whose accesses to HBM4E an L2 may serve: while a task stands on a core, or a job, a collective or a live port is at work, on any
stack; a hart that fetches, on the stack of its code, or on any while it translates (R439; log entry 19). -/
def makeNoise (s : State) : State :=
  let bump := fun (t : Tbl Nat) (n : Nat) => Tbl.put t n (Tbl.get 0 t n + 1)
  let any := !s.activeCores.isEmpty || !s.jobs.isEmpty || !s.colls.isEmpty || s.cxlUp || s.boot.running || (s.interps.any fun e => e.2.st == 1) || s.ports.any fun e => e.2.st == 2
  let n0 := if any then bump s.noise 12 else s.noise
  { s with noise := s.harts.foldl (fun t e =>
      if e.2.held then t
      else if fld (e.2.csrOf 0x180) 60 4 ≠ 0 then bump t 12
      else
        match paRef s e.2.pc.toNat with
        | some r => if r.pkg.isNone ∧ r.kind = .hbm then bump t (r.key / 2 ^ 36) else t
        | none => t) n0 }

/-- The PCC, of 64 bits (R27), advances, and what changes with it. -/
def advance (s : State) : State :=
  let s0 := s.meetUpsets.tablesToMem.sendAll.makeNoise
  let s1 : State := { s0 with pcc := (s.pcc + 1) % 2 ^ 64 }
  let s2 : State := { s1 with cores := s1.cores.map fun e => (e.1, if e.2.crid = 0 then e.2 else e.2.clk s1.pcc) }
  let s3 := (List.range 8).foldl (fun (s : State) d => s.releaseGangs d) s2
  let s4 := s3.startSaves.endPreempts.acks.applyHdm.applyBox.fetchHost.releaseHeld.releaseLinkHeld.firstFrame
  let s5 := s4.noteJobs
  s5.activeCores.foldl markStalls s5

/-- The agents of a core, in the order in which they move. -/
def coreTurns (c : Nat) : List Agent := [.seq c .ct, .seq c (.eng .fe), .seq c (.eng .ma), .seq c (.eng .dr), .arrays c]

/-- The agents that move in a clk: cores in ascending order, harts, interpreters (log entry 1). -/
def allTurns (s : State) : List Agent :=
  s.activeCores.flatMap coreTurns ++ (s.harts.filterMap fun e => if e.2.held then none else some (.hart e.1)) ++
    s.interps.filterMap fun e => if e.2.st = 1 then some (.interp e.1) else none

/-- The next clk begins (R27).  A package in reset waits there until its sensors report in range (R440). -/
def tick (s : State) : State :=
  if s.inReset then
    let b := s.flip
    if b.1 then { b.2 with agenda := [(0, .packageResetRelease)] } else b.2
  else
    let s1 := s.advance
    let r := s1.choose s1.freeRows
    { r.2 with agenda := s1.dueRows ++ r.1, turns := r.2.allTurns }

end State

end Sys2Proof.Machine
end

