-- ==== Sys2Proof/Machine/Peer.lean ====
section
/-!
DEFINITION. Reads over the links (R398, R412): the sectors of other packages that the next move of an agent reads, or stores in part, and
the wait for them.  Each is asked for by an RDREQ, and the agent moves once all of them are here (log entry 45).
-/

namespace Sys2Proof.Machine

namespace State

/-! ## The wait -/

/-- The sectors of other packages among places of storage. -/
def awayOf (keys : List Nat) : List Nat := ((keys.filter fun k => bitOf k 55).map fun k => k / 32 * 32).eraseDups

/-- Can another package be reached at all: is a port live (R399)? -/
def linked (s : State) : Bool := s.ports.any fun e => e.2.st == 2

/-- Is a sector here for a reader? -/
def hasSector (s : State) (r : Reader) (k : Nat) : Bool := s.reads.any fun e => e.reader == r && e.key == k && e.here

/-- The sectors that a reader still needs. -/
def lacking (s : State) (r : Reader) (keys : List Nat) : List Nat := (awayOf keys).filter fun k => !s.hasSector r k

/-- A reader asks for the sectors that it lacks; of those that are here it keeps the ones that it needs. -/
def askSectors (s : State) (r : Reader) (keys : List Nat) : State :=
  let need := awayOf keys
  let kept := s.reads.filter fun e => e.reader != r || !e.here || need.contains e.key
  let new := need.filter fun k => !kept.any fun e => e.reader == r && e.key == k
  { s with reads := kept ++ new.map fun k => { reader := r, key := k } }

/-- What a reader has brought is used by the move for which it asked. -/
def useSectors (s : State) (r : Reader) : State := { s with reads := s.reads.filter fun e => e.reader != r || !e.here }

/-- The sectors that a reader lacks for a move that touches the places `keys`; none while no port is live. -/
def lacks (s : State) (r : Reader) (keys : Unit → List Nat) : List Nat := if s.linked then s.lacking r (keys ()) else []

/-! ## The places that an access touches -/

/-- The first and the last byte of a place. -/
def placeEnds (p : Place) : List Nat := [p.key, p.key + (p.bit + p.bits + 7) / 8 - 1]

/-- The bytes that reading an element touches: its own or, of an SMB format, its block, and its MX scale. -/
def elemKeys (s : State) (pr : Principal) (h : Word) (l : Layout) (v : VSel) (own : Bool) (t : List Nat) : List Nat :=
  match s.resolve pr h l t Right.read v with
  | .bad _ => []
  | .ok p =>
    (if isSmb l.fmt then [p.key, p.key + (if l.fmt = 0x41 then 15 else 31)] else placeEnds p) ++
      (if isMx l.fmt && own then
        match s.scalePlace (Handle.key h) l t v with
        | .ok q => [q.key]
        | .bad _ => []
       else [])

/-- Of places to be written, bytes of the sectors of which they do not make up the whole. -/
def partKeys (ps : List Place) : List Nat :=
  let inOf := fun (k : Nat) (p : Place) => if (placeEnds p).all fun e => e / 32 * 32 == k then p.bits else 0
  (awayOf (ps.flatMap placeEnds)).filter fun k => decide ((ps.map (inOf k)).sum < 256)

/-- The places that a store of elements and of their scales writes. -/
def storePlaces (s : State) (pr : Principal) (h : Word) (l : Layout) (v : VSel) (ts scales : List (List Nat)) : List Place :=
  (ts.map fun t => s.resolve pr h l t Right.write v).filterMap (fun r => match r with
    | .ok p => some p
    | .bad _ => none) ++
  (scales.map fun t => s.scalePlace (Handle.key h) l t v).filterMap (fun r => match r with
    | .ok p => some p
    | .bad _ => none)

/-- Bytes that an access of a core through its views touches. -/
def viewKeys (s : State) (c a n need : Nat) : List Nat :=
  match s.translate c a n need with
  | .ok ks => ks
  | .bad _ => []

/-! ## Control sequencers and engines -/

/-- The accesses of an instruction of a control sequencer through its views: address, bytes, right. -/
def ctAccesses (s : State) (c : Nat) (i : Instr) : List (Nat × Nat × Nat) :=
  let k := s.core c
  let x := fun (r : BitVec 5) => (k.getX r).toNat
  let off := fun (r : BitVec 5) (m : BitVec 12) => (k.getX r + m.signExtend 64).toNat
  match i with
  | .viewLoad op m r _ => [(off r m, Rv.ldSize op, 1)]
  | .viewStore op m r _ => [(off r m, Rv.stSize op, 2)]
  | .lq m r _ => [(off r m, 16, 1)]
  | .sq m r _ => [(off r m, 16, 2)]
  | .fork a => [(x a, 24, 1)]
  | .cjob _ a _ => [(x a, 128, 1)]
  | .cbinit _ a _ => if x a = 0 then [] else [(x a, 96, 1)]
  | .clar _ a _ | .clmrg _ a _ | .clbc _ a _ | .clgath _ a _ | .tspawn _ a _ | .tcont a => [(x a, 64, 1)]
  | .kvhand _ a _ | .kvtake _ a _ =>
    let head := (x a, 16, 1)
    if (s.lacking (.ct c) (s.viewKeys c (x a) 16 1)).isEmpty then
      match s.viewLoad c (x a + 8) 8 with
      | .ok bs => [head, (x a + 16, 8 * min 64 (bitsOf (leNat bs) 32 16), 1)]
      | .bad _ => [head]
    else [head]
  | _ => []

/-- Bytes that the turn of a control sequencer touches: those of its instruction, then those of its accesses. -/
def ctKeys (s : State) (c : Nat) : List Nat :=
  let pc := (s.core c).ct.pc.toNat
  let code := s.viewKeys c pc 4 0x10
  match s.fetch c pc 4 with
  | none => code
  | some bs => if (s.lacking (.ct c) code).isEmpty then code ++ (s.ctAccesses c (decodeBytes32 bs)).flatMap fun e => s.viewKeys c e.1 e.2.1 e.2.2 else code

/-- Bytes of code that the turn of an engine touches: a header, or a word with the two that a nest takes with it. -/
def engKeys (s : State) (c : Nat) (e : Eng) : List Nat :=
  let g := (s.core c).eng e
  let word := fun (i : Nat) => if g.len ≤ g.slot + i then [] else s.viewKeys c (g.hdrPc.toNat + 8 + 12 * (g.slot + i)) 12 0x10
  if !g.inSec then s.viewKeys c g.hdrPc.toNat 8 0x10
  else
    match slotWord s c e 0 with
    | some w => if e = .ma ∧ opcodeOf w = 0x58#8 then word 0 ++ word 1 ++ word 2 else word 0
    | none => word 0

/-- Bytes that the resolving of the oldest load of a core touches (R205, R211, R213). -/
def loadKeys (s : State) (c : Nat) : List Nat :=
  match (s.core c).loads with
  | [] => []
  | x :: _ =>
    let pr := s.principal c
    let d := x.desc
    let h := Desc.handle d
    match s.lookup pr h with
    | .bad _ => []
    | .ok l =>
      let own := Desc.sh d == 0#64
      let ts := if x.op < 2 then (Desc.tuples d).filter fun t => !Desc.zeroed d l t else ((gatherCells x l).filter fun e => e.1 < x.cut).filterMap (·.2)
      ts.flatMap (s.elemKeys pr h l (Desc.sel d) own) ++
        (if own then []
         else
          match s.lookup pr (Desc.sh d) with
          | .bad _ => []
          | .ok m => (tab (Desc.spt d) fun n => s.elemKeys pr (Desc.sh d) m (.ver (Desc.sver d)) false [Desc.sc d + n]).flatten)

/-- Bytes that the acceptance of the oldest DR word of a core touches: sectors written in part, and of a KVAPP the page control word and the
earlier tokens of its block (R301, R383). -/
def drainKeys (s : State) (c : Nat) : List Nat :=
  match (s.core c).stores with
  | [] => []
  | x :: _ =>
    let pr := s.principal c
    let h := Desc.handle x.desc
    let v := destSel x.desc
    match s.lookup pr h with
    | .bad _ => []
    | .ok l =>
      match x.work with
      | .store els scales => partKeys (s.storePlaces pr h l v (els.map (·.t)) (scales.map (·.1)))
      | .token _ _ =>
        (match s.resolve pr h l [0, 0, 0, 0, 0] Right.write v with
         | .bad _ => []
         | .ok p =>
           let pk := p.key / 65536 * 65536 + (if l.fmt = 0x11 then 256 * l.e 2 else 132 * l.e 2)
           if (s.lacking (.drain c) [pk]).isEmpty then
             let t := s.num pk 8 % 128
             let block := if l.fmt = 0x11 then [] else (tab (l.e 2) fun ch => tab (t % 32) fun j => [0, t / 32 * 32 + j, ch, 0, 0]).flatten
             let cells := kvCells l t
             let get := fun (sc : Bool) => (cells.filter fun e => e.2 == sc).map (·.1)
             pk :: (s.storePlaces pr h l v (get false ++ block) (get true)).flatMap placeEnds
           else [pk])
      | _ => []

/-! ## Copy jobs, collectives, interpreters -/

/-- Bytes of the frames of an LZD source up to frame `t` from offset `off` on, as far as their headers are here (R347). -/
def lzdKeys (s : State) (j : Job) (i : Nat) (l : Layout) (lim : Nat) : Nat → Nat → List Nat
  | t, off =>
    let at_ := fun (off n : Nat) => (List.range n).flatMap fun k => s.elemKeys j.principal (j.handle i) l (s.jobSel j i) false [off + k, 0, 0, 0, 0]
    let hdr := at_ off 16
    let h : Option LzdHdr :=
      if lim < off + 16 || !(s.lacking (.job (jobUnit j)) hdr).isEmpty then none
      else
        match s.regionBytes j i l 0 off 16 with
        | .inl _ => none
        | .inr bs => lzdHeader bs off lim
    match t, h with
    | _, none => hdr
    | 0, some h => hdr ++ at_ (off + 16) h.clen
    | n + 1, some h => hdr ++ lzdKeys s j i l lim n (roundUp (off + 16 + h.clen) 16)

/-- Bytes that the next tile of a job touches: its source, its separate scales, and the sectors of its destination written in part (R351). -/
def jobKeys (s : State) (j : Job) : List Nat :=
  let pr := j.principal
  let look := fun (i : Nat) => match s.lookup pr (j.handle i) with
    | .ok l => some l
    | .bad _ => none
  let tuples := fun (i : Nat) (l : Layout) => (tileTuples l (j.shape i) (j.org i) j.tdone).filter fun t => !padded l (j.shape i) t
  if !s.jobReady j then []
  else
    (match j.region 1 with
     | none => []
     | some i =>
       match look i with
       | none => []
       | some l =>
         if j.lzd then s.lzdKeys j i l (j.org i + shBx (j.shape i) 0) j.tdone (j.org i)
         else (tuples i l).flatMap (s.elemKeys pr (j.handle i) l (s.jobSel j i) (j.region 3).isNone)) ++
    (match j.region 3 with
     | none => []
     | some k =>
       match look k with
       | none => []
       | some m =>
         let spt := shBx (j.shape k) 0
         (tab spt fun n => s.elemKeys pr (j.handle k) m (s.jobSel j k) false [j.org k + j.tdone * spt + n, 0, 0, 0, 0]).flatten) ++
    (match j.region 2 with
     | none => []
     | some k =>
       match look k with
       | none => []
       | some l => partKeys (s.storePlaces pr (j.handle k) l (s.jobSel j k) (tuples k l) (if isMx l.fmt then tuples k l else [])))

/-- Bytes that the next move of a collective touches: its contribution, then the sectors of its destination written in part (R408). -/
def collKeys (s : State) (c : Coll) : List Nat :=
  let pr := c.principal
  match c.own, c.put with
  | none, _ =>
    (match s.lookup pr c.src with
     | .bad _ => []
     | .ok l => (recHeads l.fmt (elemCount l)).flatMap fun n => s.elemKeys pr c.src l c.srcSel true (unlinear l.rank l.ext n))
  | some _, none =>
    if s.allArrived c && !c.dstGone then
      let l := layoutOf (Handle.home c.dst) (s.entry (Handle.key c.dst))
      let ts := (recHeads l.fmt (elemCount l)).map (unlinear l.rank l.ext)
      partKeys (s.storePlaces pr c.dst l .draft ts (if isMx l.fmt then ts else []))
    else []
  | _, _ => []

/-- Bytes of the current version of an object that an interpreter reads. -/
def listKeys (s : State) (i : Nat) (h : Word) (off n : Nat) : List Nat :=
  match s.listCheck i h Right.read false with
  | .bad _ => []
  | .ok l =>
    match s.pageKey (Handle.key h) l .live (off / 65536) with
    | .ok k => [k + off % 65536, k + off % 65536 + n - 1]
    | .bad _ => []

/-- Bytes that an entry of a command list reads, or writes in part (R135). -/
def entryKeys (s : State) (i : Nat) (e : ClEntry) : List Nat :=
  if e.typ = 0x01#8 then s.listKeys i e.w1 e.w2.toNat 64
  else if e.typ = 0x03#8 ∨ e.typ = 0x08#8 then s.listKeys i e.w1 e.w2.toNat 8
  else []

/-- Bytes that the turn of an interpreter touches. -/
def interpKeys (s : State) (i : Nat) : List Nat :=
  let k := s.interp i
  match k.hold with
  | some h => if h.entry.typ = 0x08#8 ∧ (s.pcc - h.start) % 64 ≠ 0 then [] else s.entryKeys i h.entry
  | none =>
    let own := s.listKeys i k.clh (32 * k.cli.toNat) 32
    match s.listRead i k.clh (32 * k.cli.toNat) 32 with
    | (.ok bs, _) => if (s.lacking (.interp i) own).isEmpty then own ++ s.entryKeys i (entryOfBytes bs) else own
    | (.bad _, _) => own

/-! ## Harts -/

/-- The entries of page tables that a walk reads. -/
def walkKeys (s : State) (va : Nat) : Nat → Nat → List Nat
  | 0, _ => []
  | lv + 1, base =>
    match s.hartPlace (base + 8 * bitsOf va (12 + 9 * lv) 9) 8 with
    | none => []
    | some r =>
      let pte := s.num r.key 8
      if bitOf pte 0 && !bitOf pte 1 && !bitOf pte 3 then r.key :: walkKeys s va lv (bitsOf pte 10 44 * 4096) else [r.key]

/-- Bytes that an access of a hart touches: the walk, then the place. -/
def hartKeys (s : State) (h va n acc : Nat) : List Nat :=
  let satp := (s.hart h).csrOf 0x180
  let m := fld satp 60 4
  let walk := if m = 9 ∨ m = 10 then s.walkKeys va (if m = 9 then 4 else 5) (fld satp 0 44 * 4096) else []
  walk ++
    (match s.hartTranslate h va acc with
     | .at_ pa =>
       (match s.hartPlace pa n with
        | some r => [r.key, r.key + n - 1]
        | none => [])
     | _ => [])

/-- The access of a hart's instruction: address, bytes, and 1 for a load, 2 for a store or an atomic. -/
def hartAccess (k : Hart) (w : BitVec 32) : Option (Nat × Nat × Nat) :=
  let v := w.toNat
  let x := fun (r : Nat) => k.getX (BitVec.ofNat 5 r)
  let plus := fun (a : Word) (n : Nat) => (a + BitVec.ofNat 64 n).toNat
  let immI := (w.extractLsb' 20 12).signExtend 64
  let immS := ((w.extractLsb' 25 7) ++ (w.extractLsb' 7 5)).signExtend 64
  let size := 2 ^ (bitsOf v 12 3 % 4)
  let offW := cBits v [(10, 3, 3), (6, 1, 2), (5, 1, 6)]
  let offD := cBits v [(10, 3, 3), (5, 2, 6)]
  let a7 := x (8 + bitsOf v 7 3)
  match bitsOf v 0 2, bitsOf v 13 3 with
  | 3, _ =>
    let rs1 := x (bitsOf v 15 5)
    (match bitsOf v 0 7 with
     | 0x03 | 0x07 => some ((rs1 + immI).toNat, size, 1)
     | 0x23 | 0x27 => some ((rs1 + immS).toNat, size, 2)
     | 0x2F => some (rs1.toNat, size, if bitsOf v 27 5 = 2 then 1 else 2)
     | _ => none)
  | 0, 1 | 0, 3 => some (plus a7 offD, 8, 1)
  | 0, 2 => some (plus a7 offW, 4, 1)
  | 0, 5 | 0, 7 => some (plus a7 offD, 8, 2)
  | 0, 6 => some (plus a7 offW, 4, 2)
  | 2, 1 | 2, 3 => some (plus (x 2) (cBits v [(12, 1, 5), (5, 2, 3), (2, 3, 6)]), 8, 1)
  | 2, 2 => some (plus (x 2) (cBits v [(12, 1, 5), (4, 3, 2), (2, 2, 6)]), 4, 1)
  | 2, 5 | 2, 7 => some (plus (x 2) (cBits v [(10, 3, 3), (7, 3, 6)]), 8, 2)
  | 2, 6 => some (plus (x 2) (cBits v [(9, 4, 2), (7, 2, 6)]), 4, 2)
  | _, _ => none

/-- Bytes that the next instruction of a hart touches: those of its code, then those of its access, page by page. -/
def hartTurnKeys (s : State) (h : Nat) : List Nat :=
  let k := s.hart h
  let pc := k.pc.toNat
  let code := s.hartKeys h pc 2 0 ++ s.hartKeys h ((pc + 2) % 2 ^ 64) 2 0
  if !(s.lacking (.hart h) code).isEmpty then code
  else
    match s.hartFetch h with
    | .error _ => code
    | .ok w =>
      match hartAccess k w with
      | none => code
      | some (a, n, acc) =>
        let m := inPage a n
        let part := fun (a n : Nat) =>
          match s.hartTranslate h a acc with
          | .at_ pa => if acc = 2 ∧ bitsOf w.toNat 0 7 ≠ 0x2F ∧ ((s.hartPlace pa n).map (·.kind)).any (fun x => match x with
              | .regs _ => true
              | _ => false) then [] else s.hartKeys h a n acc
          | _ => s.hartKeys h a n acc
        code ++ part a m ++ (if m = n then [] else part ((a + m) % 2 ^ 64) (n - m))

end State

end Sys2Proof.Machine
end

