-- ==== Sys2Proof/Machine/Turns.lean ====
section
/-!
DEFINITION. Who moves next (log entry 1): happenings of the agenda, then retirements, then the turns of the clk, then the package
clock itself; and the placing of an instruction where the next step takes it (log entry 15).
-/

namespace Sys2Proof.Machine

/-- What a step is: an instruction to execute in a state, or a next state without one. -/
inductive Pick where
  | run (s : State) (i : Instr)
  | done (s : State)
deriving Repr

namespace State

/-! ## Control sequencers -/

/-- The row that completes a waiting instruction. -/
def waitRow : WaitKind → Instr
  | .rdv => .rdvComplete
  | .aborte => .aborteRetire
  | .texit => .texitComplete
  | .osub => .osubComplete
  | .flacq => .flacqComplete
  | .tbar => .tbarComplete
  | .oclaim => .oclaimDecide
  | .opub => .opubPublishPoint
  | .kvhand => .kvhandEvent
  | .kvtake => .kvtakeComplete
  | .cwait => .cwaitComplete
  | .clwait => .clwaitComplete

/-- Must service be entered for an engine fault before the next instruction: has V been set for more than 8 clk (R75)? -/
def serviceDue (s : State) (c : Nat) : Bool :=
  let k := s.core c
  !k.ct.sup && k.failed.isNone && engines.any fun e => (k.eng e).fault.v && decide ((k.eng e).faultAt + 8 < s.pcc)

/-- Does the control sequencer of a core move: its task runs, or stops while a KVHAND waits (R389)? -/
def ctMoves (s : State) (c : Nat) : Bool :=
  match (s.core c).phase with
  | .running => true
  | .stopping _ => (s.waiting c .kvhand).isSome
  | _ => false

/-- The turn of a control sequencer: the deadline trap, service for an engine fault, a waiting instruction, the next instruction. -/
def ctTurn (s : State) (c : Nat) : Pick :=
  let at_ := { s with agent := Agent.unit c }
  if !s.ctMoves c then .done s
  else if deadlineDue s c then .run at_ .deadlineTrap
  else if s.serviceDue c then .run at_ .serviceEntryEngineFault
  else
    match (s.core c).ct.wait with
    | some w => .run at_ (waitRow w.kind)
    | none =>
      match s.fetch c (s.core c).ct.pc.toNat 4 with
      | none => .done (s.raiseCt c FCode.fetcherr 0 (s.core c).ct.pc)
      | some bs => .run s (decodeBytes32 bs)

/-! ## Engines -/

/-- The engine turn of a section that must ask for leave again after a stop (R140). -/
def askAgain (s : State) (c : Nat) (e : Eng) : State :=
  let s1 := s.askLeave c e
  let g := (s1.core c).eng e
  if !g.leaveOk then s1
  else
    { s1.modEng c e fun g =>
        { g with
          reLeave := false, leaveOk := false, leaveReq := none
          stampBase := if g.hdr.getLsbD 48 then s.pcc + 64 else g.stampBase
          tracks := g.tracks.map fun t => if t.num = g.secNum then { t with token := true } else t }
      with turns := .seq c (.eng e) :: s1.turns }

/-- A DR word does not issue while a KVAPP is in flight (R383). -/
def tokenFlies (k : Core) (e : Eng) : Bool :=
  e = .dr && k.stores.any fun x =>
    match x.work with
    | .token _ _ => true
    | _ => false

/-- The word at the head of an engine in a section, or the row that looks again at the hold of it. -/
def headTurn (s : State) (c : Nat) (e : Eng) : Pick :=
  let at_ := { s with agent := Agent.unit c }
  match ((s.core c).eng e).hold with
  | .guard => .run at_ (.guardRelease e)
  | .gwait => .run at_ (.gwaitRelease e)
  | .swaitb => .run at_ .swaitbPass
  | .srel => .run at_ .srelRelease
  | .dbarsFull => .run at_ .dbarsRelease
  | .dbarsWait => .run at_ .dbarsRelease
  | .xflush => .run at_ .xflushApplied
  | .vsleep _ => .run at_ .vsleepEffect
  | .none | .estop =>
    match headInstr s c e with
    | none => .done (s.raiseEng c e FCode.fetcherr 0 noElem)
    | some i => .run s i

/-- Has an engine inside a PWR section to ask for leave again before the next word that it issues (R140)? -/
def mustAsk (k : Core) (g : EngSt) : Bool :=
  g.reLeave && g.inSec && k.phase == .running && !(g.redo.isEmpty && (g.ended || g.held || g.wmLeft == some 0))

/-- The turn of an engine: leave after a stop (R140), words to be issued again (R84), the watermark, the header, the word at the head. -/
def engTurn (s : State) (c : Nat) (e : Eng) : Pick :=
  let k := s.core c
  let g := k.eng e
  let at_ := { s with agent := Agent.unit c }
  let busy := decide (s.pcc < g.busyTo) || tokenFlies k e
  if !mayIssue k g then .done s
  else if mustAsk k g then (if busy then .done s else .done (s.askAgain c e))
  else
    match g.redo with
    | w :: _ => if busy then .done s else .run s (decodeEngine e w.w0 w.w1 w.w2)
    | [] =>
      if g.ended || g.held then .done s
      else if g.wmLeft = some 0 then .run at_ (.watermarkHold e)
      else if !g.inSec then .run at_ (.sectionStart e)
      else if busy then .done s
      else s.headTurn c e

/-- The turn of the matrix units of a core: the writes of this clk, then the starts (R282). -/
def arraysTurn (s : State) (c : Nat) : Pick :=
  let again := { s with agent := Agent.unit c, turns := .arrays c :: s.turns }
  if (nextWrite (s.core c) s.pcc).isSome then .run again .matrixCommandWrite
  else if (nextStart (s.core c) s.pcc).isSome then .run again .matrixCommandStart
  else .done s

/-! ## Harts and interpreters -/

/-- The row of an interrupt (R461). -/
def interruptRow (i : Nat) : Instr :=
  if i = 11 ∨ i = 9 then .externalInterrupt else if i = 3 ∨ i = 1 then .softwareInterrupt else .timerInterrupt

/-- The turn of a hart that executes: the interrupt that comes first; a YLOCK that waits; the next instruction. -/
def hartRuns (s : State) (h : Nat) : Pick :=
  let at_ := { s with agent := Agent.unit h }
  if let some i := s.nextInterrupt h then .run at_ (interruptRow i)
  else if (s.hart h).wait.isSome then .run at_ .ylockReleaseDone
  else
    match s.hartFetch h with
    | .error s' => .done s'
    | .ok w => .run s (decode32 w)

/-- The turn of a hart: nothing while it is held or runs the boot ROM; a YSWITCH COMMIT that waits is not interrupted. -/
def hartTurn (s : State) (h : Nat) : Pick :=
  if (s.hart h).held || (s.boot.running && h == 0) then .done s
  else
    match (s.hart h).wait with
    | some (false, _, _, _) => .run { s with agent := .unit h } .yswitchCommitDone
    | _ => s.hartRuns h

/-- The turn of an interpreter: the entry that holds, or the next entry once the time of the last one is over (R135, R137). -/
def interpTurn (s : State) (i : Nat) : Pick :=
  let k := s.interp i
  if k.st ≠ 1 then .done s
  else if k.hold.isSome then .run { s with agent := .unit i } .clEntryResume
  else if s.pcc < k.busyTo ∨ s.entryLocked k.clh then .done s
  else
    match s.listRead i k.clh (32 * k.cli.toNat) 32 with
    | (.bad f, sh) => .done (s.listFault i k.clh sh (s.curv (Handle.key k.clh)) f)
    | (.ok bs, _) =>
      match decodeEntry (entryOfBytes bs) with
      | none => .done (s.listError i 1 0)
      | some e => .run s e

/-! ## The use of the handle caches (R149) -/

/-- The handle of the object that a view of a core maps at an address. -/
def viewHandle (k : Core) (a : Nat) : List Word :=
  match viewAt k a with
  | none => []
  | some v =>
    match v.back with
    | .phys _ => []
    | .version _ h _ | .draft _ h | .live _ h => [h]

/-- The handles that an instruction of a control sequencer resolves: of the view that a load or a store goes through, or that its first
operand holds. -/
def instrHandles (k : Core) (w : BitVec 32) : List Word :=
  let through := fun (i : BitVec 12) (a : BitVec 5) => viewHandle k (k.getX a + i.signExtend 64).toNat
  match decode32 w with
  | .viewLoad _ i a _ => through i a
  | .viewStore _ i a _ => through i a
  | .lq i a _ => through i a
  | .sq i a _ => through i a
  | _ => if w.toNat % 4 = 3 ∧ bitsOf w.toNat 2 5 ∈ [2, 10, 22, 30] then [k.getX (w.extractLsb' 15 5)] else []

/-- The handles of a descriptor. -/
def descHandles (d : List Word) : List Word := [Desc.handle d, Desc.sh d]

/-- The handles that the next turn of an agent resolves: an instruction of a control sequencer, or one that waits; an image to be bound, or
the descriptor of the word at the head of FE or DR. -/
def turnHandles (s : State) (a : Agent) : List Word :=
  match a with
  | .seq c .ct =>
    let k := s.core c
    (match k.ct.wait with
     | some w => k.getX w.a :: (w.list.map fun l => l.flag :: l.pages).getD []
     | none => ((s.fetch c k.ct.pc.toNat 4).map fun bs => instrHandles k (BitVec.ofNat 32 (leNat bs))).getD [])
  | .seq c (.eng .fe) =>
    let k := s.core c
    (match slotWord s c .fe 0 with
     | none => []
     | some w =>
       let f := StWord.ofBits w
       if opcodeOf w = 0x10#8 ∨ opcodeOf w = 0x16#8 then
         (match Core.frame k with
          | some v =>
            match s.viewLoad c (v.base + v.size - f.imm.toNat) 8 with
            | .ok bs => [BitVec.ofNat 64 (leNat bs)]
            | .bad _ => []
          | none => [])
       else descHandles (k.desc f.sd.toNat))
  | .seq c (.eng .dr) => ((slotWord s c .dr 0).map fun w => descHandles ((s.core c).desc (DxWord.ofBits w).sd.toNat)).getD []
  | _ => []

/-- The handles that a happening of the agenda at core `c` resolves: the oldest load or store in flight. -/
def rowHandles (s : State) (c : Nat) (i : Instr) : List Word :=
  match i with
  | .feLoadResolve => (((s.core c).loads.head?).map fun x => descHandles x.desc).getD []
  | .drStoreAccept => (((s.core c).stores.head?).map fun x => descHandles x.desc).getD []
  | .kvappApply => (((s.core c).stores.head?).map fun x => descHandles x.desc).getD []
  | _ => []

/-- The order of use of the lines once a core has used those of the handles given that its cluster's cache holds. -/
def usedLines (s : State) (c : Nat) (hs : Unit → List Word) : List Nat :=
  if s.hcache.isEmpty then s.hused
  else
    let ks := (((hs ()).filter fun h => s.cached (s.principal c) h).map fun h => 128 * Handle.key h + c / 16).eraseDups
    s.hused.filter (fun k => !ks.contains k) ++ ks

/-! ## Who moves -/

/-- The state in which agent `a` moves, the turns `rest` being left; it uses the lines of the handle caches that it hits. -/
def turnTo (s : State) (a : Agent) (rest : List Agent) : State :=
  { s with
    turns := rest, agent := a
    hused := match a with
      | .seq c _ => s.usedLines c fun _ => s.turnHandles a
      | _ => s.hused }

/-- The state in which a happening of the agenda takes place at unit `n`, the happenings `rest` being left. -/
def happenAt (s : State) (n : Nat) (rest : List (Nat × Instr)) : State :=
  { s with
    agenda := rest, agent := .unit n
    hused := s.usedLines n fun _ => (s.agenda.head?.map fun x => s.rowHandles n x.2).getD [] }

/-- The state in which a happening takes place at unit `n` now. -/
def atUnit (s : State) (n : Nat) : State := { s with agent := .unit n }

def runAgent (s : State) (a : Agent) : Pick :=
  match a with
  | .clock | .unit _ => .done s
  | .arrays c => s.arraysTurn c
  | .seq c .ct => s.ctTurn c
  | .seq c (.eng e) => s.engTurn c e
  | .hart h => s.hartTurn h
  | .interp i => s.interpTurn i

/-- The engines whose front section has retired (R19). -/
def retiring (s : State) : Option (Nat × Eng) :=
  s.cores.findSome? fun e => engines.findSome? fun g => if frontDone (e.2.eng g) then some (e.1, g) else none

/-! ## Who reads over the links (R398) -/

/-- The reader that a turn is, with the bytes that it touches. -/
def turnReader (s : State) (a : Agent) : Option (Reader × (Unit → List Nat)) :=
  match a with
  | .seq c .ct =>
    if !s.ctMoves c || deadlineDue s c || s.serviceDue c || (s.core c).ct.wait.isSome then none else some (.ct c, fun _ => s.ctKeys c)
  | .seq c (.eng e) =>
    let k := s.core c
    let g := k.eng e
    if !mayIssue k g || !g.redo.isEmpty || g.ended || g.held || g.wmLeft == some 0 then none else some (.eng c e, fun _ => s.engKeys c e)
  | .hart h =>
    let k := s.hart h
    if k.held || (s.boot.running && h == 0) || k.wait.isSome || (s.nextInterrupt h).isSome then none else some (.hart h, fun _ => s.hartTurnKeys h)
  | .interp i =>
    let k := s.interp i
    if k.st ≠ 1 ∨ (k.hold.isNone ∧ (s.pcc < k.busyTo ∨ s.entryLocked k.clh)) then none else some (.interp i, fun _ => s.interpKeys i)
  | .clock | .unit _ | .arrays _ => none

/-- The reader that a happening at unit `n` is, with the bytes that it touches. -/
def rowReader (s : State) (n : Nat) (i : Instr) : Option (Reader × (Unit → List Nat)) :=
  match i with
  | .feLoadResolve => some (.load n, fun _ => s.loadKeys n)
  | .drStoreAccept => some (.drain n, fun _ => s.drainKeys n)
  | .kvappApply => some (.drain n, fun _ => s.drainKeys n)
  | .copyTile => (s.jobs.find? fun j => jobUnit j = n).map fun j => (.job n, fun _ => s.jobKeys j)
  | .collectiveTimeout => (s.colls.find? fun c => c.cid = n ∧ c.own.isNone).map fun c => (.coll n, fun _ => s.collKeys c)
  | .collectiveComplete => (s.colls.find? fun c => c.cid = n).map fun c => (.coll n, fun _ => s.collKeys c)
  | _ => none

/-- A control sequencer that waits is known to have stood at its instruction in this clk (R158). -/
def noteWait (s : State) (r : Reader) : State :=
  match r with
  | .ct c => s.modCore c fun k => { k with storeHeld := some s.pcc }
  | _ => s

/-- The state after a reader that lacks sectors has asked for them; none when it lacks none. -/
def waitsAway (s : State) (r : Option (Reader × (Unit → List Nat))) : Option State :=
  match r with
  | none => none
  | some (r, keys) => if (s.lacks r keys).isEmpty then none else some ((s.askSectors r (keys ())).noteWait r)

/-- The state in which a reader moves, having what it asked for. -/
def readsDone (s : State) (r : Option (Reader × (Unit → List Nat))) : State :=
  match r with
  | none => s
  | some (r, _) => s.useSectors r

/-- The turn of an agent; it waits while it lacks sectors of other packages (R398). -/
def agentTurn (s : State) (a : Agent) (rest : List Agent) : Pick :=
  let s1 := s.turnTo a rest
  match s1.waitsAway (s1.turnReader a) with
  | some s2 => .done s2
  | none => runAgent (s1.readsDone (s1.turnReader a)) a

/-- A happening of the agenda; one that lacks sectors of other packages is put off to a later clk (R398). -/
def happening (s : State) (n : Nat) (i : Instr) (rest : List (Nat × Instr)) : Pick :=
  let s1 := s.happenAt n rest
  match s1.waitsAway (s1.rowReader n i) with
  | some s2 => .done s2
  | none => .run (s1.readsDone (s1.rowReader n i)) i

/-- Who moves next, and what it does. -/
def pick (s : State) : Pick :=
  match s.agenda with
  | (n, i) :: t => s.happening n i t
  | [] =>
    match s.retiring with
    | some (c, e) => .run (s.atUnit c) (.sectionRetire e)
    | none =>
      match s.turns with
      | a :: t => s.agentTurn a t
      | [] => .done s.tick

/-! ## Placing an instruction (log entry 15) -/

/-- Where a placed instruction stands: a code view of one page over the same physical addresses. -/
def placeAt : Nat := 65536

/-- The task of a core on which a placed instruction is executed. -/
def placeCore : Core :=
  { ct := { pc := BitVec.ofNat 64 placeAt }
    views := [{ base := placeAt, size := 65536, back := .phys placeAt, r := true, w := false, x := true, kind := .code }]
    crid := 1, phase := .running }

/-- An engine that stands at the first word of a section of three word slots with PWR and STP set. -/
def placeEngine (g : EngSt) : EngSt :=
  { g with
    hdrPc := BitVec.ofNat 64 placeAt, ended := false, inSec := true, hdr := BitVec.ofNat 64 (3 * 2 ^ 50 + 3 * 2 ^ 48 + 2 ^ 32), secNum := 1#16
    slot := 0, tracks := [{ num := 1#16 }] }

/-- Is a 32-bit word one of the instructions that only harts execute (R58)? -/
def hartWord (w : Nat) : Bool := w % 128 == 0x7B && bitsOf w 12 3 == 7

/-- The state with an instruction where the next step takes it: a word of 96 bits at the head of its engine on core 0, a command-list entry
as the entry that interpreter 0 has fetched, a word of the harts at the pc of hart 0, any other 32-bit word at the pc of the control
sequencer of core 0. -/
def placeWord (s : State) (nbits w : Nat) : State :=
  let v := w % 2 ^ nbits
  let s := { s with agenda := [] }
  if nbits = 96 then
    let e := engineOf (BitVec.ofNat 96 v)
    let s1 := s.writeNum (placeAt + 8) 36 v
    { s1.setCore 0 ({ placeCore with forkOut := true }.modEng e placeEngine) with turns := [.seq 0 (.eng e)] }
  else if nbits = 256 then
    match decodeEntry (entryOfBytes (natToBytes 32 v)) with
    | some i => { s.setInterp 0 { s.interp 0 with st := 1 } with agenda := [(0, i)] }
    | none => s
  else if hartWord v then
    let s1 := s.modHart 0 fun k => { k with held := false, wait := none }
    { s1.writeNum (s1.hart 0).pc.toNat 4 v with boot := { s1.boot with running := false }, turns := [.hart 0] }
  else { (s.writeNum placeAt 4 v).setCore 0 placeCore with turns := [.seq 0 .ct] }

end State

end Sys2Proof.Machine
end

