-- ==== Sys2Proof/Machine/Step.lean ====
section
/-!
DEFINITION. One step of the machine, and the placing of an instruction where the next step takes it.
-/

namespace Sys2Proof.Machine

/-- What is picked is done: an instruction is executed, or a state without one is next. -/
def perform : Pick → Host.Outcome State Fault Refusal
  | .run s i => exec i s
  | .done s => .next s

/-- One step: the instruction that is picked is executed, or the clock moves on. -/
def step (s : State) : Host.Outcome State Fault Refusal := perform s.pick

/-- The state with the instruction of `nbits` bits `w` where the next step takes it (log entry 15). -/
def State.withFetchWord (s : State) (nbits w : Nat) : State := State.placeWord s nbits w

end Sys2Proof.Machine
end

