-- ==== Sys2Proof/Safety.lean ====
section
/-!
DEFINITION. The terms in which claims about the machine are stated: who takes a step, what a step leaves unchanged, and the invariants
that every step keeps.
-/

namespace Sys2Proof.Machine

/-! ## Invariants -/

/-- Memory stands in its canonical form. -/
def State.MemOk (s : State) : Prop := Memory.wf s.mem = true

/-! ## Steps -/

/-- The number that bytes hold, as an engine word. -/
def wordOf (bs : List Byte) : BitVec 96 := BitVec.ofNat 96 (leNat bs)

/-- Engine `e` of core `c` may issue what stands at its head: it may issue, it is free of the word before, and no KVAPP is in flight. -/
structure MayIssue (s : State) (c : Nat) (e : Eng) : Prop where
  runs : State.mayIssue (s.core c) ((s.core c).eng e) = true
  free : ((s.core c).eng e).busyTo ≤ s.pcc
  token : State.tokenFlies (s.core c) e = false

/-- Engine `e` of core `c` stands at a word of a section with nothing to issue again and nothing that holds it. -/
structure AtWord (s : State) (c : Nat) (e : Eng) : Prop where
  redo : ((s.core c).eng e).redo = []
  ended : ((s.core c).eng e).ended = false
  held : ((s.core c).eng e).held = false
  inSec : ((s.core c).eng e).inSec = true
  room : ((s.core c).eng e).wmLeft ≠ some 0
  leave : ((s.core c).eng e).reLeave = false
  hold : ((s.core c).eng e).hold = .none
  slot : ((s.core c).eng e).slot < ((s.core c).eng e).len

/-- In `s` a reader, with the places that its move touches, has here every sector of other packages that the move needs (R398); an agent that
reads nothing has. -/
def AllHere (s : State) (r : Option (Reader × (Unit → List Nat))) : Prop := ∀ x, r = some x → s.lacks x.1 x.2 = []

/-! ## Scalar instructions -/

/-- The step is one of a control sequencer or of a hart. -/
def Scalar (s : State) : Prop := (∃ c, s.agent = .seq c .ct) ∨ ∃ h, s.agent = .hart h

/-- From `s` to `t` the control sequencer of core `c` has written `v` to `rd` (a write to x0 is discarded) and gone on at `pc`,
having retired one instruction; nothing else of the machine has changed. -/
structure CtWrote (s t : State) (c : Nat) (rd : BitVec 5) (v pc : Word) : Prop where
  regs : ∀ r, (t.core c).getX r = if r = rd ∧ rd ≠ 0#5 then v else (s.core c).getX r
  others : ∃ x, t.core c =
    { s.core c with
      ct := { (s.core c).ct with x := x, pc := pc, instret := (s.core c).ct.instret + 1#64, wait := none } }
  rest : t = s.setCore c (t.core c)

/-- The same of hart `h`. -/
structure HartWrote (s t : State) (h : Nat) (rd : BitVec 5) (v pc : Word) : Prop where
  regs : ∀ r, (t.hart h).getX r = if r = rd ∧ rd ≠ 0#5 then v else (s.hart h).getX r
  others : ∃ x, t.hart h = { s.hart h with x := x, pc := pc, instret := (s.hart h).instret + 1#64 }
  rest : t = s.setHart h (t.hart h)

/-- The agent of `s` has written `v` to `rd` and gone on at `pc`, and nothing else has changed. -/
def Wrote (s t : State) (rd : BitVec 5) (v pc : Word) : Prop :=
  match s.agent with
  | .seq c .ct => CtWrote s t c rd v pc
  | .hart h => HartWrote s t h rd v pc
  | _ => False

/-- The destination and the value of an integer instruction that is no jump, from the registers and the pc. -/
def rvResult (x : BitVec 5 → Word) (pc : Word) : RvOp → Option (BitVec 5 × Word)
  | .r o rd a b => some (rd, Rv.rop o (x a) (x b))
  | .i o rd a imm => some (rd, Rv.iop o (x a) imm)
  | .sh o rd a k => some (rd, Rv.shop o (x a) k.toNat)
  | .un o rd a => some (rd, Rv.unop o (x a))
  | .lui rd imm => some (rd, (imm ++ 0#12).signExtend 64)
  | .auipc rd imm => some (rd, pc + (imm ++ 0#12).signExtend 64)
  | _ => none

/-- Where an instruction that jumps goes, with the register that takes the address after it: JAL, JALR and a branch that is
taken. -/
def jumpOf (s : State) : Instr → Option (BitVec 5 × Word)
  | .rv64IntegerInstruction (.jal rd off) => some (rd, s.pc + (off ++ 0#1).signExtend 64)
  | .rv64IntegerInstruction (.br o a b off) =>
    if Rv.taken o (s.rx a) (s.rx b) then some (0#5, s.pc + (off ++ 0#1).signExtend 64) else none
  | .jalr imm rs1 rd => some (rd, (s.rx rs1 + imm.signExtend 64) &&& ~~~1#64)
  | _ => none

/-- Service has been entered on core `c` (R75): the saved registers, the level and the pc are as the rule says; the x registers,
the stored fault records, memory and every other core stand as they did, and for a fault the task's record holds the progress word
(R40). -/
structure EnteredService (s t : State) (c : Nat) (cause val : Word) : Prop where
  sepc : (t.core c).ct.sepc = (s.core c).ct.pc &&& ~~~3#64
  scause : (t.core c).ct.scause = cause
  stval : (t.core c).ct.stval = val
  spp : (t.core c).ct.spp = (s.core c).ct.sup
  level : (t.core c).ct.sup = true
  pc : (t.core c).ct.pc = (s.core c).ct.stvec
  regs : ∀ r, (t.core c).getX r = (s.core c).getX r
  stvec : (t.core c).ct.stvec = (s.core c).ct.stvec
  sscratch : (t.core c).ct.sscratch = (s.core c).ct.sscratch
  instret : (t.core c).ct.instret = (s.core c).ct.instret
  engines : ∀ e, ((t.core c).eng e).fault = ((s.core c).eng e).fault
  mem : ∀ a, t.byte a = s.byte a
  cores : ∀ d, d ≠ c → t.core d = s.core d
  harts : t.harts = s.harts
  records : ∀ i, Tbl.get 0#64 t.crs i =
    if (cause = 24#64 ∨ cause = 25#64) ∧ i = 8 * (s.core c).crid + 7 then s.progress c else Tbl.get 0#64 s.crs i

/-- From `s` to `t` the control sequencer of core `c` has retired an instruction that went on at pc + 4, and nothing has changed
but what `f` changes in the core. -/
def CtStepped (s t : State) (c : Nat) (f : Core → Core) : Prop :=
  t = s.setCore c
    { f (s.core c) with
      ct := { (s.core c).ct with pc := (s.core c).ct.pc + 4#64, instret := (s.core c).ct.instret + 1#64, wait := none } }

/-- What no instruction of core `c` that only works on the core and the governors changes: every byte, the harts, every other
core, the records. -/
structure OnlyCore (s t : State) (c : Nat) : Prop where
  mem : t.mem = s.mem
  poison : t.poison = s.poison
  cores : ∀ d, d ≠ c → t.core d = s.core d
  harts : t.harts = s.harts
  records : t.crs = s.crs
  yard : t.yard = s.yard
  flags : t.flags = s.flags
  jobs : t.jobs = s.jobs
  regs : t.regs = s.regs

/-- Core `c` holds no power leave: no token, no request, no booking (R82, R451). -/
structure LeaveDropped (t : State) (c : Nat) : Prop where
  held : ∀ x ∈ (t.gov (c / 256)).held, x.1 ≠ c
  reqs : ∀ x ∈ (t.gov (c / 256)).reqs, x.2.1 ≠ c
  books : ∀ x ∈ (t.gov (c / 256)).books, x.1 ≠ c

/-- The engines of core `c` have been stopped by an ABORTE (R82): the issue queue is empty, the counts, FORKS and the records stand, and nothing but
the core and the governors has changed. -/
structure EnginesAborted (s t : State) (c : Nat) : Prop where
  only : OnlyCore s t c
  leave : LeaveDropped t c
  queue : (t.core c).mq = []
  forks : (t.core c).forks = (s.core c).forks
  engines : ∀ e, ((t.core c).eng e).stopped = true ∧ ((t.core c).eng e).retired = ((s.core c).eng e).retired ∧
    ((t.core c).eng e).fault = ((s.core c).eng e).fault
  regs : ∀ r, (t.core c).getX r = (s.core c).getX r

/-- A store of the bytes `bs` at the places `keys` by the control sequencer of core `c`, made in `s`: the bytes stand at the places,
every other byte is as it was, and only the sequencer's pc and its count of retired instructions have changed besides. -/
structure CtStored (s t : State) (c : Nat) (keys : List Nat) (bs : List Byte) : Prop where
  stored : keys.Nodup → ∀ i, i < keys.length → t.byte (nth 0 keys i) = nth 0#8 bs i
  outside : ∀ a, a ∉ keys → t.byte a = s.byte a
  core : t.core c =
    { s.core c with
      poolNote := false
      ct := { (s.core c).ct with pc := (s.core c).ct.pc + 4#64, instret := (s.core c).ct.instret + 1#64, wait := none } }
  cores : ∀ d, d ≠ c → t.core d = s.core d
  rest : t = { s with mem := t.mem, poison := t.poison, l2Poison := t.l2Poison, cores := t.cores, dirty := t.dirty }

/-- A store of `n` bytes of `x` at the place `key` by hart `h`, made in `s`. -/
structure HartStored (s t : State) (h key n x : Nat) : Prop where
  stored : ∀ i, i < n → t.byte (key + i) = BitVec.ofNat 8 (x / 2 ^ (8 * i))
  outside : ∀ a, (∀ i, i < n → a ≠ key + i) → t.byte a = s.byte a
  hart : t.hart h = { s.hart h with pc := (s.hart h).pc + 4#64, instret := (s.hart h).instret + 1#64 }
  harts : ∀ g, g ≠ h → t.hart g = s.hart g
  resvs : t.resvs = s.resvsLeft key n
  rest : t =
    { s with
      mem := t.mem, poison := t.poison, l2Poison := t.l2Poison, harts := t.harts, regs := t.regs, fresh := t.fresh, resvs := t.resvs
      dirty := t.dirty, dirtyGran := t.dirtyGran }

/-- The control sequencer of core `c` executes for a task, at level U. -/
def CtUser (s : State) (c : Nat) : Prop := s.agent = .seq c .ct ∧ (s.core c).ct.sup = false

/-- Record `n` holds what a creation copies from the image `img` (R106): FRAME, DEADLINE, ARG0, ARG1, code, entry and kind, with no
progress. -/
structure RecordFrom (s : State) (n : Nat) (img : List Word) : Prop where
  words : ∀ w ∈ [1, 2, 3, 4], s.cr n w = nth 0#64 img w
  progress : s.cr n 7 = 0#64
  code : s.crCode n = fld (nth 0#64 img 0) 32 32
  entry : s.crEntry n = fld (nth 0#64 img 0) 16 16
  kind : s.crKind n = fld (nth 0#64 img 0) 14 2
  sv : s.crSv n = false
  trg : s.crTrg n = false

/-- Queue `q` holds an entry of record `n` with its deadline. -/
def Queued (s : State) (q n : Nat) : Prop :=
  ∃ e, (e ∈ (s.queue q).head ∨ e ∈ (s.queue q).ring ∨ e ∈ (s.queue q).spill) ∧ e.crid = n ∧ e.gang = [] ∧
    e.deadline = (s.cr n 2).toNat

/-- The task on core `c` of `s` has ended (R120): in `t` the core is idle and empty, the record is free, and no hart and no other core's control
sequencer has changed, unless it waits at a TBAR that the end of a member lets complete (R128). -/
structure TaskEnded (s t : State) (c : Nat) : Prop where
  core : t.core c = { placed := (s.core c).placed, gNow := List.replicate 16 0#2 }
  free : t.crSt (s.core c).crid = 0
  cores : ∀ d, d ≠ c → (∀ w, (s.core d).ct.wait = some w → w.kind ≠ .tbar) → (t.core d).ct = (s.core d).ct
  harts : t.harts = s.harts

/-- The task on core `c` of `s` fails with the CODE and DETAIL given (R76): where its engines have no word to issue and none in flight, it has ended
in `t` and its TASKFAIL notice is posted; else its engines stop from the next clk, and it waits until nothing of its fork is in flight. -/
def TaskFails (s t : State) (c code detail : Nat) : Prop :=
  (s.quietNow c = true → ∃ u, TaskEnded s u c ∧
    t = u.postNotice ((s.core c).crid * 2 ^ 32 + code * 2 ^ 24 + detail * 2 ^ 8 + 5) (s.core c).ct.pc.toNat) ∧
  (s.quietNow c = false → t = s.setCore c
    { s.core c with
      failed := some (code, detail)
      ct := { (s.core c).ct with wait := some { kind := .texit, a := 0#5, b := 0#5, d := 0#5, since := s.pcc } } })

/-- The barrier of team `m` has completed between `s` and `u`, the members being `ms` (R129): the phase count goes on, no arrival stands, and
every task that had arrived and waits at its TBAR has retired it with the phase count before. -/
structure BarrierPassed (s u : State) (m : Team) (ms : List Member) : Prop where
  team : ∃ m', u.team m.id = some m' ∧ m'.phase = (m.phase + 1) % 2 ^ 32 ∧ m'.members = ms.map fun x => { x with arrived := false }
  cores : ∀ e, u.core e =
    match (s.core e).ct.wait with
    | some w =>
      if w.kind = .tbar ∧ (∃ x ∈ ms, x.arrived = true ∧ x.crid = (s.core e).crid) then ((s.core e).setX w.d (BitVec.ofNat 64 m.phase)).retire
      else s.core e
    | none => s.core e
  rest : u = { s with teams := u.teams, cores := u.cores, turns := u.turns }

/-- The control sequencer of core `c` waits at an instruction of the kind given, and nothing else has changed. -/
def WaitsAt (s t : State) (c : Nat) (kind : WaitKind) : Prop :=
  ∃ w, w.kind = kind ∧ t = s.setCore c { s.core c with ct := { (s.core c).ct with wait := some w } }

/-! ## Object instructions -/

/-- The second check of R160 passes for the task on core `c`: the walk of the handle can be made, the handle and the entry pass their checks with
layout `l`, a live route leads to the home where the instruction reads or changes the entry there (R399), and the rights suffice. -/
structure GrantedAt (s : State) (c : Nat) (h : Word) (need : Nat) (flagOp home atHome : Bool) (l : Layout) : Prop where
  walk : (s.entryLocked h && (home || !s.cached (s.principal c) h)) = false
  found : s.lookup (s.principal c) h = .ok l
  route : atHome = true → s.liveRoute (Handle.home h) = true
  rights : s.checkRights (s.principal c) h l need flagOp = none

/-- The same of an instruction that reads or changes the entry at its home. -/
def Granted (s : State) (c : Nat) (h : Word) (need : Nat) (flagOp home : Bool) (l : Layout) : Prop := GrantedAt s c h need flagOp home true l

/-- Does an object instruction read or change the entry at its home?  All do but OINFO of an item that the resolution gives (R165). -/
def objectAtHome (s : State) : Instr → Bool
  | .oinfo b _ _ => (s.rx b).toNat == 0 || decide (8 ≤ (s.rx b).toNat)
  | _ => true

/-- What an object instruction that finds its entry locked does: OSUB and FLACQ begin to wait, the others are tried again (R34, R420). -/
def ObjectHeld (s : State) (c : Nat) (i : Instr) (t : State) : Prop :=
  match i with
  | .osub _ _ _ => WaitsAt s t c .osub
  | .flacq _ _ _ => WaitsAt s t c .flacq
  | _ => t = s

/-- The handle, the rights, whether it is a flag's operation and whether it takes place at the home, of an object instruction whose
operands are listed (R160). -/
def objectUse (s : State) : Instr → Option (Word × Nat × Bool × Bool)
  | .oclaim b a _ => if (s.rx b).toNat ≤ 1 then some (s.rx a, Right.write, false, true) else none
  | .opub a _ => some (s.rx a, Right.publish, false, true)
  | .osub b a _ => if (s.rx b).toNat < 2 ^ 32 then some (s.rx a, Right.read, false, false) else none
  | .opin b a _ => if (s.rx b).toNat < 2 ^ 32 then some (s.rx a, Right.read, false, true) else none
  | .ounpin b a => if (s.rx b).toNat ≠ 0 ∧ (s.rx b).toNat < 2 ^ 32 then some (s.rx a, Right.read, false, true) else none
  | .oview b a _ =>
    if s.rx b = BitVec.allOnes 64 then some (s.rx a, Right.write, false, false)
    else if (s.rx b).toNat < 2 ^ 32 then some (s.rx a, Right.read, false, false)
    else none
  | .over a _ => some (s.rx a, Right.read, false, false)
  | .oinfo b a _ => if (s.rx b).toNat ≤ 11 then some (s.rx a, if (s.rx b).toNat = 9 then 0 else Right.read, false, false) else none
  | .flrel _ a => some (s.rx a, Right.publish, true, true)
  | .flacq _ a _ => some (s.rx a, Right.read, true, false)
  | .fltest _ a _ => some (s.rx a, Right.read, true, false)
  | _ => none

/-- Is the instruction one of the object instructions that name a handle? -/
def isObject : Instr → Bool
  | .oclaim _ _ _ | .opub _ _ | .osub _ _ _ | .opin _ _ _ | .ounpin _ _ | .oview _ _ _ | .over _ _ | .oinfo _ _ _ | .flrel _ _
  | .flacq _ _ _ | .fltest _ _ _ => true
  | _ => false

/-- Core `c` tries a waiting instruction with the register fields given: at its issue, or at its later happening `later` while it waits. -/
def Tries (s : State) (c : Nat) (kind : WaitKind) (a b d : BitVec 5) (first later i : Instr) : Prop :=
  (i = first ∧ s.agent = .seq c .ct) ∨
    (i = later ∧ s.agent = .unit c ∧ ∃ w, s.waiting c kind = some w ∧ w.a = a ∧ w.b = b ∧ w.d = d)

/-- The outcome where a waiting instruction cannot complete: it waits from now on, or goes on waiting. -/
def StillWaits (s t : State) (c : Nat) (kind : WaitKind) (first i : Instr) : Prop :=
  if i = first then WaitsAt s t c kind else t = s

/-! ## Harts -/

/-- Hart `h` executes a privileged instruction in S or M. -/
def HartPriv (s : State) (h : Nat) : Prop := s.agent = .hart h ∧ (s.hart h).mode ≠ 0

/-- From `s` to `t` hart `h` has ended an instruction at which it may have waited: `v` in `rd`, the pc at the next instruction, and nothing
else of the hart but the wait and the PTE kept for it. -/
structure HartEnded (s t : State) (h : Nat) (rd : BitVec 5) (v : Word) : Prop where
  regs : ∀ r, (t.hart h).getX r = if r = rd ∧ rd ≠ 0#5 then v else (s.hart h).getX r
  others : ∃ x o, t.hart h =
    { s.hart h with x := x, pc := (s.hart h).pc + 4#64, instret := (s.hart h).instret + 1#64, wait := none, oldPte := o }
  harts : ∀ g, g ≠ h → t.hart g = s.hart g
  cores : t.cores = s.cores

/-! ## Hand-over lists -/

/-- Core `c` reads the hand-over list `l` at the view address `a` (R387). -/
structure HandReads (s : State) (c : Nat) (a : Word) (l : HandList) : Prop where
  aligned : a.toNat % 64 = 0
  count : 0 < l.pages.length ∧ l.pages.length ≤ 64
  team : l.team < 2 ^ 16
  free : ∀ i < 2 + l.pages.length, s.viewHeld c (a.toNat + 8 * i) 8 1 = false
  head : ∀ i < 2, ∃ bs, s.viewLoad c (a.toNat + 8 * i) 8 = .ok bs ∧
    BitVec.ofNat 64 (leNat bs) = nth 0#64 [l.flag, BitVec.ofNat 64 (l.pages.length * 2 ^ 32 + l.team)] i
  pages : ∀ i < l.pages.length, ∃ bs, s.viewLoad c (a.toNat + 16 + 8 * i) 8 = .ok bs ∧ BitVec.ofNat 64 (leNat bs) = nth 0#64 l.pages i

/-- The checks that KVHAND makes of its pages at issue pass (R389). -/
def HandChecks (s : State) (c : Nat) (ps : List Word) : Prop :=
  ∀ h ∈ ps, s.entryLocked h = false ∧
    ∃ l, s.lookup (s.principal c) h = .ok l ∧ l.flg = false ∧ l.tord = 3 ∧
      s.checkRights (s.principal c) h l (Right.hand + Right.publish) false = none

/-- Word RL0 of an entry is V = 1, KIND 3, and its ID is the team given (R389, R391). -/
def OwnedBy (s : State) (key team : Nat) : Prop :=
  let r := fld (s.ew key 14) 0 32
  bitOf r 31 = true ∧ bitsOf r 24 3 = 3 ∧ bitsOf r 0 24 = team

/-- A page of a KVHAND of core `c` meets the conditions of R389: a live route leads to its home, the caller or its team has claimed it, and it is
its team's. -/
def HandsOver (s : State) (c : Nat) (h : Word) : Prop :=
  s.liveRoute (Handle.home h) = true ∧ s.holds (s.principal c) (Handle.key h) = true ∧ OwnedBy s (Handle.key h) (s.principal c).team

/-- A page of a KVTAKE of core `c` meets the conditions of R391: its handle and entry pass their checks, a live route leads to its home, it is the
team's, another pin of CURV can be counted, and it may be read. -/
def Takes (s : State) (c : Nat) (h : Word) : Prop :=
  ∃ l, s.lookup (s.principal c) h = .ok l ∧ s.liveRoute (Handle.home h) = true ∧ OwnedBy s (Handle.key h) (s.principal c).team ∧
    s.pinOf (Handle.key h) 3 ≠ 2 ^ 32 - 1 ∧ s.checkRights (s.principal c) h l Right.read false = none

/-- Core `c` has a hand-over list `l`, of different objects, before it: KVHAND or KVTAKE reads it, and its checks at issue pass (`checks`), or it
waits with the list that it read at issue (R387, R389, R391). -/
def HandTries (s : State) (c : Nat) (kind : WaitKind) (a b d : BitVec 5) (first later i : Instr) (l : HandList)
    (checks : HandList → Prop) : Prop :=
  ((l.flag :: l.pages).map Handle.key).Nodup ∧
    ((i = first ∧ s.agent = .seq c .ct ∧ (s.principal c).team ≠ 0 ∧ HandReads s c ((s.core c).getX a) l ∧ checks l) ∨
      (i = later ∧ s.agent = .unit c ∧ ∃ w, s.waiting c kind = some w ∧ w.a = a ∧ w.b = b ∧ w.d = d ∧ w.list = some l))

/-! ## Copy jobs and collectives -/

/-- A job is accepted with the table entry `j`, the layouts and versions `rs` of its regions in use, from tile `j.tdone` on (R356, R361). -/
structure JobPasses (s : State) (c : Nat) (j : Job) (rs : List (Nat × Layout × Nat)) : Prop where
  jid : j.jid = s.freeJid (c / 256) (s.core c).crid
  ord : j.ord = s.order
  who : j.principal = { s.principal c with cluster := none } ∧ j.core = c ∧ j.die = c / 256 ∧ j.crid = (s.core c).crid
  fresh : j.st = 0 ∧ j.fcode = 0 ∧ j.fdetail = 0 ∧ j.felem = 0 ∧ j.freg = 0 ∧ j.poolNote = false ∧ j.orphan = false
  card : cardBad { j with shapes := [], vers := [], foot := [] } = false
  shaped : ∀ i < 4, j.used i = true → (s.findShape (c / 256) (s.core c).crid (j.shapeId i)).isSome = true
  shapes : j.shapes = (List.range 4).map fun i => ((s.findShape (c / 256) (s.core c).crid (j.shapeId i)).map Shape.w).getD []
  chain : chainBad { j with vers := [], foot := [] }
    (match s.peekFmt { j with vers := [], foot := [] } 1 with
      | some f => .elem f
      | none => .later) (s.peekFmt { j with vers := [], foot := [] } 2) = none
  walks : ∀ i < 4, j.used i = true → s.handleForm (j.handle i) = true → s.entryLocked (j.handle i) = false
  regions : s.regionsCheck { j with vers := [], foot := [] } (List.range 4) = .ok rs
  packs : (j.has 5 && !pfmtOk j.pfmt) = false
  flat : ∀ e ∈ rs, (j.lzd = true ∧ j.role e.1 = 1) ∨ j.role e.1 = 3 → e.2.1.fmt = 0x00 ∧ e.2.1.rank = 1
  geometry : geomFault { j with vers := [], foot := [] } (rs.map fun e => (e.1, e.2.1)) = none
  apart : s.overlaps { j with vers := [], foot := [] } rs j.tdone = false
  vers : j.vers = (List.range 4).map fun i => ((rs.find? fun e => e.1 = i).map (·.2.2)).getD 0
  foot : j.foot = rs.map fun e => s.footOf { j with vers := [], foot := [] } e j.tdone

/-- A collective's card passes the checks of R405 up to the group's members. -/
structure CollPasses (s : State) (c : Nat) (k : ClCard) (src dst grp : Layout) (ms : List Nat) : Prop where
  legal : s.clIllop c k = false
  walks : ∀ h ∈ [k.src, k.dst, k.grp], s.handleForm h = true → s.entryLocked h = false
  srcOk : s.clObject c k.src Right.read (fun _ => s.clSel k) = .ok src
  dstOk : s.clObject c k.dst Right.write (fun _ => .draft) = .ok dst
  grpOk : s.clObject c k.grp Right.read (fun _ => .ver (s.curv (Handle.key k.grp))) = .ok grp
  formats : State.clFmtFault k src dst grp = none
  members : s.groupMembers (s.principal c) k.grp grp (.ver (s.curv (Handle.key k.grp))) = .inr ms
  proper : (∀ m ∈ ms, m ≤ 2047) ∧ ms.eraseDups.length = ms.length

/-! ## Engine words -/

/-- The word at the head of engine `e` of core `c` executes: its guard is well formed, and unless the word is issued again
under R84 the guard takes it. -/
structure Executes (s : State) (c : Nat) (e : Eng) (g : Guard) : Prop where
  agent : s.agent = .seq c (.eng e)
  form : guardBreaks g = false
  taken : ((s.core c).eng e).redo = [] → s.guardTake c g = some true

/-- The word that engine `e` of core `c` issues in `s`, of `slots` word slots, has issued with the effect that leads to `s1`. -/
def issuedFrom (s s1 : State) (c : Nat) (e : Eng) (slots : Nat) : State :=
  s1.issued c e slots (((s.core c).eng e).place.2 + slots - 1)

/-- A vector word of form `F` executes and can issue: its fields and registers are those of its form, its unit is free, the banks it names
are awake and no earlier result reaches its destination in the clk of its own (R47, R244, R248, R249). -/
structure VectorReady (s : State) (c : Nat) (g : Guard) (F : VForm) (f : VrWord) (unit lat : Nat) : Prop where
  executes : Executes s c .ma g
  legal : F.illop f = none
  free : s.pcc ≥ Tbl.get 0 (s.core c).unitBusy unit
  warm : (s.core c).cold F f = false
  port : wportHit (s.core c) (s.pcc + lat) ((s.core c).out F.d f.d.toNat []) = false

/-- Element `e` of an operand of the role given, by its name `x` (R44, R254). -/
def operandAt (k : Core) (r : Role) (x e : Nat) : Nat :=
  match r with
  | .v => nth 0 (k.readV x) e
  | .w => nth 0 (k.readV x) e + 2 ^ 32 * nth 0 (k.readV (x + 1)) e
  | _ => 0

/-- Element `e` of operand B: the immediate, extended to 64 bits for a pair, where BI is set (R250). -/
def operandBAt (k : Core) (F : VForm) (f : VrWord) (e : Nat) : Nat :=
  if f.bi then (if F.b = .w then (f.imm.signExtend 64).toNat else f.imm.toNat) else operandAt k F.b f.b.toNat e

/-- What is left when a vector word has issued: its results `els` are on their way to the destination that form `F` names. -/
def vectorIssued (s : State) (c : Nat) (F : VForm) (f : VrWord) (unit occ lat : Nat) (els : List (Option Nat)) : State :=
  issuedFrom s (maLaunch s c .ma unit occ lat ((s.core c).out F.d f.d.toNat els)) c .ma 1

/-! ## Command lists -/

/-- The entry of a command-list instruction, and whether its fields are those of R134 and in their ranges (R137 code 2). -/
def entryLegal : Instr → Option (ClEntry × Bool)
  | .launch e =>
    some (e, e.w0 &&& ~~~0xFFFFFFFE000001FF#64 == 0#64 && (e.lvl == 1 || e.lvl == 2) && decide (e.w2.toNat < 2 ^ 32 ∧ e.w2.toNat % 64 = 0) &&
      (!e.teamf || (e.lvl == 1 && decide (e.count ≤ 256))))
  | .waitev e =>
    some (e, e.w0 &&& ~~~0x000F0000000001FF#64 == 0#64 && e.w3 == 0#64 && (!e.w0.getLsbD 8 || (e.w1 == 0#64 && e.w2 == 0#64)))
  | .skipif e => some (e, e.w0 &&& ~~~0xFFFF0000000003FF#64 == 0#64 && decide (0 < fld e.w0 48 16) && decide (e.w2.toNat % 8 = 0))
  | .jump e | .call e | .signal e => some (e, e.w0 &&& ~~~0xFF#64 == 0#64 && e.w3 == 0#64)
  | .publish e => some (e, e.w0 &&& ~~~0xFF#64 == 0#64 && decide (e.w2.toNat % 8 = 0))
  | .preempt e => some (e, e.w0 &&& ~~~0xFFFFE000000001FF#64 == 0#64 && e.w3 == 0#64)
  | .pass e => some (e, e.w0 &&& ~~~0x000F0000000000FF#64 == 0#64 && decide (fld e.w0 48 4 ≤ 8) && e.w3 == 0#64)
  | .ret e | .endList e => some (e, e.w0 &&& ~~~0xFF#64 == 0#64 && e.w1 == 0#64 && e.w2 == 0#64 && e.w3 == 0#64)
  | _ => none

/-- Interpreter `i` executes the legal entry `e` by the row `j`, with the hold `h`, in the state `s0`: it begins the entry (at its own row `first`,
with its time of 16 clk running), or goes on with it while it holds. -/
structure ListTries (s : State) (i : Nat) (e : ClEntry) (first j : Instr) (h : ClHold) (s0 : State) : Prop where
  unit : s.unit = i
  legal : entryLegal first = some (e, true)
  tries : (j = first ∧ (s.interp i).st = 1 ∧ (s.interp i).hold = none ∧ h = { entry := e, start := s.pcc } ∧
      s0 = s.setInterp i { s.interp i with busyTo := max (s.interp i).busyTo (s.pcc + 16) }) ∨
    (j = .clEntryResume ∧ (s.interp i).hold = some h ∧ h.entry = e ∧ decodeEntry e = some first ∧ s0 = s)

/-- Interpreter `i` has completed its entry and stands at entry `n` of the list `l`. -/
def listAt (s : State) (i : Nat) (l n : Word) : State := s.setInterp i { s.interp i with clh := l, cli := n, hold := none }

/-- Interpreter `i` has completed its entry and stands at the next one. -/
def listNext (s : State) (i : Nat) : State := listAt s i (s.interp i).clh ((s.interp i).cli + 1#64)

/-- Interpreter `i` holds at its entry, which takes at least 16 clk. -/
def listHeld (s : State) (i : Nat) (h : ClHold) : State :=
  s.setInterp i { s.interp i with hold := some h, busyTo := max (s.interp i).busyTo (h.start + 16) }

/-- Nothing but interpreter `i` has changed, which is now `k`. -/
structure OnlyInterp (s t : State) (i : Nat) (k : Interp) : Prop where
  at_ : t.interp i = k
  others : ∀ n, n ≠ i → t.interp n = s.interp n
  rest : t = { s with interps := t.interps }

/-- The template of a LAUNCH whose hold is `h` is `img`: read and checked before its first record, kept after it. -/
def Template (s : State) (i : Nat) (h : ClHold) (img : List Word) : Prop :=
  if h.made = [] then
    ¬ ((h.entry.depen = true ∧ nth 0 (s.interp i).slots h.entry.dep ≠ 0) ∨ nth 0 (s.interp i).slots h.entry.ts ≠ 0) ∧
      ((h.img = [] ∧ s.entryLocked h.entry.w1 = false ∧ ∃ bs sh, s.listRead i h.entry.w1 h.entry.w2.toNat 64 = (.ok bs, sh) ∧ words64 8 bs = img) ∨
        (h.img ≠ [] ∧ h.img = img)) ∧ s.templateBad h.entry img = none
  else h.img = img ∧ img ≠ []

/-! ## Bring-up -/

/-- A message of type `typ` of the management server answers the request of type `req` that is outstanding (R442): its header and the length
of its body are those of its type, and its SEQ is that of the request. -/
structure Answers (s : State) (req typ : Nat) (lenOk : Nat → Prop) (m : List Byte) : Prop where
  running : s.boot.running = true
  waits : s.boot.retryAt = none
  request : s.boot.req = req
  magic : leNat (m.take 4) = 0x56594E42
  typ : (nth 0#8 m 4).toNat = typ
  ver : nth 0#8 m 5 = 1#8
  header : 16 ≤ m.length
  length : leNat ((m.drop 12).take 4) = m.length - 16
  allowed : lenOk (m.length - 16)
  seq : leNat ((m.drop 8).take 4) = s.boot.seq

/-- The boot ROM has sent a request and waits for its answer (R442). -/
def bootSent (s : State) (b : Boot) (typ : Nat) (body : List Byte) : State :=
  { s with
    eth := s.eth ++ [(b.port, Bmsg.build typ (b.seq + 1) body)]
    boot := { b with seq := b.seq + 1, req := typ, msg := Bmsg.build typ (b.seq + 1) body, tries := 1, since := s.pcc } }

end Sys2Proof.Machine
end

