-- ==== Sys2Proof/Certificates/Slice0/Obligations.lean ====
section
/-!
DEFINITION. The statements for the provers.  Each docstring names the rules of the spec it rests on.
-/

open Sys2Proof Sys2Proof.Machine

/-! ## Encodings -/

/-- R56, R57, R70: the encoding of a well-formed scalar instruction decodes to it, as a word and as stored bytes. -/
def Obligations.ScalarEncodingsRoundTrip : Prop :=
  ∀ (i : Instr) (w : BitVec 32), i.wf = true → encode32 i = some w →
    decode32 w = i ∧ decodeBytes32 (natToBytes 4 w.toNat) = i

/-- R46 to R53, R60 to R62, R134: the word of an instruction of an engine's map decodes to it in that map, and the 32 bytes of a command-list entry to its
instruction. -/
def Obligations.EngineWordsAndListEntriesRoundTrip : Prop :=
  (∀ (e : Eng) (i : Instr), i.wf = true → inMap e i = true →
    ∃ w, encode96 i = some w ∧
      ((∀ g f, i ≠ .vnest g f) → ∀ w1 w2, decodeEngine e w w1 w2 = i) ∧
      (∀ g f, i = .vnest g f → decodeEngine e w f.w1 f.w2 = i) ∧
      ∀ bs, encode i = some bs → decodeBytes96 e bs = i) ∧
  ∀ (i : Instr) (e : ClEntry), i.wf = true → encodeEntry i = some e →
    ∃ bs, encode i = some bs ∧ bs.length = 32 ∧ entryOfBytes bs = e ∧ decodeEntry (entryOfBytes bs) = some i

/-- R57, R58, R79, R88, R89: words written out from the spec's encodings. -/
def Obligations.ListedWordsDecode : Prop :=
  decode32 0x0020128B#32 = .secq 2#2 5#5 ∧
  decode32 0x0002800B#32 = .fork 5#5 ∧
  decode32 0x0603038B#32 = .pleave 6#5 7#5 ∧
  decode32 0x0033200B#32 = .gset 3#4 6#5 ∧
  decode32 0x0070700B#32 = .svc 7#12 ∧
  decode32 0x0080B283#32 = .viewLoad .ld 8#12 1#5 5#5 ∧
  decodeEngine .ma 0x010040030000000A00000000#96 0#96 0#96 = .loop ⟨false, false, 0#4, 0#2⟩ ⟨1#2, 3#14, 10#32, 0#32⟩ ∧
  decodeEngine .ma 0x10CC214C0000000000000000#96 0#96 0#96 =
    .vadd ⟨true, true, 3#4, 0#2⟩ ⟨4#5, 5#5, 6#5, 0#5, 0#4, false, false, 0#4, false, 0#1, 0#32, 0#16⟩ ∧
  decodeEngine .ma 0x1300D640D002BF0000000000#96 0#96 0#96 =
    .vfma ⟨false, false, 0#4, 0#2⟩ ⟨26#5, 25#5, 0#5, 13#5, 0#4, false, false, 0#4, true, 0#1, 0xBF000000#32, 0#16⟩ ∧
  decodeEngine .fe 0x110021400000800000000000#96 0#96 0#96 =
    .sload ⟨false, false, 0#4, 0#2⟩ ⟨2#4, 5#6, 0#5, 0#5, 0#4, false, 0#4, 1#4, 0#15, 0#32⟩ ∧
  decodeEngine .ma 0x800000104102150000000000#96 0#96 0#96 =
    .mmac ⟨false, false, 0#4, 0#2⟩ ⟨16#16, 1#2, 4#8, 2#6, 5#6, 8#5, 0#4, 0#16, 0#17⟩ ∧
  decodeEngine .ma 0x650028DC4000000000000000#96 0#96 0#96 =
    .moaxpy ⟨false, false, 0#4, 0#2⟩ ⟨5#5, 3#5, 14#5, 4#5, 0#4, false, false, 0#4, false, 0#1, 0#32, 0#16⟩ ∧
  decodeEngine .dr 0x220000000000180000000006#96 0#96 0#96 =
    .xacc ⟨false, false, 0#4, 0#2⟩ ⟨0#8, 0#6, 0#4, 0#3, 0#8, 0#4, 6#5, 0#4, 0#6, 6#32⟩ ∧
  decodeEngine .fe 0x020000000000000000000000#96 0#96 0#96 = .unassignedEngineOpcode 0x020000000000000000000000#96

/-! ## Steps, reset and the memory's form -/

/-- R15, R46, R56, R84, R132, R398: what a step executes.  The order of the agents is the model's (log entry 1), and so is when a read over the links
is asked for (log entry 45). -/
def Obligations.StepRunsTheDecodedInstruction : Prop :=
  (∀ (s : State) n i t, s.agenda = (n, i) :: t →
    let s0 := s.happenAt n t
    let r := s0.rowReader n i
    (AllHere s0 r → step s = exec i (s0.readsDone r)) ∧
    ∀ x, r = some x → s0.lacks x.1 x.2 ≠ [] → step s = .next ((s0.askSectors x.1 (x.2 ())).noteWait x.1)) ∧
  (∀ (s : State) a rest, s.agenda = [] → s.retiring = none → s.turns = a :: rest → ∀ x, (s.turnTo a rest).turnReader a = some x →
    (s.turnTo a rest).lacks x.1 x.2 ≠ [] → step s = .next (((s.turnTo a rest).askSectors x.1 (x.2 ())).noteWait x.1)) ∧
  (∀ (s : State) a rest, s.agenda = [] → s.retiring = none → s.turns = a :: rest → AllHere (s.turnTo a rest) ((s.turnTo a rest).turnReader a) →
    let s1 := (s.turnTo a rest).readsDone ((s.turnTo a rest).turnReader a)
    (∀ c bs, a = .seq c .ct → s1.ctMoves c = true → deadlineDue s1 c = false →
      s1.serviceDue c = false → (s.core c).ct.wait = none →
      s1.fetch c (s.core c).ct.pc.toNat 4 = some bs →
      step s = exec (decodeBytes32 bs) s1) ∧
    (∀ c e w r, a = .seq c (.eng e) → MayIssue s c e → ((s.core c).eng e).reLeave = false → ((s.core c).eng e).redo = w :: r →
      step s = exec (decodeEngine e w.w0 w.w1 w.w2) s1) ∧
    (∀ c e bs, a = .seq c (.eng e) → MayIssue s c e → AtWord s c e →
      s1.fetch c (((s.core c).eng e).hdrPc.toNat + 8 + 12 * (((s.core c).eng e).slot + 0)) 12 = some bs →
      opcodeOf (wordOf bs) ≠ 0x58#8 → step s = exec (decodeEngine e (wordOf bs) 0#96 0#96) s1) ∧
    (∀ c b0 b1 b2, a = .seq c (.eng .ma) → MayIssue s c .ma → AtWord s c .ma → (s.core c).ma.slot + 2 < (s.core c).ma.len →
      (∀ n b, (n, b) ∈ [(0, b0), (1, b1), (2, b2)] →
        s1.fetch c ((s.core c).ma.hdrPc.toNat + 8 + 12 * ((s.core c).ma.slot + n)) 12 = some b) →
      opcodeOf (wordOf b0) = 0x58#8 →
      step s = exec (decodeEngine .ma (wordOf b0) (wordOf b1) (wordOf b2)) s1) ∧
    (∀ h w, a = .hart h → (s.hart h).held = false → (s.boot.running && h == 0) = false → (s.hart h).wait = none →
      s1.nextInterrupt h = none → s1.hartFetch h = .ok w →
      step s = exec (decode32 w) s1) ∧
    (∀ i bs sh e, a = .interp i → (s.interp i).st = 1 → (s.interp i).hold = none → (s.interp i).busyTo ≤ s.pcc →
      s1.entryLocked (s.interp i).clh = false →
      s1.listRead i (s.interp i).clh (32 * (s.interp i).cli.toNat) 32 = (.ok bs, sh) →
      decodeEntry (entryOfBytes bs) = some e → step s = exec e s1))

/-- R27: the PCC, of 64 bits, advances by one every clk. -/
def Obligations.ClockAdvancesByOne : Prop :=
  (∀ s : State, s.agenda = [] → s.retiring = none → s.turns = [] → s.inReset = true →
    ∃ t, step s = .next t ∧ t.pcc = s.pcc ∧ t.inReset = true ∧ t.turns = [] ∧ (t.agenda = [] ∨ t.agenda = [(0, .packageResetRelease)])) ∧
  ∀ s : State, s.agenda = [] → s.retiring = none → s.turns = [] → s.inReset = false →
    ∃ t, step s = .next t ∧ t.pcc = (s.pcc + 1) % 2 ^ 64 ∧ t.inReset = false ∧
      ∀ a, a ∈ t.turns ↔
        (∃ c ∈ t.activeCores, a = .arrays c ∨ ∃ q, a = .seq c q) ∨ (∃ h k, (h, k) ∈ t.harts ∧ k.held = false ∧ a = .hart h) ∨
          ∃ i k, (i, k) ∈ t.interps ∧ k.st = 1 ∧ a = .interp i

/-- R27, R42, R414, R440: the machine right after package reset. -/
def Obligations.ResetLeavesTheSpecifiedValues : Prop :=
  let s := State.reset
  s.pcc = 0 ∧ s.boot.running = true ∧ s.boot.step = 1 ∧ (s.hart 0).held = false ∧
  (∀ h, h ≠ 0 → (s.hart h).held = true) ∧ (∀ q, (s.queue q).head = [] ∧ (s.queue q).ring = []) ∧
  (∀ c r, (s.core c).getX r = 0#64) ∧ (∀ c n, (s.core c).readV n = zeros ∧ (s.core c).readP n = 0#1024) ∧
  (∀ c r, (s.core c).physM r = List.replicate 1024 (0#32, 0#32)) ∧
  (∀ c e, ((s.core c).eng e).retired = 0#16 ∧ ((s.core c).eng e).fault = {} ∧ ((s.core c).eng e).mkv = 0#32 ∧
    ((s.core c).eng e).loops = List.replicate 4 {}) ∧
  (∀ c, (s.core c).ct.pc = 0#64 ∧ (s.core c).ct.sup = false ∧ (s.core c).vrb = 0#4 ∧ (s.core c).prb = 0#3 ∧
    (s.core c).live = 16#5 ∧ (s.core c).mctl = 0#32 ∧ (s.core c).forkOut = false ∧ (s.core c).forks = 0#16 ∧
    (s.core c).mq = [] ∧ (s.core c).winBind = none ∧ (s.core c).win = [] ∧ (s.core c).scFail = false ∧
    (s.core c).tiles = [] ∧ (s.core c).slots = [] ∧ (s.core c).sd = [] ∧
    (s.core c).gNow = List.replicate 16 0#2 ∧ (s.core c).cb = List.replicate 16 false) ∧
  (∀ p, (s.port p).st = 1) ∧ (∀ i, (s.interp i).st = 0 ∧ (s.interp i).clh = 0#64 ∧ (s.interp i).cli = 0#64) ∧
  (∀ off ∈ [0x8, 0x10, 0x18, 0x20, 0x4000, 0x5008, 0x5018, 0x6008, 0x6010, 0x6018, 0x7100, 0x7200, 0xA008, 0xA010, 0xA100, 0xB000, 0xB240,
    0xC000, 0xD008, 0xD018, 0xE200, 0xE400, 0x10000, 0x20000], s.reg off = 0#64) ∧
  s.reg 0x7000 = 0x40000000#64 ∧ s.reg 0x7008 = 0x40000000#64 ∧ (∀ h, h < 64 → s.reg (0xE000 + 8 * h) = BitVec.allOnes 64) ∧
  s.MemOk

/-- The canonical form of memory (the model's own, log entry 3) is kept by every step of every agent. -/
def Obligations.EveryStepKeepsMemoryCanonical : Prop :=
  ∀ s t : State, s.MemOk → step s = .next t → t.MemOk

/-! ## Scalar instructions of the RV64 profile -/

/-- R70, R42: integer instructions, on control sequencers and harts, with their frame. -/
def Obligations.IntegerInstructionsWriteTheirResult : Prop :=
  ∀ (s : State) (op : RvOp) rd v, Scalar s → rvResult s.rx s.pc op = some (rd, v) →
    ∃ t, exec (.rv64IntegerInstruction op) s = .next t ∧ Wrote s t rd v (s.pc + 4#64)

/-- R71: jumps and branches. -/
def Obligations.JumpsGoToAlignedTargets : Prop :=
  ∀ s : State, Scalar s →
    (∀ i rd target, jumpOf s i = some (rd, target) → target.toNat % 4 = 0 ∨ (∃ h, s.agent = .hart h) →
      ∃ t, exec i s = .next t ∧ Wrote s t rd (s.pc + 4#64) target) ∧
    (∀ o a b off, Rv.taken o (s.rx a) (s.rx b) = false →
      ∃ t, exec (.rv64IntegerInstruction (.br o a b off)) s = .next t ∧ Wrote s t 0#5 0#64 (s.pc + 4#64)) ∧
    (∀ i rd target, jumpOf s i = some (rd, target) → target.toNat % 4 ≠ 0 →
      ∀ c, s.agent = .seq c .ct → exec i s = .next (s.raiseCt c FCode.align 0 target))

/-- R71, R172: loads; R412: the loads of a hart. -/
def Obligations.LoadsWriteTheValueRead : Prop :=
  ∀ (s : State) op imm rs1 rd,
    let a := (s.rx rs1 + imm.signExtend 64).toNat
    let n := Rv.ldSize op
    (∀ c bs, s.agent = .seq c .ct → s.viewHeld c a n 1 = false → s.viewLoad c a n = .ok bs →
      ∃ t, exec (.viewLoad op imm rs1 rd) s = .next t ∧ Wrote s t rd (Rv.ldVal op (leNat bs)) (s.pc + 4#64)) ∧
    (∀ c f, s.agent = .seq c .ct → s.viewHeld c a n 1 = false → s.viewLoad c a n = .bad f →
      exec (.viewLoad op imm rs1 rd) s = .next (s.raiseAccess c a f)) ∧
    (∀ c, s.agent = .seq c .ct → s.viewHeld c a n 1 = true → exec (.viewLoad op imm rs1 rd) s = .next s) ∧
    ∀ h pa r, s.agent = .hart h → s.hartTranslate h a 1 = .at_ pa →
      let m := State.inPage a n
      s.hartPlace pa m = some r →
      (m = n → ∀ off, r.kind = .regs off →
        (r.pkg = none →
          ∃ t, exec (.viewLoad op imm rs1 rd) s = .next t ∧ Wrote s t rd (Rv.ldVal op (s.regRead off).toNat) (s.pc + 4#64)) ∧
        ∀ p, r.pkg = some p →
          ∃ t, exec (.viewLoad op imm rs1 rd) s = .next t ∧ Wrote s t rd (Rv.ldVal op (s.peerRead p off).toNat) (s.pc + 4#64)) ∧
      ((∀ off, r.kind ≠ .regs off) → s.poisoned r.key m = false →
        (m = n → ∃ t, exec (.viewLoad op imm rs1 rd) s = .next t ∧
          Wrote (s.countHpc r n) t rd (Rv.ldVal op (s.num r.key n)) (s.pc + 4#64)) ∧
        (m ≠ n →
          let s1 := s.countHpc r m
          ∀ pb q, s1.hartTranslate h ((a + m) % 2 ^ 64) 1 = .at_ pb → s1.hartPlace pb (n - m) = some q → (∀ off, q.kind ≠ .regs off) →
            s1.poisoned q.key (n - m) = false →
            ∃ t, exec (.viewLoad op imm rs1 rd) s = .next t ∧
              Wrote (s1.countHpc q (n - m)) t rd (Rv.ldVal op (s.num r.key m + s.num q.key (n - m) * 2 ^ (8 * m))) (s.pc + 4#64)))

/-- R71, R172: stores, with the places computed as the meaning computes them; R412: the stores of a hart. -/
def Obligations.StoresWriteTheirBytesAlone : Prop :=
  ∀ (s : State) op imm rs1 rs2, s.MemOk →
    let a := (s.rx rs1 + imm.signExtend 64).toNat
    let n := Rv.stSize op
    let bs := leBytes n ((s.rx rs2).toNat % 2 ^ (8 * n))
    (∀ c ks s1 keys, s.agent = .seq c .ct → s.viewHeld c a n 2 = false → s.translate c a n 2 = .ok ks → (∀ k ∈ ks, s.pageLocked k = false) →
      s.ownPages (State.draftPages (s.core c) a n) = some s1 → s1.translate c a n 2 = .ok keys →
      ∃ t, exec (.viewStore op imm rs1 rs2) s = .next t ∧ CtStored s1 t c keys bs) ∧
    (∀ c f, s.agent = .seq c .ct → s.viewHeld c a n 2 = false → s.translate c a n 2 = .bad f →
      exec (.viewStore op imm rs1 rs2) s = .next (s.raiseAccess c a
        (if f = ⟨FCode.rights, 2⟩ ∧ (∃ w, (s.core c).storeHeld = some w ∧ w + 1 = s.pcc) then ⟨FCode.vergone, 2⟩ else f))) ∧
    (∀ c, s.agent = .seq c .ct →
      s.viewHeld c a n 2 = true ∨ (∃ ks, s.translate c a n 2 = .ok ks ∧ ∃ k ∈ ks, s.pageLocked k = true) →
      exec (.viewStore op imm rs1 rs2) s = .next (s.modCore c fun k => { k with storeHeld := some s.pcc })) ∧
    ∀ h pa r, s.agent = .hart h → s.hartTranslate h a 2 = .at_ pa →
      let m := State.inPage a n
      s.hartPlace pa m = some r → (∀ off, r.kind ≠ .regs off) → s.pageLocked r.key = false →
      (m = n → ∃ t, exec (.viewStore op imm rs1 rs2) s = .next t ∧ HartStored s t h r.key n (s.rx rs2).toNat) ∧
      (m ≠ n → ∀ pb q, s.hartTranslate h ((a + m) % 2 ^ 64) 2 = .at_ pb → s.hartPlace pb (n - m) = some q →
        (∀ off, q.kind ≠ .regs off) → s.pageLocked q.key = false → (q.key + (n - m) ≤ r.key ∨ r.key + m ≤ q.key) →
        ∃ t, exec (.viewStore op imm rs1 rs2) s = .next t ∧
          (∀ i, i < m → t.byte (r.key + i) = BitVec.ofNat 8 ((s.rx rs2).toNat / 2 ^ (8 * i))) ∧
          (∀ i, i < n - m → t.byte (q.key + i) = BitVec.ofNat 8 ((s.rx rs2).toNat / 2 ^ (8 * (m + i)))) ∧
          ∀ b, (∀ i, i < m → b ≠ r.key + i) → (∀ i, i < n - m → b ≠ q.key + i) → t.byte b = s.byte b)

/-- R72: the CSRs of a control sequencer; those of a hart rest on log entry 10. -/
def Obligations.CsrsReadAndWrite : Prop :=
  ∀ (s : State) op csr rs1 rd,
    (∀ c old, s.agent = .seq c .ct →
      (csr.toNat, old) ∈
        ([(0xC00, BitVec.ofNat 64 s.pcc), (0xC01, BitVec.ofNat 64 s.pcc), (0xC02, (s.core c).ct.instret),
          (0x100, if (s.core c).ct.spp then 0x100#64 else 0#64), (0x105, (s.core c).ct.stvec), (0x140, (s.core c).ct.sscratch),
          (0x141, (s.core c).ct.sepc), (0x142, (s.core c).ct.scause), (0x143, (s.core c).ct.stval)] ++
          (List.range 29).map fun i => (0xC03 + i, 0#64) : List (Nat × Word)) →
      (csr.toNat < 0xC00 → (s.core c).ct.sup = true) →
      (csrNew op rs1 (s.rx rs1) old = none →
        ∃ t, exec (.csrAccess op csr rs1 rd) s = .next t ∧ Wrote s t rd old (s.pc + 4#64)) ∧
      (∀ w t1, csrNew op rs1 (s.rx rs1) old = some w →
        (csr, t1) ∈
          ([(0x100#12, { (s.core c).ct with spp := w.getLsbD 8 }), (0x140#12, { (s.core c).ct with sscratch := w }),
            (0x141#12, { (s.core c).ct with sepc := w &&& ~~~3#64 }), (0x142#12, { (s.core c).ct with scause := w }),
            (0x143#12, { (s.core c).ct with stval := w })] : List (BitVec 12 × Ct)) →
        ∃ t, exec (.csrAccess op csr rs1 rd) s = .next t ∧
          Wrote (s.modCore c fun k => { k with ct := t1 }) t rd old (s.pc + 4#64))) ∧
    (∀ c, s.agent = .seq c .ct →
      (ctCsr s (s.core c) csr.toNat = none ∨ (csr.toNat < 0xC00 ∧ (s.core c).ct.sup = false) ∨
        ((∃ old w, ctCsr s (s.core c) csr.toNat = some old ∧ csrNew op rs1 (s.rx rs1) old = some w) ∧
          csr ∉ [0x100#12, 0x140#12, 0x141#12, 0x142#12, 0x143#12])) →
      exec (.csrAccess op csr rs1 rd) s = .next (s.raiseCt c FCode.illop 0x25 0#64)) ∧
    (∀ h, s.agent = .hart h → State.hartCsrMay (s.hart h) csr.toNat = true →
      (csrNew op rs1 (s.rx rs1) (s.hartCsrRead h csr.toNat) = none →
        ∃ t, exec (.csrAccess op csr rs1 rd) s = .next t ∧ Wrote s t rd (s.hartCsrRead h csr.toNat) (s.pc + 4#64)) ∧
      (∀ w, csrNew op rs1 (s.rx rs1) (s.hartCsrRead h csr.toNat) = some w → csr.toNat / 1024 ≠ 3 →
        ∃ t, exec (.csrAccess op csr rs1 rd) s = .next t ∧
          Wrote (s.hartCsrWrite h csr.toNat w) t rd (s.hartCsrRead h csr.toNat) (s.pc + 4#64)))

/-- R86, with R75: SVC. -/
def Obligations.SvcEntersService : Prop :=
  ∀ n : BitVec 12,
    decode32 (0x0000700B#32 + (n.zeroExtend 32 <<< 20)) = .svc n ∧
    ∀ (s : State) c, s.agent = .seq c .ct →
      ((s.core c).ct.sup = false →
        ∃ t, exec (.svc n) s = .next t ∧ EnteredService s t c 26#64 (n.zeroExtend 64)) ∧
      ((s.core c).ct.sup = true → exec (.svc n) s = .next (s.raiseCt c FCode.illop 0x25 0#64))

/-- R74, R75: a fault of the control sequencer at level U.  R76: at level S the task fails. -/
def Obligations.FaultsOfTheControlSequencerEnterService : Prop :=
  (∀ (s : State) c code detail stval, (s.core c).ct.sup = true →
    let old := (s.core c).ct.fault
    let f : FaultRec := if old.v = true then { old with more := true } else
      { v := true, more := false, code := BitVec.ofNat 8 code, detail := BitVec.ofNat 16 detail, elem := 0xFFFFFFFF#32, sec := 0#16,
        widx := 0#14, late := false, nsec := 0#16, nwidx := 0#14 }
    TaskFails (s.setCore c { s.core c with ct := { (s.core c).ct with fault := f } }) (s.raiseCt c code detail stval) c f.code.toNat f.detail.toNat) ∧
  (∀ (s : State) c code detail w, s.agent = .unit c → s.waiting c .texit = some w → w.since < s.pcc → (s.core c).failed = some (code, detail) →
    ∃ s1, (∀ e, ((s1.core c).eng e).stopped = true) ∧ (s1.core c).ct = (s.core c).ct ∧ (s1.core c).forks = (s.core c).forks ∧ s1.mem = s.mem ∧
      ((s1.core c).flying = true → exec .texitComplete s = .next s1) ∧
      ((s1.core c).flying = false → ∃ u, TaskEnded s1 u c ∧
        exec .texitComplete s = .next (u.postNotice ((s.core c).crid * 2 ^ 32 + code * 2 ^ 24 + detail * 2 ^ 8 + 5) (s.core c).ct.pc.toNat))) ∧
  ∀ (s : State) c code detail stval, (s.core c).ct.sup = false →
    let t := s.raiseCt c code detail stval
    EnteredService s t c 25#64 stval ∧
    ((s.core c).ct.fault.v = false → (t.core c).ct.fault =
      { v := true, more := false, code := BitVec.ofNat 8 code, detail := BitVec.ofNat 16 detail, elem := 0xFFFFFFFF#32, sec := 0#16,
        widx := 0#14, late := false, nsec := 0#16, nwidx := 0#14 }) ∧
    ((s.core c).ct.fault.v = true → (t.core c).ct.fault = { (s.core c).ct.fault with more := true })

/-- R77: SRET.  The watermark's count after a return to S is the model's choice (log entry 43). -/
def Obligations.SretReturnsFromService : Prop :=
  ∀ (s : State) c, s.agent = .seq c .ct →
    ((s.core c).ct.sup = true →
      ∃ t, exec .sret s = .next t ∧ (∀ a, t.byte a = s.byte a) ∧ (∀ d, d ≠ c → t.core d = s.core d) ∧
        (∀ r, (t.core c).getX r = (s.core c).getX r) ∧ (t.core c).ct.fault.v = false ∧ (t.core c).ct.fault.more = false ∧
        (∀ e, ((t.core c).eng e).held = false ∧ ((t.core c).eng e).fault = ((s.core c).eng e).fault) ∧
        (((s.core c).ct.spp = true ∨ (s.core c).anyFault = false) →
          (t.core c).ct.sup = (s.core c).ct.spp ∧ (t.core c).ct.pc = (s.core c).ct.sepc ∧
          (t.core c).ct.sepc = (s.core c).ct.sepc ∧ (t.core c).ct.scause = (s.core c).ct.scause ∧ ∀ e, ((t.core c).eng e).wmLeft = none) ∧
        ((s.core c).ct.spp = false → (s.core c).anyFault = true →
          (t.core c).ct.sup = true ∧ (t.core c).ct.spp = false ∧ (t.core c).ct.scause = 24#64 ∧ (t.core c).ct.stval = 0#64 ∧
          (t.core c).ct.sepc = (s.core c).ct.sepc &&& ~~~3#64 ∧ (t.core c).ct.pc = (s.core c).ct.stvec)) ∧
    ((s.core c).ct.sup = false → exec .sret s = .next (s.raiseCt c FCode.illop 0x25 0#64))

/-- R411, R182, R461: trap entry to M and SRET of a hart, its atomic, compressed and floating-point instructions, as the RISC-V architecture has them (log entries 10, 20). -/
def Obligations.HartTrapsAndReturns : Prop :=
  (∀ (k : Hart) cause tval y, cause < 64 → (k.csrOf 0x302).getLsbD cause = false ∨ k.mode = 3 →
    let t := k.trap false cause tval y
    t.csrOf 0x341 = k.pc ∧ t.csrOf 0x342 = BitVec.ofNat 64 cause ∧ t.csrOf 0x343 = tval ∧ t.mode = 3 ∧ t.ydet = y ∧
    t.pc = k.csrOf 0x305 &&& ~~~3#64 ∧ t.x = k.x ∧ (t.csrOf 0x300).getLsbD 3 = false ∧
    (t.csrOf 0x300).getLsbD 7 = (k.csrOf 0x300).getLsbD 3 ∧ (k.mode < 4 → fld (t.csrOf 0x300) 11 2 = k.mode)) ∧
  (∀ (s : State) h, s.agent = .hart h → (s.hart h).mode ≠ 0 → ¬ ((s.hart h).mode = 1 ∧ ((s.hart h).csrOf 0x300).getLsbD 22 = true) →
    ∃ t, exec .sret s = .next t ∧ (t.hart h).pc = (s.hart h).csrOf 0x141 ∧
      (t.hart h).mode = (if ((s.hart h).csrOf 0x300).getLsbD 8 then 1 else 0) ∧ (t.hart h).x = (s.hart h).x ∧
      (((t.hart h).csrOf 0x300).getLsbD 1) = ((s.hart h).csrOf 0x300).getLsbD 5 ∧ (∀ a, t.byte a = s.byte a) ∧
      ∀ g, g ≠ h → t.hart g = s.hart g) ∧
  (∀ (s : State) h, s.agent = .hart h → (s.hart h).mode = 0 → exec .sret s = .next (s.hartIllegal h 0x10200073#32 0)) ∧
  (∀ (s : State) h w n pa r, s.agent = .hart h → Rv.opcOf w = 0x2F#7 → (Rv.f3Of w, n) ∈ [(2#3, 4), (3#3, 8)] →
    let va := (s.rx (Rv.rs1Of w)).toNat
    let x := (s.rx (Rv.rs2Of w)).toNat % 2 ^ (8 * n)
    let old := s.num r.key n
    let rd := Rv.rdOf w
    let got := fun (t : State) (v : Word) => ∀ i, (t.hart h).getX i = if i = rd ∧ rd ≠ 0#5 then v else (s.hart h).getX i
    va % n = 0 → s.hartPlace pa n = some r → (∀ off, r.kind ≠ .regs off) → s.poisoned r.key n = false → s.MemOk →
    (∀ v, amoVal (fld w 27 5) (8 * n) old x = some v → s.hartTranslate h va 2 = .at_ pa → s.pageLocked r.key = false →
      ∃ t, exec (.unassignedCtEncoding w) s = .next t ∧ got t (BitVec.ofInt 64 (signExt old (8 * n))) ∧ (t.hart h).pc = (s.hart h).pc + 4#64 ∧
        t.bytes r.key n = leBytes n v ∧ ∀ a, (∀ i, i < n → a ≠ r.key + i) → t.byte a = s.byte a) ∧
    (fld w 27 5 = 2 → Rv.rs2Of w = 0#5 → s.hartTranslate h va 1 = .at_ pa →
      ∃ t, exec (.unassignedCtEncoding w) s = .next t ∧ got t (BitVec.ofInt 64 (signExt old (8 * n))) ∧ t.mem = s.mem ∧
        t.reserved h r.key n = true) ∧
    (fld w 27 5 = 3 → s.hartTranslate h va 2 = .at_ pa → s.pageLocked r.key = false →
      (s.reserved h r.key n = true → ∃ t, exec (.unassignedCtEncoding w) s = .next t ∧ got t 0#64 ∧ t.bytes r.key n = leBytes n x ∧
        ∀ a, (∀ i, i < n → a ≠ r.key + i) → t.byte a = s.byte a) ∧
      (s.reserved h r.key n = false → ∃ t, exec (.unassignedCtEncoding w) s = .next t ∧ got t 1#64 ∧ t.mem = s.mem))) ∧
  (∀ (s : State) h (r : BitVec 5) (imm : BitVec 6), s.agent = .hart h →
    ∃ t, exec (.unassignedCtEncoding (0#16 ++ 0#3 ++ imm.extractLsb' 5 1 ++ r ++ imm.extractLsb' 0 5 ++ 1#2)) s = .next t ∧
      HartWrote s t h r ((s.hart h).getX r + imm.signExtend 64) ((s.hart h).pc + 2#64)) ∧
  (∀ (s : State) h, s.agent = .hart h →
    ∃ t, exec (.unassignedCtEncoding 0xBFFD#32) s = .next t ∧ HartWrote s t h 0#5 0#64 ((s.hart h).pc - 2#64)) ∧
  ∀ (s : State) h w, s.agent = .hart h → Rv.opcOf w = 0x53#7 →
    (fld ((s.hart h).csrOf 0x300) 13 2 = 0 → exec (.unassignedCtEncoding w) s = .next (s.hartIllegal h w 0)) ∧
    (∀ m, fld ((s.hart h).csrOf 0x300) 13 2 ≠ 0 → Rv.f7Of w = 1#7 → Fl.mode (Rv.f3Of w).toNat = some m →
      let r := Fl.add (FFmt.ieee 11 52) m ((s.hart h).getF true (Rv.rs1Of w)) ((s.hart h).getF true (Rv.rs2Of w))
      ∃ t, exec (.unassignedCtEncoding w) s = .next t ∧ (t.hart h).getF true (Rv.rdOf w) = r.1 % 2 ^ 64 ∧
        (t.hart h).fcsr = (s.hart h).fcsr ||| BitVec.ofNat 8 r.2 ∧ (t.hart h).x = (s.hart h).x ∧ (t.hart h).pc = (s.hart h).pc + 4#64 ∧ t.mem = s.mem)

/-- R71, R75, R76: FENCE, WFI, ECALL and EBREAK.  R58, R64, R416: what is illegal, with which detail (0x0022 before 0x0021: log entry 43). -/
def Obligations.FenceWfiEcallEbreakAndIllegalEncodings : Prop :=
  ((∀ s : State, Scalar s →
    (∀ imm rs1 rd, ∃ t, exec (.fence imm rs1 rd) s = .next t ∧ Wrote s t 0#5 0#64 (s.pc + 4#64)) ∧
    ∃ t, exec .wfi s = .next t ∧ Wrote s t 0#5 0#64 (s.pc + 4#64)) ∧
  ∀ (s : State),
    (∀ c, s.agent = .seq c .ct → (s.core c).ct.sup = false →
      (∃ t, exec .ecall s = .next t ∧ EnteredService s t c 8#64 0#64) ∧
      ∃ t, exec .ebreak s = .next t ∧ EnteredService s t c 3#64 0#64) ∧
    (∀ c, s.agent = .seq c .ct → (s.core c).ct.sup = true →
      exec .ecall s = .next (s.raiseCt c FCode.illop 0x25 0#64) ∧ ∃ t, exec .ebreak s = .next t ∧ TaskFails s t c 0 0) ∧
    (∀ h, s.agent = .hart h →
      exec .ecall s = .next (s.hartTrap h (8 + (s.hart h).mode) 0#64 0#64) ∧
      exec .ebreak s = .next (s.hartTrap h 3 (s.hart h).pc 0#64))) ∧
  (∀ (s : State) c w, s.agent = .seq c .ct →
    exec (.unassignedCtEncoding w) s =
      .next (s.raiseCt c FCode.illop
        (if classify32 w = .breaks then 0x22 else if customOpc (Rv.opcOf w) then 0x20 else 0x23) 0#64)) ∧
  (∀ (s : State) c i, s.agent = .seq c .ct →
    ((∃ a d, i = .yrd a d) ∨ (∃ b a, i = .ywr b a) ∨ (∃ a d, i = .ylock a d) ∨ (∃ b a d, i = .yswitch b a d) ∨ (∃ a, i = .hhinv a) ∨
      ∃ b a, i = .pghash b a) → exec i s = .next (s.raiseCt c FCode.illop 0x21 0#64)) ∧
  (∀ (s : State) h w, s.agent = .hart h → customOpc (Rv.opcOf w) = true →
    exec (.unassignedCtEncoding w) s = .next (s.hartIllegal h w 0)) ∧
  (∀ (s : State) c e w, s.agent = .seq c (.eng e) →
    exec (.unassignedEngineOpcode w) s =
      .next (s.issueFault c e FCode.illop (if e = .ma ∧ opcodeOf w = 0xFE#8 then 0x13 else 0x10) noElem)) ∧
  (∀ (s : State) h i w, s.agent = .hart h → encode32 i = some w →
    Rv.opcOf w = 0x0B#7 ∨ Rv.opcOf w = 0x2B#7 ∨ Rv.opcOf w = 0x5B#7 ∨ (Rv.opcOf w = 0x7B#7 ∧ Rv.f3Of w ≠ 7#3) → i.wf = true →
    exec i s = .next (s.hartIllegal h w 0))

/-! ## Forks, guards and fault records -/

/-- R80: FORK. -/
def Obligations.ForkStartsTheStreams : Prop :=
  ∀ (s : State) c a, s.agent = .seq c .ct →
    ((s.core c).forkOut = true → exec (.fork a) s = .next (s.raiseCt c FCode.illop 0x24 0#64)) ∧
    ((s.core c).forkOut = false → (s.rx a).toNat % 8 ≠ 0 → exec (.fork a) s = .next (s.raiseCt c FCode.align 0 (s.rx a))) ∧
    (∀ n < 3, (s.core c).forkOut = false → (s.rx a).toNat % 8 = 0 →
      let at_ := fun (n : Nat) => (s.rx a).toNat + 8 * n
      (∀ m < n, s.viewHeld c (at_ m) 8 1 = false ∧ ∃ bs, s.viewLoad c (at_ m) 8 = .ok bs ∧ leNat bs % 4 = 0) →
      (s.viewHeld c (at_ n) 8 1 = true → exec (.fork a) s = .next s) ∧
      (s.viewHeld c (at_ n) 8 1 = false →
        (∀ f, s.viewLoad c (at_ n) 8 = .bad f → exec (.fork a) s = .next (s.raiseAccess c (at_ n) f)) ∧
        ∀ bs, s.viewLoad c (at_ n) 8 = .ok bs → leNat bs % 4 ≠ 0 →
          exec (.fork a) s = .next (s.raiseCt c FCode.align 0 (BitVec.ofNat 64 (leNat bs))))) ∧
    (∀ b1 b2 b3, (s.core c).forkOut = false → (s.rx a).toNat % 8 = 0 →
      s.viewLoad c (s.rx a).toNat 8 = .ok b1 → s.viewLoad c ((s.rx a).toNat + 8) 8 = .ok b2 →
      s.viewLoad c ((s.rx a).toNat + 8 + 8) 8 = .ok b3 →
      let ent : Eng → Word := fun
        | .fe => BitVec.ofNat 64 (leNat b1)
        | .ma => BitVec.ofNat 64 (leNat b2)
        | .dr => BitVec.ofNat 64 (leNat b3)
      ((∀ e, (ent e).toNat % 4 = 0) → (∀ n < 3, s.viewHeld c ((s.rx a).toNat + 8 * n) 8 1 = false) →
        ∃ t, exec (.fork a) s = .next t ∧ OnlyCore s t c ∧ (t.core c).forkOut = true ∧
          (t.core c).ct = { (s.core c).ct with pc := (s.core c).ct.pc + 4#64, instret := (s.core c).ct.instret + 1#64, wait := none } ∧
          (t.core c).vrb = 0#4 ∧ (t.core c).prb = 0#3 ∧ (t.core c).live = BitVec.ofNat 5 (s.liveOf c) ∧
          (t.core c).forks = (s.core c).forks ∧ (t.core c).gNow = (s.core c).gNow ∧ (t.core c).mctl = (s.core c).mctl ∧
          ∀ e, ((t.core c).eng e).hdrPc = ent e ∧ ((t.core c).eng e).ended = (ent e == 0#64) ∧ ((t.core c).eng e).inSec = false ∧
            ((t.core c).eng e).retired = 0#16 ∧ ((t.core c).eng e).secNum = 1#16 ∧ ((t.core c).eng e).mkv = 0#32 ∧
            ((t.core c).eng e).fault = {} ∧ ((t.core c).eng e).loops = List.replicate 4 {} ∧ ((t.core c).eng e).busyTo = s.pcc + 2))

/-- R81, R82: RDV and ABORTE, at issue and at their completion. -/
def Obligations.RdvAndAborteEndTheFork : Prop :=
  (∀ (s : State) c, s.agent = .seq c .ct → (s.core c).forkOut = false →
    (∃ t, exec .rdv s = .next t ∧ CtStepped s t c id) ∧ ∃ t, exec .aborte s = .next t ∧ CtStepped s t c id) ∧
  (∀ (s : State) c, (s.agent = .seq c .ct ∧ (s.core c).forkOut = true) ∨ (s.agent = .unit c ∧ (s.waiting c .rdv).isSome = true) →
    rdvReady (s.core c) = true →
    ∀ i, i = (if s.agent = .unit c then .rdvComplete else .rdv) →
    ∃ t, exec i s = .next t ∧ OnlyCore s t c ∧
      t.core c =
        { s.core c with
          forkOut := false, forkStall := none
          forks := if (s.core c).forks = 0xFFFF#16 then 0xFFFF#16 else (s.core c).forks + 1#16
          ct := { (s.core c).ct with pc := (s.core c).ct.pc + 4#64, instret := (s.core c).ct.instret + 1#64, wait := none } } ∧
      ∀ b ∈ (t.gov (c / 256)).books, b.1 ≠ c) ∧
  (∀ (s : State) c, s.agent = .seq c .ct → (s.core c).forkOut = true → rdvReady (s.core c) = false →
    ∃ t w, exec .rdv s = .next t ∧ t = s.setCore c { s.core c with ct := { (s.core c).ct with wait := some w } } ∧ w.kind = .rdv) ∧
  (∀ (s : State) c, s.agent = .seq c .ct → (s.core c).forkOut = true →
    (s.quietNow c = true → ∃ t, exec .aborte s = .next t ∧ EnginesAborted s t c ∧ (t.core c).forkOut = false ∧
      (t.core c).ct.pc = (s.core c).ct.pc + 4#64) ∧
    (s.quietNow c = false → ∃ t, exec .aborte s = .next t ∧ OnlyCore s t c ∧ LeaveDropped t c ∧
      (∃ w, w.kind = .aborte ∧ (t.core c).ct = { (s.core c).ct with wait := some w }) ∧
      (∀ e, ((t.core c).eng e).stopped = ((s.core c).eng e).stopped ∧ ((t.core c).eng e).retired = ((s.core c).eng e).retired ∧
        ((t.core c).eng e).fault = ((s.core c).eng e).fault) ∧
      (t.core c).mq = (s.core c).mq ∧ (t.core c).forkOut = true ∧ (t.core c).forks = (s.core c).forks)) ∧
  (∀ (s : State) c w, s.agent = .unit c → s.waiting c .aborte = some w →
    (s.pcc ≤ w.since → exec .aborteRetire s = .next s) ∧
    (w.since < s.pcc → s.aborted c = false →
      ∃ t, exec .aborteRetire s = .next t ∧ EnginesAborted s t c ∧
        (Core.flying { s.core c with mq := [] } = false → (t.core c).forkOut = false ∧ (t.core c).ct.pc = (s.core c).ct.pc + 4#64) ∧
        (Core.flying { s.core c with mq := [] } = true → (t.core c).forkOut = (s.core c).forkOut ∧ (t.core c).ct = (s.core c).ct)) ∧
    (w.since < s.pcc → s.aborted c = true → (s.core c).flying = true → exec .aborteRetire s = .next s) ∧
    (w.since < s.pcc → s.aborted c = true → (s.core c).flying = false →
      ∃ t, exec .aborteRetire s = .next t ∧ CtStepped s t c fun k => { k with forkOut := false, forkStall := none }))

/-- R83, R88: SECQ and the guard instructions. -/
def Obligations.SecqAndGuardSlots : Prop :=
  (∀ (s : State) c d, s.agent = .seq c .ct →
    exec (.secq 0#2 d) s = .next (s.raiseCt c FCode.illop 0x26 0#64) ∧
    ∀ n q, (n, q) ∈ ([(1#2, .fe), (2#2, .ma), (3#2, .dr)] : List (BitVec 2 × Eng)) →
      decode32 (0x0000100B#32 + (n.zeroExtend 32 <<< 20) + (d.zeroExtend 32 <<< 7)) = .secq n d ∧
      ∃ t w, exec (.secq n d) s = .next t ∧ Wrote s t d w (s.pc + 4#64) ∧
        w.extractLsb' 32 32 = ((s.core c).eng q).mkv ∧ w.extractLsb' 20 12 = 0#12 ∧ w.getLsbD 19 = ((s.core c).eng q).held ∧
        w.getLsbD 18 = ((s.core c).eng q).fault.v ∧ w.getLsbD 17 = ((s.core c).eng q).ended ∧ w.getLsbD 16 = (s.core c).forkOut ∧
        w.extractLsb' 0 16 = ((s.core c).eng q).retired) ∧
  ∀ (s : State) c (g : BitVec 4) (a d : BitVec 5), s.agent = .seq c .ct →
    decode32 (0x0000200B#32 + (g.zeroExtend 32 <<< 20) + (a.zeroExtend 32 <<< 15)) = .gset g a ∧
    decode32 (0x0000300B#32 + (g.zeroExtend 32 <<< 20)) = .gclr g ∧
    decode32 (0x0000400B#32 + (g.zeroExtend 32 <<< 20) + (d.zeroExtend 32 <<< 7)) = .grd g d ∧
    (∃ t l, exec (.gset g a) s = .next t ∧ CtStepped s t c (fun k => { k with gNow := l }) ∧
      ∀ n, nth 0#2 l n = if n = g.toNat then (if s.rx a = 0#64 then 2#2 else 3#2) else nth 0#2 (s.core c).gNow n) ∧
    (∃ t l, exec (.gclr g) s = .next t ∧ CtStepped s t c (fun k => { k with gNow := l }) ∧
      ∀ n, nth 0#2 l n = if n = g.toNat then 0#2 else nth 0#2 (s.core c).gNow n) ∧
    ∃ t, exec (.grd g d) s = .next t ∧ Wrote s t d ((nth 0#2 (s.core c).gNow g.toNat).zeroExtend 64) (s.pc + 4#64)

/-- R85, with the layout of R37: FAULTRD. -/
def Obligations.FaultrdReadsTheRecord : Prop :=
  ∀ (s : State) c (h : BitVec 1) (e : BitVec 2) (d : BitVec 5), s.agent = .seq c .ct →
    decode32 (0x0000500B#32 + ((h ++ e).zeroExtend 32 <<< 20) + (d.zeroExtend 32 <<< 7)) = .faultrd h e d ∧
    ∀ f, (e, f) ∈ ([(0#2, (s.core c).ct.fault), (1#2, (s.core c).fe.fault), (2#2, (s.core c).ma.fault), (3#2, (s.core c).dr.fault)] :
        List (BitVec 2 × FaultRec)) →
      ∃ (r : BitVec 128) (t : State), exec (.faultrd h e d) s = .next t ∧
        Wrote s t d (if h = 0#1 then r.extractLsb' 0 64 else r.extractLsb' 64 64) (s.pc + 4#64) ∧
        r.extractLsb' 96 32 = f.elem ∧ r.extractLsb' 80 16 = f.sec ∧ r.extractLsb' 64 16 = f.detail ∧ r.getLsbD 63 = f.v ∧
        r.getLsbD 62 = f.more ∧ r.extractLsb' 48 14 = f.widx ∧ r.extractLsb' 40 8 = f.code ∧ r.extractLsb' 38 2 = (if f.code = 0#8 then 0#2 else e) ∧
        r.extractLsb' 22 16 = f.nsec ∧ r.extractLsb' 8 14 = f.nwidx ∧ r.getLsbD 7 = f.late ∧ r.extractLsb' 0 7 = 0#7

/-- R84: RESUME; the order of the words kept, the stamp base and the release of a held engine with V = 1 are the model's reading (log entry 32). -/
def Obligations.ResumeRestartsTheEngine : Prop :=
  ∀ (s : State) c (n : BitVec 2), s.agent = .seq c .ct →
    (n = 0#2 → exec (.resume n) s = .next (s.raiseCt c FCode.illop 0x26 0#64)) ∧
    (n ≠ 0#2 →
      let q : Eng := if n = 1#2 then .fe else if n = 2#2 then .ma else .dr
      let g0 := (s.core c).eng q
      ∃ t, exec (.resume n) s = .next t ∧
        let g := (t.core c).eng q
        CtStepped s t c (fun k => k.setEng q g) ∧ g.held = false ∧
        (g0.fault.v = true →
          g.fault.v = false ∧ g.fault.more = false ∧ g.redo = g0.kept ++ g0.redo ∧ g.kept = [] ∧ g.secNum = g0.secNum ∧ g.slot = g0.slot ∧
          (g0.fault.late = true → g0.fault.code = 0x04#8 → g0.inSec = true → g0.secNum = g0.fault.sec → g.stampBase = s.pcc + 64)) ∧
        (g0.fault.v = false → g = if g0.held then { g0 with held := false, wmLeft := none } else g0))

/-! ## Tasks and teams -/

/-- R118, R106: TSPAWN. -/
def Obligations.TspawnCreatesAChild : Prop :=
  ∀ (s : State) c a b d, CtUser s c →
    let x := (s.rx b).toNat
    let good := x < 128 ∧ bitOf x 3 = false ∧ x % 4 ≠ 3 ∧ (x % 4 = 1 ∨ bitsOf x 4 3 = 0)
    let j := (s.core c).j
    let link := bitOf x 2
    let q := State.spawnQueue c (x % 4) (bitsOf x 4 3)
    (¬ good → exec (.tspawn b a d) s = .next (s.raiseCt c FCode.illop 0x26 0#64)) ∧
    (good → (s.rx a).toNat % 64 ≠ 0 → exec (.tspawn b a d) s = .next (s.raiseCt c FCode.align 0 (s.rx a))) ∧
    (good → (s.rx a).toNat % 64 = 0 → s.viewHeld c (s.rx a).toNat 64 1 = true → exec (.tspawn b a d) s = .next s) ∧
    (∀ f, good → (s.rx a).toNat % 64 = 0 → s.viewHeld c (s.rx a).toNat 64 1 = false → s.viewLoad c (s.rx a).toNat 64 = .bad f →
      exec (.tspawn b a d) s = .next (s.raiseAccess c (s.rx a).toNat f)) ∧
    (∀ bs v, good → (s.rx a).toNat % 64 = 0 → s.viewHeld c (s.rx a).toNat 64 1 = false → s.viewLoad c (s.rx a).toNat 64 = .ok bs →
      s.spawnFails (words64 8 bs) (x % 4) (bitsOf x 4 3) j q link = some v →
      v ∈ [1, 2, 3, 4, 5] ∧ ∃ t, exec (.tspawn b a d) s = .next t ∧ Wrote s t d (BitVec.ofNat 64 (2 ^ 63 + v)) (s.pc + 4#64)) ∧
    (∀ bs n, good → (s.rx a).toNat % 64 = 0 → s.viewHeld c (s.rx a).toNat 64 1 = false → s.viewLoad c (s.rx a).toNat 64 = .ok bs →
      s.spawnFails (words64 8 bs) (x % 4) (bitsOf x 4 3) j q link = none → s.askCrid = some n →
      let img := words64 8 bs
      s.crSt n = 0 ∧ 0 < n ∧
      ∃ t s1, exec (.tspawn b a d) s = .next t ∧ Wrote s1 t d (BitVec.ofNat 64 n) (s.pc + 4#64) ∧ RecordFrom s1 n img ∧
        s1.cr n 6 = 0xF0000000#64 ∧ s1.crFld n 5 32 32 = (if link then j else 0) % 2 ^ 32 ∧
        (link = true → j ≠ 0 → j ≠ n → s1.crJoin j = s.crJoin j + 1) ∧
        (¬ (link = true ∧ j = n) → s1.crJoin n = fld (nth 0#64 img 5) 0 32 ∧
          (s1.crJoin n = 0 → s1.crSt n = 2 ∧ Queued s1 q n) ∧ (s1.crJoin n ≠ 0 → s1.crSt n = 1 ∧ s1.queues = s.queues)) ∧
        (∀ m w, w < 8 → m ≠ n → (m ≠ j ∨ w ≠ 5) → s1.cr m w = s.cr m w) ∧
        (∃ x, s1.core c = { s.core c with exposed := x }) ∧ (∀ e, e ≠ c → s1.core e = s.core e) ∧
        s1.mem = s.mem ∧ s1.harts = s.harts ∧ s1.yard = s.yard ∧ s1.flags = s.flags ∧ s1.regs = s.regs)

/-- R119, R106: TCONT.  A JOIN of all ones plus one is 0 by the model's choice (log entry 43). -/
def Obligations.TcontCreatesAContinuation : Prop :=
  ∀ (s : State) c a, CtUser s c →
    ((s.core c).cont ≠ 0 → exec (.tcont a) s = .next (s.raiseCt c FCode.illop 0x27 0#64)) ∧
    ((s.core c).cont = 0 → (s.rx a).toNat % 64 ≠ 0 → exec (.tcont a) s = .next (s.raiseCt c FCode.align 0 (s.rx a))) ∧
    ((s.core c).cont = 0 → (s.rx a).toNat % 64 = 0 → s.viewHeld c (s.rx a).toNat 64 1 = true → exec (.tcont a) s = .next s) ∧
    (∀ f, (s.core c).cont = 0 → (s.rx a).toNat % 64 = 0 → s.viewHeld c (s.rx a).toNat 64 1 = false →
      s.viewLoad c (s.rx a).toNat 64 = .bad f → exec (.tcont a) s = .next (s.raiseAccess c (s.rx a).toNat f)) ∧
    (∀ bs, (s.core c).cont = 0 → (s.rx a).toNat % 64 = 0 → s.viewHeld c (s.rx a).toNat 64 1 = false → s.viewLoad c (s.rx a).toNat 64 = .ok bs → s.imageOk (words64 8 bs) = false →
      exec (.tcont a) s = .next (s.raiseCt c FCode.illop 0x26 0#64)) ∧
    (∀ bs n, (s.core c).cont = 0 → (s.rx a).toNat % 64 = 0 → s.viewHeld c (s.rx a).toNat 64 1 = false → s.viewLoad c (s.rx a).toNat 64 = .ok bs →
      s.imageOk (words64 8 bs) = true → s.freeCrid = some n →
      let img := words64 8 bs
      ∃ t x, exec (.tcont a) s = .next t ∧ RecordFrom t n img ∧ t.crSt n = 1 ∧ t.crJoin n = (fld (nth 0#64 img 5) 0 32 + 1) % 2 ^ 32 ∧
        t.crFld n 5 32 32 = (s.core c).j % 2 ^ 32 ∧
        (s.team (s.teamOf (s.core c).crid) = none → t.teams = s.teams) ∧
        (∀ m, s.team (s.teamOf (s.core c).crid) = some m → m.id = s.teamOf (s.core c).crid →
          let r := ((m.members.find? fun x => x.crid = (s.core c).crid).map Member.rank).getD 0
          t.cr n 6 = BitVec.ofNat 64 (m.id * 2 ^ 48 + 15 * 2 ^ 28 + r * 2 ^ 16) ∧
          t.team m.id = some { m with conts := m.conts ++ [(n, r)], exposed := true }) ∧
        t.core c = Core.retire { s.core c with j := n, cont := n, exposed := x } ∧
        (∀ m w, w < 8 → m ≠ n → t.cr m w = s.cr m w) ∧ (∀ e, e ≠ c → t.core e = s.core e) ∧
        t.mem = s.mem ∧ t.harts = s.harts ∧ t.yard = s.yard ∧ t.flags = s.flags ∧ t.queues = s.queues ∧ t.regs = s.regs)

/-- R120 to R123, R125: the end of a task, its trigger, its deadline, its yield and its items. -/
def Obligations.TasksTriggerEndAndYield : Prop :=
  (∀ (s : State) c i, s.agent = .seq c .ct → (s.core c).ct.sup = true →
    (i ∈ [Instr.texit, .ttrig, .tyield] ∨ (∃ b a d, i = .tspawn b a d) ∨ (∃ a, i = .tcont a) ∨ (∃ b a d, i = .tjoin b a d) ∨
      (∃ d, i = .tleave d) ∨ (∃ d, i = .tbar d) ∨ ∃ a, i = .tdln a) →
    exec i s = .next (s.raiseCt c FCode.illop 0x25 0#64)) ∧
  (∀ (s : State) c, CtUser s c →
    let t := (s.core c).crid
    (s.crTrg t = true ∨ s.fromLaunch t = false → ∃ u, exec .ttrig s = .next u ∧ CtStepped s u c id) ∧
    (s.crTrg t = false → s.fromLaunch t = true →
      let i := s.crFld t 6 28 4
      ∃ u x, exec .ttrig s = .next u ∧ u.crTrg t = true ∧
        (u.interp i).slots = modAt (· - 1) (s.interp i).slots (s.crFld t 6 24 4) ∧ (∀ k, k ≠ i → u.interp k = s.interp k) ∧
        (∀ m w, w < 8 → (m ≠ t ∨ w ≠ 0) → u.cr m w = s.cr m w) ∧ u.core c = Core.retire { s.core c with exposed := x } ∧
        (∀ e, e ≠ c → u.core e = s.core e) ∧ u.mem = s.mem ∧ u.harts = s.harts ∧ u.queues = s.queues ∧ u.yard = s.yard) ∧
    (exitReady s c = true → ∃ u, exec .texit s = .next u ∧ TaskEnded s u c) ∧
    (exitReady s c = false → ∃ u, exec .texit s = .next u ∧ WaitsAt s u c .texit)) ∧
  (∀ (s : State) c, s.agent = .unit c → (s.waiting c .texit).isSome = true →
    ((s.core c).failed = none ∧ exitReady s c = true) ∨
      ((s.core c).failed.isSome = true ∧ (s.core c).flying = false ∧ ∀ w, s.waiting c .texit = some w → w.since < s.pcc) →
    ∃ u, exec .texitComplete s = .next u ∧ TaskEnded s u c) ∧
  (∀ (s : State) c a, CtUser s c →
    ∃ u, exec (.tdln a) s = .next u ∧ CtStepped { s with crs := u.crs, dirty := u.dirty } u c (fun k => { k with dlArmed := true }) ∧
      u.cr (s.core c).crid 2 = s.rx a ∧ ∀ m w, w < 8 → (m ≠ (s.core c).crid ∨ w ≠ 2) → u.cr m w = s.cr m w) ∧
  (∀ (s : State) c, CtUser s c →
    ((∃ p ∈ s.preempts, ∃ x ∈ p.left, x ∈ s.gangOf (s.core c).crid) → ∃ u, exec .tyield s = .next u ∧ CtStepped s u c id) ∧
    ((∀ p ∈ s.preempts, ∀ x ∈ p.left, x ∉ s.gangOf (s.core c).crid) →
    ∃ u, exec .tyield s = .next u ∧ ((s.core c).phase = .running → ∀ r, (u.core c).getX r = (s.core c).getX r) ∧
      ∀ e, (s.core e).crid ≠ 0 → (s.core e).crid ∈ s.gangOf (s.core c).crid → (s.core e).phase = .running → (s.core e).failed = none →
        (u.core e).phase = .stopping false ∧ u.crSt (s.core e).crid = 4)) ∧
  (∀ (s : State) c a d, s.agent = .seq c .ct →
    let t := (s.core c).crid
    (∀ n w, (s.rx a).toNat = n →
      (n, w) ∈ [(0, BitVec.ofNat 64 t), (1, s.teamWordOf t), (2, s.cr t 2), (3, BitVec.ofNat 64 (s.crFld t 6 24 24 * 2 ^ 24)),
        (4, BitVec.ofNat 64 c), (5, s.progress c), (6, s.cr t 0), (7, BitVec.ofNat 64 (s.core c).j)] →
      ∃ u, exec (.tinfo a d) s = .next u ∧ Wrote s u d w (s.pc + 4#64)) ∧
    (7 < (s.rx a).toNat → exec (.tinfo a d) s = .next (s.raiseCt c FCode.illop 0x26 0#64)) ∧
    ∀ m, s.team (s.teamOf t) = some m →
      s.teamWordOf t =
        BitVec.ofNat 64 (m.size * 2 ^ 32 + ((m.members.find? fun x => x.crid = t).map Member.rank).getD 0 * 2 ^ 16 + m.id))

/-- R127, R128, R129: teams and their barriers.  That a task joining a stopping team stops with it is the model's reading of R130 (log entry 43). -/
def Obligations.TeamsJoinLeaveAndMeet : Prop :=
  ∀ (s : State) c,
    (CtUser s c → ∀ b a d,
      let id := (s.rx a).toNat
      let n := (s.rx b).toNat
      let t := (s.core c).crid
      ((id = 0 ∧ (n = 0 ∨ 256 < n)) ∨ (id ≠ 0 ∧ n ≠ 0) →
        exec (.tjoin b a d) s = .next (s.raiseCt c FCode.illop 0x26 0#64)) ∧
      ((id = 0 ∧ 0 < n ∧ n ≤ 256) ∨ (id ≠ 0 ∧ n = 0) →
        (s.teamOf t ≠ 0 → exec (.tjoin b a d) s = .next (s.raiseCt c FCode.teambad 1 0#64)) ∧
        (s.teamOf t = 0 → id ≠ 0 → s.team id = none → exec (.tjoin b a d) s = .next (s.raiseCt c FCode.teambad 2 0#64)) ∧
        (s.teamOf t = 0 → id ≠ 0 → (s.team id).isSome = true → id / 4096 ≠ c / 256 →
          exec (.tjoin b a d) s = .next (s.raiseCt c FCode.teambad 3 0#64)) ∧
        (s.teamOf t = 0 → id = 0 → s.freeTeam (c / 256) = none → exec (.tjoin b a d) s = .next (s.raiseCt c FCode.teambad 5 0#64)) ∧
        (∀ i, s.teamOf t = 0 → id = 0 → s.freeTeam (c / 256) = some i →
          ∃ u s1, exec (.tjoin b a d) s = .next u ∧ Wrote s1 u d (s1.teamWordOf t) (s.pc + 4#64) ∧
            s1 = { s with teams := Tbl.put s.teams i { id := i, size := n, joined := 1, members := [{ crid := t, rank := 0 }] } }) ∧
        (∀ m, s.teamOf t = 0 → id ≠ 0 → s.team id = some m → id / 4096 = c / 256 →
          let full := m.size ≤ m.members.length + (m.conts.filter fun x => !m.members.any fun y => y.rank = x.2).length
          (full → exec (.tjoin b a d) s = .next (s.raiseCt c FCode.teambad 4 0#64)) ∧
          let after : Team := { m with joined := m.joined + 1, members := m.members ++ [{ crid := t, rank := m.joined }] }
          (¬ full → m.id = id → s.teamStopped m = false →
            ∃ u s1, exec (.tjoin b a d) s = .next u ∧ Wrote s1 u d (State.teamWord after t) (s.pc + 4#64) ∧ s1.team id = some after ∧
            s1 = { s with
              teams := s1.teams
              preempts := s.preempts.map fun p => if p.team = id then { p with crids := p.crids ++ [t], left := p.left ++ [t] } else p }) ∧
          (¬ full → m.id = id → s.teamStopped m = true → (s.core c).phase = .running → (s.core c).failed = none →
            ∃ u m', exec (.tjoin b a d) s = .next u ∧ (∀ r, (u.core c).getX r = if r = d ∧ d ≠ 0#5 then State.teamWord after t else (s.core c).getX r) ∧
            (u.core c).ct.pc = (s.core c).ct.pc + 4#64 ∧
            (u.core c).phase = .stopping (s.preempts.any fun p => p.team == id && p.method == 1) ∧ u.crSt t = 4 ∧
            u.team id = some m' ∧ m'.joined = m.joined + 1 ∧ ({ crid := t, rank := m.joined } : Member) ∈ m'.members ∧
            ∀ p ∈ u.preempts, p.team = id → t ∈ p.left)))) ∧
    (CtUser s c → ∀ d,
      let t := (s.core c).crid
      (s.team (s.teamOf t) = none → exec (.tleave d) s = .next (s.raiseCt c FCode.teambad 6 0#64)) ∧
      (∀ m, s.team (s.teamOf t) = some m →
        ∃ u s1, exec (.tleave d) s = .next u ∧ Wrote s1 u d (BitVec.ofNat 64 (m.size - 1)) (s.pc + 4#64) ∧ (∀ p ∈ s1.preempts, t ∉ p.left) ∧
          (m.id = s.teamOf t → 1 < m.size → ∃ m', s1.team m.id = some m' ∧ m'.size = m.size - 1 ∧
            (m.conts = [] → ∀ x ∈ m'.members, x.crid ≠ t)))) ∧
    (CtUser s c → ∀ d,
      let t := (s.core c).crid
      (s.teamOf t = 0 → exec (.tbar d) s = .next (s.raiseCt c FCode.teambad 6 0#64)) ∧
      (∀ m, s.teamOf t ≠ 0 → s.team (s.teamOf t) = some m → m.id = s.teamOf t →
        (∃ x ∈ m.members, x.crid = t ∧ x.left = false) →
        let ms := m.members.map fun x => if x.crid = t then { x with arrived := true } else x
        let all := (ms.filter (·.arrived)).length = m.size
        ∃ u s1 w, exec (.tbar d) s = .next u ∧ s1 = s.setCore c { s.core c with ct := { (s.core c).ct with wait := some w } } ∧ w.kind = .tbar ∧
          w.d = d ∧ (all → BarrierPassed s1 u m ms) ∧
          (¬ all → u = { s1 with teams := u.teams } ∧ ∃ m', u.team m.id = some m' ∧ m'.phase = m.phase ∧ m'.members = ms))) ∧
    (s.agent = .unit c → ∀ w m, s.waiting c .tbar = some w → s.team (s.teamOf (s.core c).crid) = some m → m.id = s.teamOf (s.core c).crid →
      let all := (m.members.filter (·.arrived)).length = m.size ∧ 0 < m.size
      (all → ∃ u, exec .tbarComplete s = .next u ∧ BarrierPassed s u m m.members) ∧ (¬ all → exec .tbarComplete s = .next s))

/-! ## Objects, views and flags -/

/-- R160, R145, R150, R154: the checks of the object instructions. -/
def Obligations.ObjectChecksComeInTheirOrder : Prop :=
  ∀ (s : State) c i, s.agent = .seq c .ct → isObject i = true →
    (objectUse s i = none → exec i s = .next (s.raiseCt c FCode.illop 0x26 0#64)) ∧
    ∀ h need flagOp home, objectUse s i = some (h, need, flagOp, home) →
      ((s.entryLocked h && (home || !s.cached (s.principal c) h)) = true → ∃ t, exec i s = .next t ∧ ObjectHeld s c i t) ∧
      ((s.entryLocked h && (home || !s.cached (s.principal c) h)) = false →
        (∀ f, s.lookup (s.principal c) h = .bad f → exec i s = .next (s.raiseCt c f.code f.detail 0#64)) ∧
        (∀ l, s.lookup (s.principal c) h = .ok l → objectAtHome s i = true → s.liveRoute (Handle.home h) = false →
          exec i s = .next (s.raiseCt c FCode.linkdead 0 0#64)) ∧
        ∀ l f, s.lookup (s.principal c) h = .ok l → (objectAtHome s i = true → s.liveRoute (Handle.home h) = true) →
          s.checkRights (s.principal c) h l need flagOp = some f → exec i s = .next (s.raiseCt c f.code f.detail 0#64))

/-- R161: OCLAIM. -/
def Obligations.OclaimAndItsDecision : Prop :=
  ∀ (s : State) c a b d i l, Tries s c .oclaim a b d (.oclaim b a d) .oclaimDecide i →
    let h := (s.core c).getX a
    let team := (s.core c).getX b = 1#64
    let key := Handle.key h
    let t := (s.core c).crid
    let kind := if team then 2 else 1
    let holder := if team then s.teamOf t else t
    let v := s.curv key
    let s0 := s.setCore c { s.core c with poolNote := false }
    ((s.core c).getX b).toNat ≤ 1 → Granted s c h Right.write false true l →
    (l.bench = true → exec i s = .next (s.raiseCt c FCode.rights 0x41 0#64)) ∧
    (l.bench = false → team → s.teamOf t = 0 → exec i s = .next (s.raiseCt c FCode.teambad 6 0#64)) ∧
    (l.bench = false → (team → s.teamOf t ≠ 0) →
      (s.hkind key ≠ 0 →
        ∃ u, exec i s = .next u ∧
          CtWrote s0 u c d
            (BitVec.ofNat 64 (if s.hkind key = kind ∧ s.holder key = holder then (v + 1) * 2 ^ 32 + 1 else v * 2 ^ 32 + 4))
            ((s.core c).ct.pc + 4#64)) ∧
      (s.hkind key = 0 → s.liven key = 4 ∨ v = 2 ^ 32 - 1 →
        ∃ u, exec i s = .next u ∧ CtWrote s0 u c d (BitVec.ofNat 64 (v * 2 ^ 32 + 2)) ((s.core c).ct.pc + 4#64)) ∧
      (∀ s1, s.hkind key = 0 → s.liven key ≠ 4 → v ≠ 2 ^ 32 - 1 → s.openDraft key l = some s1 →
        ∃ u s2, exec i s = .next u ∧ CtWrote s2 u c d (BitVec.ofNat 64 ((v + 1) * 2 ^ 32 + 1)) ((s.core c).ct.pc + 4#64) ∧
          s2.hkind key = kind ∧ s2.holder key = holder % 2 ^ 32 ∧ s2.curv key = v ∧ s2.mem = s1.mem ∧
          s2.core c = { s.core c with poolNote := false } ∧ ∀ e, e ≠ c → s2.core e = s.core e) ∧
      (s.hkind key = 0 → s.liven key ≠ 4 → v ≠ 2 ^ 32 - 1 → s.openDraft key l = none →
        ∃ u, exec i s = .next u ∧ u.yard = s.yard ∧ StillWaits (s.waitPool c (s.poolOf l 0)) u c .oclaim (.oclaim b a d) i))

/-- R162: OPUB. -/
def Obligations.OpubAndItsPublishPoint : Prop :=
  ∀ (s : State) c a b d i l, Tries s c .opub a b d (.opub a d) .opubPublishPoint i →
    let h := (s.core c).getX a
    let key := Handle.key h
    let v := s.curv key
    Granted s c h Right.publish false true l →
    (l.bench = true → exec i s = .next (s.raiseCt c FCode.rights 0x41 0#64)) ∧
    (l.bench = false → s.holds (s.principal c) key = false →
      ∃ u, exec i s = .next u ∧ CtWrote s u c d (BitVec.ofNat 64 (v * 2 ^ 32 + 4)) ((s.core c).ct.pc + 4#64)) ∧
    (l.bench = false → s.holds (s.principal c) key = true →
      s.draftOut key l = true ∨ (s.draftFails key l = 0 ∧ (s.ew key 0).getLsbD 49 = true) →
      ∃ u, exec i s = .next u ∧ StillWaits s u c .opub (.opub a d) i) ∧
    (l.bench = false → s.holds (s.principal c) key = true → s.draftOut key l = false → 0 < s.draftFails key l →
      ∃ u, exec i s = .next u ∧
        CtWrote s u c d (BitVec.ofNat 64 (v * 2 ^ 32 + min (s.draftFails key l) 255 * 256 + if s.draftDead key l then 2 else 0))
          ((s.core c).ct.pc + 4#64)) ∧
    (l.bench = false → s.holds (s.principal c) key = true → s.draftOut key l = false → s.draftFails key l = 0 → (s.ew key 0).getLsbD 49 = false →
      ∃ u s1, exec i s = .next u ∧
        CtWrote s1 u c d (BitVec.ofNat 64 (s1.curv key * 2 ^ 32 + 1 + (if s1.liven key = 4 then 8 else 0)))
          ((s.core c).ct.pc + 4#64) ∧
        s1.curv key = (v + 1) % 2 ^ 32 ∧ s1.hkind key = 0 ∧ s1.holder key = 0 ∧ (∀ e, (s1.core e).ct = (s.core e).ct) ∧ s1.harts = s.harts)

/-- R163, R167, R168: OSUB and the flag operations. -/
def Obligations.VersionsAndFlagsAreWaitedFor : Prop :=
  (∀ (s : State) c a b d i l, Tries s c .osub a b d (.osub b a d) .osubComplete i →
    ((s.core c).getX b).toNat < 2 ^ 32 → Granted s c ((s.core c).getX a) Right.read false false l →
    let cur := s.curv (Handle.key ((s.core c).getX a))
    (((s.core c).getX b).toNat ≤ cur →
      ∃ u, exec i s = .next u ∧ CtWrote s u c d (BitVec.ofNat 64 cur) ((s.core c).ct.pc + 4#64)) ∧
    (cur < ((s.core c).getX b).toNat → ∃ u, exec i s = .next u ∧ StillWaits s u c .osub (.osub b a d) i)) ∧
  (∀ (s : State) c a b d i l, Tries s c .flacq a b d (.flacq b a d) .flacqComplete i →
    Granted s c ((s.core c).getX a) Right.read true false l →
    let x := s.flag (Handle.key ((s.core c).getX a))
    (((s.core c).getX b).ule x = true → ∃ u, exec i s = .next u ∧ CtWrote s u c d x ((s.core c).ct.pc + 4#64)) ∧
    (((s.core c).getX b).ule x = false → ∃ u, exec i s = .next u ∧ StillWaits s u c .flacq (.flacq b a d) i)) ∧
  (∀ (s : State) c a b d l, s.agent = .seq c .ct → Granted s c (s.rx a) Right.read true false l →
    ∃ u, exec (.fltest b a d) s = .next u ∧ Wrote s u d (s.flag (Handle.key (s.rx a))) (s.pc + 4#64)) ∧
  (∀ (s : State) c a b l, s.agent = .seq c .ct → Granted s c (s.rx a) Right.publish true true l →
    ∃ u x, exec (.flrel b a) s = .next u ∧ (∀ k, u.flag k = if k = Handle.key (s.rx a) then s.rx b else s.flag k) ∧
      u.core c = Core.retire { s.core c with exposed := x } ∧ (∀ e, e ≠ c → u.core e = s.core e) ∧
      u.mem = s.mem ∧ u.yard = s.yard ∧ u.crs = s.crs ∧ u.harts = s.harts)

/-- R164, R170, R171: pins and views. -/
def Obligations.PinsAndViews : Prop :=
  (∀ (s : State) c a b d l, s.agent = .seq c .ct → (s.rx b).toNat < 2 ^ 32 → Granted s c (s.rx a) Right.read false true l →
    let key := Handle.key (s.rx a)
    let v := if (s.rx b).toNat = 0 then s.curv key else (s.rx b).toNat
    (l.bench = true → exec (.opin b a d) s = .next (s.raiseCt c FCode.rights 0x41 0#64)) ∧
    (l.bench = false → (∀ k, s.verSlot key v = some k → s.pinOf key k = 2 ^ 32 - 1) →
      ∃ u, exec (.opin b a d) s = .next u ∧ Wrote s u d 0#64 (s.pc + 4#64)) ∧
    (∀ k, l.bench = false → s.verSlot key v = some k → s.pinOf key k ≠ 2 ^ 32 - 1 →
      ∃ u s1, exec (.opin b a d) s = .next u ∧ Wrote s1 u d (BitVec.ofNat 64 v) (s.pc + 4#64) ∧
        s1.pinOf key k = s.pinOf key k + 1 ∧ s1.mem = s.mem ∧ (∃ o, s1.core c = { s.core c with opins := o } ∧ ∃ n, (key, v, n) ∈ o ∧ 0 < n) ∧
        ∀ e, e ≠ c → s1.core e = s.core e)) ∧
  (∀ (s : State) c a b l, s.agent = .seq c .ct → (s.rx b).toNat ≠ 0 → (s.rx b).toNat < 2 ^ 32 → Granted s c (s.rx a) Right.read false true l →
    let key := Handle.key (s.rx a)
    let v := (s.rx b).toNat
    (l.bench = true → exec (.ounpin b a) s = .next (s.raiseCt c FCode.rights 0x41 0#64)) ∧
    (l.bench = false → (∀ p ∈ (s.core c).opins, ¬ (p.1 = key ∧ p.2.1 = v)) →
      ∃ u, exec (.ounpin b a) s = .next u ∧ CtStepped s u c id) ∧
    (∀ p k, l.bench = false → p ∈ (s.core c).opins → p.1 = key → p.2.1 = v → s.verSlot key v = some k → (1 < s.pinOf key k ∨ k = 3) →
      ∃ u o, exec (.ounpin b a) s = .next u ∧ u.pinOf key k = s.pinOf key k - 1 ∧ u.mem = s.mem ∧
        u.core c = Core.retire { s.core c with opins := o } ∧ ∀ e, e ≠ c → u.core e = s.core e)) ∧
  (∀ (s : State) c a b d l back r w, s.agent = .seq c .ct →
    let h := s.rx a
    let key := Handle.key h
    let x := s.rx b
    let eff := s.rightsOf (s.principal c) h
    let ver := if x = 0#64 then s.curv key else x.toNat
    (x = BitVec.allOnes 64 ∧ Granted s c h Right.write false false l ∧ l.bench = false ∧
        s.checkVer (s.principal c) key l .draft = none ∧ back = .draft key h ∧ r = bitOf eff 0 ∧ w = bitOf eff 1) ∨
      (x.toNat < 2 ^ 32 ∧ Granted s c h Right.read false false l ∧ l.bench = false ∧
        s.checkVer (s.principal c) key l (.ver ver) = none ∧ back = .version key h ver ∧ r = bitOf eff 0 ∧ w = false) ∨
      (x = 0#64 ∧ Granted s c h Right.read false false l ∧ l.bench = true ∧ back = .live key h ∧ r = bitOf eff 0 ∧ w = bitOf eff 1) →
    let size := 65536 * objPages l
    ((256 ≤ (s.core c).views.length ∨ State.viewBase (s.core c) size = none) →
      ∃ u, exec (.oview b a d) s = .next u ∧ Wrote s u d 0#64 (s.pc + 4#64)) ∧
    (∀ base, (s.core c).views.length < 256 → State.viewBase (s.core c) size = some base →
      base % 65536 = 0 ∧ 0x400000000000 ≤ base ∧ base + size ≤ 2 ^ 48 ∧
      (∀ y ∈ (s.core c).views, base + size ≤ y.base ∨ y.base + y.size ≤ base) ∧
      ∃ u s1, exec (.oview b a d) s = .next u ∧ Wrote s1 u d (BitVec.ofNat 64 base) (s.pc + 4#64) ∧ s1.mem = s.mem ∧
        s1.core c = { s.core c with
          views := (s.core c).views ++ [{ base := base, size := size, back := back, r := r, w := w, x := false, kind := .made }] })) ∧
  (∀ (s : State) c a, s.agent = .seq c .ct →
    ((∀ y ∈ (s.core c).views, y.base ≠ (s.rx a).toNat) → exec (.ounview a) s = .next (s.raiseCt c FCode.illop 0x26 0#64)) ∧
    ∀ y, (s.core c).views.find? (fun v => v.base = (s.rx a).toNat) = some y →
      (y.kind = .code ∨ y.kind = .frame → exec (.ounview a) s = .next (s.raiseCt c FCode.illop 0x25 0#64)) ∧
      (y.kind = .service → exec (.ounview a) s = .next (s.raiseCt c FCode.illop 0x26 0#64)) ∧
      (y.kind = .made → ∃ u, exec (.ounview a) s = .next u ∧ (∀ z ∈ (u.core c).views, z.base ≠ y.base) ∧
        u.core c = Core.retire { s.core c with views := (u.core c).views } ∧ ∀ e, e ≠ c → u.core e = s.core e))

/-- R165, R173: OVER, OINFO, LQ and SQ. -/
def Obligations.ObjectItemsAndPairs : Prop :=
  ∀ (s : State) c, s.agent = .seq c .ct →
    (∀ a d l, Granted s c (s.rx a) Right.read false false l →
      ∃ u, exec (.over a d) s = .next u ∧ Wrote s u d (BitVec.ofNat 64 (s.curv (Handle.key (s.rx a)))) (s.pc + 4#64)) ∧
    (∀ a b d l n w, n = (s.rx b).toNat → GrantedAt s c (s.rx a) (if n = 9 then 0 else Right.read) false false (n == 0 || decide (8 ≤ n)) l →
      let e := fun k => nth 0#64 (s.layoutWords (s.principal c) (s.rx a)) k
      let key := Handle.key (s.rx a)
      (n, w) ∈ [(0, setFld (setFld (e 0) 49 1 (fld (s.ew key 0) 49 1)) 50 3 (s.liven key)), (1, BitVec.ofNat 64 (fld (e 1) 0 32)), (2, BitVec.ofNat 64 (fld (e 1) 32 32)),
        (3, BitVec.ofNat 64 (fld (e 2) 0 32)), (4, BitVec.ofNat 64 (fld (e 2) 32 32)), (5, BitVec.ofNat 64 (fld (e 3) 0 32)),
        (6, e 5), (7, e 7), (8, s.ew key 4), (9, BitVec.ofNat 64 (s.rightsOf (s.principal c) (s.rx a))),
        (10, BitVec.ofNat 64 (s.liven key)), (11, s.ew key 9)] →
      ∃ u, exec (.oinfo b a d) s = .next u ∧ Wrote s u d w (s.pc + 4#64)) ∧
    (∀ m a d,
      let at_ := (s.rx a + m.signExtend 64).toNat
      (d.getLsbD 0 = true → exec (.lq m a d) s = .next (s.raiseCt c FCode.illop 0x22 0#64) ∧
        exec (.sq m a d) s = .next (s.raiseCt c FCode.illop 0x22 0#64)) ∧
      (∀ n, d.getLsbD 0 = false → (n = 1 ∨ n = 2) → s.viewHeld c at_ 16 n = true →
        (n = 1 → exec (.lq m a d) s = .next s) ∧
        (n = 2 → exec (.sq m a d) s = .next (s.modCore c fun k => { k with storeHeld := some s.pcc }))) ∧
      (∀ f, d.getLsbD 0 = false → s.viewHeld c at_ 16 1 = false → s.viewLoad c at_ 16 = .bad f → exec (.lq m a d) s = .next (s.raiseAccess c at_ f)) ∧
      (∀ bs, d.getLsbD 0 = false → s.viewHeld c at_ 16 1 = false → s.viewLoad c at_ 16 = .ok bs →
        ∃ u x, exec (.lq m a d) s = .next u ∧
          u = s.setCore c (Core.retire { s.core c with ct := { (s.core c).ct with x := x } }) ∧
          ∀ r, (u.core c).getX r =
            if r = d + 1#5 then BitVec.ofNat 64 (leNat (bs.drop 8))
            else if r = d ∧ d ≠ 0#5 then BitVec.ofNat 64 (leNat (bs.take 8)) else (s.core c).getX r) ∧
      (∀ f, d.getLsbD 0 = false → s.viewHeld c at_ 16 2 = false → s.translate c at_ 16 2 = .bad f →
        exec (.sq m a d) s = .next (s.raiseAccess c at_
          (if f = ⟨FCode.rights, 2⟩ ∧ (∃ w, (s.core c).storeHeld = some w ∧ w + 1 = s.pcc) then ⟨FCode.vergone, 2⟩ else f))) ∧
      (∀ ks s1 keys, d.getLsbD 0 = false → s.viewHeld c at_ 16 2 = false → s.MemOk → s.translate c at_ 16 2 = .ok ks →
        (∀ k ∈ ks, s.pageLocked k = false) → s.ownPages (State.draftPages (s.core c) at_ 16) = some s1 → s1.translate c at_ 16 2 = .ok keys →
        ∃ u, exec (.sq m a d) s = .next u ∧
          CtStored s1 u c keys (leBytes 8 (s.rx d).toNat ++ leBytes 8 (s.rx (d + 1#5)).toNat)))

/-! ## The privileged instructions, hand-over, copy jobs and collectives -/

/-- R417, R419 to R422: the Yard instructions of the system cores. -/
def Obligations.YardInstructions : Prop :=
  (∀ (s : State) h i w, s.agent = .hart h → (s.hart h).mode = 0 → encode32 i = some w →
    ((∃ a d, i = .yrd a d) ∨ (∃ b a, i = .ywr b a) ∨ (∃ a d, i = .ylock a d) ∨ (∃ b a d, i = .yswitch b a d) ∨ (∃ a, i = .hhinv a) ∨
      ∃ b a, i = .pghash b a) → exec i s = .next (s.hartIllegal h w 8)) ∧
  (∀ (s : State) h a b d w, HartPriv s h →
    let x := s.rx a
    let key := Handle.key x
    let n := subf x
    (s.selectorBad x = true →
      (encode32 (.yrd a d) = some w → exec (.yrd a d) s = .next (s.hartIllegal h w 1)) ∧
      (encode32 (.ywr b a) = some w → exec (.ywr b a) s = .next (s.hartIllegal h w 1)) ∧
      (encode32 (.ylock a d) = some w → exec (.ylock a d) s = .next (s.hartIllegal h w 1)) ∧
      (encode32 (.hhinv a) = some w → exec (.hhinv a) s = .next (s.hartIllegal h w 1))) ∧
    (s.selectorBad x = false →
      (∃ t, exec (.yrd a d) s = .next t ∧ Wrote (s.countYard key n) t d (s.yw key n) (s.pc + 4#64)) ∧
      (s.holdsLock h key = false → encode32 (.ywr b a) = some w → exec (.ywr b a) s = .next (s.hartIllegal h w 3)) ∧
      (s.holdsLock h key = true → (s.yw key 0).getLsbD 46 = true → n = 4 ∨ (9 ≤ n ∧ n ≤ 13) → encode32 (.ywr b a) = some w →
        exec (.ywr b a) s = .next (s.hartIllegal h w 2)) ∧
      (s.holdsLock h key = true → ¬ ((s.yw key 0).getLsbD 46 = true ∧ (n = 4 ∨ (9 ≤ n ∧ n ≤ 13))) →
        ∃ t s1, exec (.ywr b a) s = .next t ∧ Wrote s1 t 0#5 0#64 (s.pc + 4#64) ∧
          s1 = { s.countYard key n with yard := s1.yard, dirty := s1.dirty, flags := s1.flags, seen := s1.seen } ∧
          ((Tbl.find s.seen key).isSome = true → ∀ m, m ≠ 0 → s1.ew key m = s.ew key m) ∧
          (n ≠ 0 → s1.yw key n = s.rx b &&& State.ywFields n) ∧ fld (s1.yw key 0) 50 3 = s1.newLiven key ∧
          (∀ i, ¬ (50 ≤ i ∧ i < 53) →
            (s1.yw key 0).getLsbD i = if n = 0 then (s.rx b &&& State.ywFields 0).getLsbD i else (s.yw key 0).getLsbD i) ∧
          (∀ m, m < 16 → m ≠ n → m ≠ 0 → s1.yw key m = s.yw key m) ∧ (∀ k m, m < 16 → k ≠ key → s1.yw k m = s.yw k m) ∧
          (∀ k, k ≠ key → s1.flag k = s.flag k) ∧ (s.creates key n (s.rx b) = false → s1.flags = s.flags) ∧
          (s.creates key n (s.rx b) = true → Tbl.sorted s.flags = true → s1.flag key = 0#64)) ∧
      (n = 1 → Tbl.find s.ylocks key = none →
        ∃ t, exec (.ylock a d) s = .next t ∧
          Wrote { s with ylocks := Tbl.put s.ylocks key h, seen := Tbl.put s.seen key (s.entry key) } t d 1#64 (s.pc + 4#64)) ∧
      (∀ o, n = 1 → Tbl.find s.ylocks key = some o →
        ∃ t, exec (.ylock a d) s = .next t ∧ Wrote s t d (if o = h then 1#64 else 0#64) (s.pc + 4#64)) ∧
      (1 < n → encode32 (.ylock a d) = some w → exec (.ylock a d) s = .next (s.hartIllegal h w 1)) ∧
      (n = 0 → s.holdsLock h key = false → encode32 (.ylock a d) = some w → exec (.ylock a d) s = .next (s.hartIllegal h w 4)) ∧
      (n = 0 → s.holdsLock h key = true → s.acked h key = false →
        exec (.ylock a d) s = .next (s.setHart h { s.hart h with wait := some (true, 0#5, a, d) })) ∧
      (n ≠ 0 → encode32 (.hhinv a) = some w → exec (.hhinv a) s = .next (s.hartIllegal h w 1)) ∧
      (n = 0 → ∃ t s1, exec (.hhinv a) s = .next t ∧ Wrote s1 t 0#5 0#64 (s.pc + 4#64) ∧
        s1 = { s with invs := s1.invs, outbox := s1.outbox } ∧
        ((∀ e ∈ s.hcache, e.1 / 128 ≠ key) → (∀ p ∈ s.domain, p = s.pkg) → s1.invs = s.invs ∧ s1.outbox = s.outbox) ∧
        (∀ c, (∃ e ∈ s.hcache, e.1 / 128 = key ∧ e.1 % 128 = c) →
          ∃ cs, c ∈ cs ∧ s1.invs = s.invs ++ [(if s.holdsLock h key then h else 64, key, cs)]) ∧
        ∀ p ∈ s.domain, p ≠ s.pkg → (5, p, 2, leBytes 8 key) ∈ s1.outbox ∧
          ∃ cs, 128 + p ∈ cs ∧ s1.invs = s.invs ++ [(if s.holdsLock h key then h else 64, key, cs)]))) ∧
  (∀ (s : State) h a b d i, 
    (i = Instr.ylock a d ∧ HartPriv s h ∧ s.selectorBad (s.rx a) = false ∧ subf (s.rx a) = 0 ∧ s.holdsLock h (Handle.key (s.rx a)) = true) ∨
      (i = .ylockReleaseDone ∧ s.agent = .unit h ∧ (s.hart h).wait = some (true, b, a, d)) →
    let key := Handle.key ((s.hart h).getX a)
    s.acked h key = true →
    ∃ t, exec i s = .next t ∧ HartEnded s t h d 1#64 ∧ t.ylocks = Tbl.erase s.ylocks key ∧ t.seen = Tbl.erase s.seen key ∧
      t.mem = s.mem ∧ t.yard = s.yard)

/-- R428, R434: the page instructions of the system cores. -/
def Obligations.PageInstructions : Prop :=
  (∀ (s : State) h a b d w, HartPriv s h → encode32 (.yswitch b a d) = some w →
    let v := s.rx b
    (s.localPlace (s.rx a).toNat 8 = none → exec (.yswitch b a d) s = .next (s.hartIllegal h w 5)) ∧
    ∀ key, s.localPlace (s.rx a).toNat 8 = some key →
      (s.touchesYard key 8 = true → exec (.yswitch b a d) s = .next (s.hartTrap h Exc.storeAccess (s.rx a) 0#64)) ∧
      (s.touchesYard key 8 = false →
        let s0 := s.countHpc (State.tableRef key) 8
        (v = 0#64 → (∃ l ∈ s.plocks, l.1 = key) →
          ∃ t, exec (.yswitch b a d) s = .next t ∧ Wrote s0 t d (BitVec.allOnes 64) (s.pc + 4#64)) ∧
        (v = 0#64 → (∀ l ∈ s.plocks, l.1 ≠ key) →
          let frame := ((State.pteFrame (s.num key 8)).map (paKeyAt s s.pkg)).getD State.noFrame
          (s.pageLimit h frame = true →
            ∃ t, exec (.yswitch b a d) s = .next t ∧ Wrote s0 t d (BitVec.allOnes 64) (s.pc + 4#64)) ∧
          (s.pageLimit h frame = false →
            ∃ t, exec (.yswitch b a d) s = .next t ∧
              Wrote { s0 with plocks := s.plocks ++ [(key, h, frame)] } t d (BitVec.ofNat 64 (s.num key 8)) (s.pc + 4#64))) ∧
        (v ≠ 0#64 → s.holdsPage h key = false → exec (.yswitch b a d) s = .next (s.hartIllegal h w 3)) ∧
        (v = BitVec.allOnes 64 → s.holdsPage h key = true →
          ∃ t, exec (.yswitch b a d) s = .next t ∧
            Wrote { s0 with plocks := s.plocks.filter fun l => l.1 != key } t d (BitVec.ofNat 64 (s.num key 8)) (s.pc + 4#64)) ∧
        (v ≠ 0#64 → v ≠ BitVec.allOnes 64 → s.holdsPage h key = true → State.pteOk v.toNat = false →
          exec (.yswitch b a d) s = .next (s.hartIllegal h w 6)) ∧
        (v ≠ 0#64 → v ≠ BitVec.allOnes 64 → s.holdsPage h key = true → State.pteOk v.toNat = true → s.MemOk →
          ∃ s1 : State, exec (.yswitch b a d) s = .next (s1.setHart h
              { s.hart h with wait := some (false, b, a, d), oldPte := BitVec.ofNat 64 (s.num key 8) }) ∧
            (∀ n < 8, s1.byte (key + n) = BitVec.ofNat 8 (v.toNat / 2 ^ (8 * n))) ∧ (∀ m, (∀ n < 8, m ≠ key + n) → s1.byte m = s.byte m) ∧
            (∀ f, State.pteFrame v.toNat = some f → ∀ e ∈ s.lostSecs, e.1 = key → s1.poisoned (paKeyAt s s.pkg f + 32 * e.2) 32 = true) ∧
            s1 = { s with
              mem := s1.mem, poison := s1.poison, l2Poison := s1.l2Poison, lostSecs := s1.lostSecs, regs := s1.regs, fresh := s1.fresh
              dirty := s1.dirty, dirtyGran := s1.dirtyGran }))) ∧
  (∀ (s : State) h a b d key, s.agent = .unit h → (s.hart h).wait = some (false, b, a, d) →
    s.localPlace ((s.hart h).getX a).toNat 8 = some key →
    ∃ t, exec .yswitchCommitDone s = .next t ∧ HartEnded s t h d (s.hart h).oldPte ∧ (∀ l ∈ t.plocks, l.1 ≠ key) ∧
      (∀ l ∈ s.plocks, l.1 ≠ key → l ∈ t.plocks) ∧
      let frame := fun (pte : Nat) => ((State.pteFrame pte).map (paKeyAt s s.pkg)).getD State.noFrame
      let moved := fun (k : Nat) => if k / 65536 * 65536 = frame (s.hart h).oldPte.toNat then frame (s.num key 8) + k % 65536 else k
      t.linkHeld = s.linkHeld.map (fun e => (moved e.1, e.2)) ∧ t.cxlHeld = s.cxlHeld.map fun e => (moved e.1, e.2)) ∧
  (∀ (s : State) h a b w, HartPriv s h → encode32 (.pghash b a) = some w →
    ((s.localPlace (s.rx a).toNat 65536 = none ∨ s.localPlace (s.rx b).toNat 32 = none) →
      exec (.pghash b a) s = .next (s.hartIllegal h w 5)) ∧
    ∀ f t, s.localPlace (s.rx a).toNat 65536 = some f → s.localPlace (s.rx b).toNat 32 = some t →
      s.touchesYard f 65536 = false → s.touchesYard t 32 = false → s.poisoned f 65536 = false →
      (s.pageLocked t = true → exec (.pghash b a) s = .next s) ∧
      (s.pageLocked t = false →
        ∃ u, exec (.pghash b a) s = .next u ∧
          Wrote ((((((s.countHpc (State.tableRef f) 65536).countHpc (State.tableRef t) 32).soil (State.tableRef t) 32).write t
            (Keccak.shake256 (s.bytes f 65536) 32))).noteRemote [t, t + 31]) u 0#5 0#64 (s.pc + 4#64)))

/-- R388 to R391: KVHAND and KVTAKE. -/
def Obligations.HandOverAndTake : Prop :=
  (∀ (s : State) c a b d, s.agent = .seq c .ct → (s.principal c).team = 0 →
    exec (.kvhand b a d) s = .next (s.raiseCt c FCode.teambad 6 0#64) ∧
    exec (.kvtake b a d) s = .next (s.raiseCt c FCode.teambad 6 0#64)) ∧
  (∀ (s : State) c a b d i l, HandTries s c .kvhand a b d (.kvhand b a d) .kvhandEvent i l
      (fun l => (∃ lf, Granted s c l.flag Right.publish true true lf) ∧ HandChecks s c l.pages) →
    let ps := (List.range l.pages.length).zip l.pages
    let lay := fun h => layoutOf (Handle.home h) (s.entry (Handle.key h))
    let lost := fun h => s.draftLost (Handle.key h) (lay h)
    let held := (∃ h ∈ l.flag :: l.pages, s.entryLocked h = true) ∨ ∃ h ∈ l.pages, s.draftOut (Handle.key h) (lay h) = true
    (held → ∃ t, exec i s = .next t ∧ StillWaits s t c .kvhand (.kvhand b a d) i) ∧
    (¬ held → s.liveRoute (Handle.home l.flag) = false → exec i s = .next (s.raiseCt c FCode.linkdead 0 0#64)) ∧
    (¬ held → s.liveRoute (Handle.home l.flag) = true →
      (s.team l.team = none →
        ∃ t, exec i s = .next t ∧ CtWrote s t c d (BitVec.ofNat 64 (0xFF * 2 ^ 16 + 4)) ((s.core c).ct.pc + 4#64)) ∧
      (∀ n h, (s.team l.team).isSome = true → (n, h) ∈ ps → (∀ e ∈ ps, e.1 < n → HandsOver s c e.2) → ¬ HandsOver s c h →
        ∃ t, exec i s = .next t ∧
          CtWrote s t c d (BitVec.ofNat 64 (n * 2 ^ 16 + if s.liveRoute (Handle.home h) = false then 2 else 4)) ((s.core c).ct.pc + 4#64)) ∧
      (∀ n h, (s.team l.team).isSome = true → (∀ h ∈ l.pages, HandsOver s c h) → (n, h) ∈ ps → lost h ≠ [] →
        (∀ e ∈ ps, e.1 < n → lost e.2 = []) →
        ∃ t dead, exec i s = .next t ∧ (dead = true ↔ ∃ h ∈ l.pages, ∃ x ∈ lost h, x.2 = 1) ∧
          CtWrote s t c d
            (BitVec.ofNat 64 (n * 2 ^ 16 + (min (l.pages.map fun h => (lost h).length).sum 255 * 256 + if dead then 2 else 0)))
            ((s.core c).ct.pc + 4#64)) ∧
      ((s.team l.team).isSome = true → (∀ h ∈ l.pages, HandsOver s c h) → (∀ h ∈ l.pages, lost h = []) →
        ((∃ h ∈ l.pages, (s.ew (Handle.key h) 0).getLsbD 49 = true) →
          ∃ t, exec i s = .next t ∧ StillWaits s t c .kvhand (.kvhand b a d) i) ∧
        ((∀ h ∈ l.pages, (s.ew (Handle.key h) 0).getLsbD 49 = false) →
          ∃ t s1 full, exec i s = .next t ∧
            CtWrote s1 t c d (BitVec.ofNat 64 (l.pages.length * 2 ^ 32 + 1 + (if full then 8 else 0))) ((s.core c).ct.pc + 4#64) ∧
            (∀ e r, (s1.core e).getX r = (s.core e).getX r) ∧
            s1.flag (Handle.key l.flag) = (s.core c).getX b ∧ (∀ k, k ≠ Handle.key l.flag → s1.flag k = s.flag k) ∧
            (∀ h ∈ l.pages, s1.curv (Handle.key h) = (s.curv (Handle.key h) + 1) % 2 ^ 32 ∧ s1.hkind (Handle.key h) = 0 ∧
              fld (s1.ew (Handle.key h) 14) 0 24 = l.team % 2 ^ 24) ∧
            (full = true ↔ ∃ h ∈ l.pages, s1.liven (Handle.key h) = 4))))) ∧
  (∀ (s : State) c a b d l lf, s.agent = .seq c .ct → (s.principal c).team ≠ 0 → HandReads s c ((s.core c).getX a) l →
    ((l.flag :: l.pages).map Handle.key).Nodup → Granted s c l.flag Right.read true false lf → l.team ≠ (s.principal c).team →
    ∃ t, exec (.kvtake b a d) s = .next t ∧ CtWrote s t c d (BitVec.ofNat 64 (0xFF * 2 ^ 16 + 4)) ((s.core c).ct.pc + 4#64)) ∧
  (∀ (s : State) c a b d i l, HandTries s c .kvtake a b d (.kvtake b a d) .kvtakeComplete i l
      (fun l => (∃ lf, Granted s c l.flag Right.read true false lf) ∧ l.team = (s.principal c).team) →
    let ps := (List.range l.pages.length).zip l.pages
    let short := (s.flag (Handle.key l.flag)).ult ((s.core c).getX b) = true ∨ ∃ h ∈ l.pages, s.entryLocked h = true
    (s.entryLocked l.flag = true → ∃ t, exec i s = .next t ∧ StillWaits s t c .kvtake (.kvtake b a d) i) ∧
    (s.entryLocked l.flag = false → s.liveRoute (Handle.home l.flag) = false →
      exec i s = .next (s.raiseCt c FCode.linkdead 0 0#64)) ∧
    (s.entryLocked l.flag = false → s.liveRoute (Handle.home l.flag) = true →
      (short → ∃ t, exec i s = .next t ∧ StillWaits s t c .kvtake (.kvtake b a d) i) ∧
      (¬ short →
        (∀ n h, (n, h) ∈ ps → (∀ e ∈ ps, e.1 < n → Takes s c e.2) →
          let gives := fun (bit : Nat) => ∃ t, exec i s = .next t ∧ CtWrote s t c d (BitVec.ofNat 64 (n * 2 ^ 16 + bit)) ((s.core c).ct.pc + 4#64)
          (∀ f, s.lookup (s.principal c) h = .bad f →
            (f.code = FCode.linkdead → gives 2) ∧ (f.code ≠ FCode.linkdead → exec i s = .next (s.raiseCt c f.code f.detail 0#64))) ∧
          ∀ lp, s.lookup (s.principal c) h = .ok lp →
            (s.liveRoute (Handle.home h) = false → gives 2) ∧
            (s.liveRoute (Handle.home h) = true →
              (¬ OwnedBy s (Handle.key h) (s.principal c).team ∨ s.pinOf (Handle.key h) 3 = 2 ^ 32 - 1 → gives 4) ∧
              (OwnedBy s (Handle.key h) (s.principal c).team → s.pinOf (Handle.key h) 3 ≠ 2 ^ 32 - 1 →
                ∀ f, s.checkRights (s.principal c) h lp Right.read false = some f → exec i s = .next (s.raiseCt c f.code f.detail 0#64)))) ∧
        ((∀ h ∈ l.pages, Takes s c h) →
          ∃ t s1, exec i s = .next t ∧
            CtWrote s1 t c d (BitVec.ofNat 64 (l.pages.length * 2 ^ 32 + 1)) ((s.core c).ct.pc + 4#64) ∧ s1.mem = s.mem ∧
            s1.flags = s.flags ∧ (∀ e, e ≠ c → s1.core e = s.core e) ∧ (∀ r, (s1.core c).getX r = (s.core c).getX r) ∧
            ∀ h ∈ l.pages, s.curv (Handle.key h) ≠ 0 → s1.pinOf (Handle.key h) 3 = s.pinOf (Handle.key h) 3 + 1))))

/-- R331, R356, R361: CJOB. -/
def Obligations.CopyJobsAreAccepted : Prop :=
  ∀ (s : State) c a b d, s.agent = .seq c .ct →
    let t0 := (s.rx b).toNat
    ((s.rx a).toNat % 64 ≠ 0 → exec (.cjob b a d) s = .next (s.raiseCt c FCode.align 0 (s.rx a))) ∧
    ((s.rx a).toNat % 64 = 0 → s.viewHeld c (s.rx a).toNat 128 1 = true → exec (.cjob b a d) s = .next s) ∧
    (∀ f, (s.rx a).toNat % 64 = 0 → s.viewHeld c (s.rx a).toNat 128 1 = false → s.viewLoad c (s.rx a).toNat 128 = .bad f →
      exec (.cjob b a d) s = .next (s.raiseAccess c (s.rx a).toNat f)) ∧
    ∀ bs, (s.rx a).toNat % 64 = 0 → s.viewHeld c (s.rx a).toNat 128 1 = false → s.viewLoad c (s.rx a).toNat 128 = .ok bs →
      (fld (nth 0#64 (words64 16 bs) 1) 48 16 ≤ t0 → exec (.cjob b a d) s = .next (s.raiseCt c FCode.illop 0x26 0#64)) ∧
      ∀ j rs, j.card = words64 16 bs → j.tdone = t0 → t0 < j.nt → JobPasses s c j rs →
        let mine := ((s.jobsOf (s.core c).crid).filter fun x => x.die = c / 256).length
        (16 ≤ mine →
          ∃ u, exec (.cjob b a d) s = .next u ∧ Wrote s u d (BitVec.ofNat 64 (2 ^ 63 + 1)) (s.pc + 4#64)) ∧
        (mine < 16 →
          (∀ x ∈ s.jobs, x.die = c / 256 ∨ x.crid = (s.core c).crid → x.jid ≠ j.jid) ∧
          ∃ u s1, exec (.cjob b a d) s = .next u ∧ Wrote s1 u d (BitVec.ofNat 64 j.jid) (s.pc + 4#64) ∧ s1.jobs = s.jobs ++ [j] ∧
            s1.order = s.order + 1 ∧ s1.mem = s.mem ∧ s1.cores = s.cores ∧ s1.harts = s.harts)

/-- R351, R354, R355, R357: one move of a copy job. Log entry 26: the barriers of a task that is saved stand in its save (`ringCtx`), and a job that runs on
after its task has gone, or while it is being discarded, has no ring (`ringGone`). -/
def Obligations.CopyTilesMoveTheJob : Prop :=
  ∀ (s : State) j, s.jobs.find? (fun x => State.jobUnit x = s.unit) = some j →
    (j.ended = true → exec .copyTile s = .next s) ∧
    (j.ended = false → s.jobHeld j = true → exec .copyTile s = .next (s.setJob { j with st := 0 })) ∧
    (j.ended = false → s.jobHeld j = false → j.bmode ≠ 0 → s.passed j = false →
      ((s.ringOpen j = false ∨ s.outranked j = true) → exec .copyTile s = .next (s.setJob { j with st := 1 })) ∧
      (s.ringOpen j = true → s.outranked j = false →
        ∃ t, exec .copyTile s = .next t ∧ t.jobs = (s.setJob { j with st := 2 }).jobs ∧ t.mem = s.mem ∧
          t.ringCtx j = { s.ringCtx j with cbOwner := Tbl.put (s.ringCtx j).cbOwner (j.ringOf j.tdone) j.jid })) ∧
    (j.ended = false → s.jobHeld j = false → (j.bmode = 0 ∨ s.passed j = true) → j.st ≠ 2 →
      exec .copyTile s = .next (s.setJob { j with st := 2 })) ∧
    (j.ended = false → s.jobHeld j = false → (j.bmode = 0 ∨ s.passed j = true) → j.st = 2 →
      (s.workTile j = .wait → exec .copyTile s = .next s) ∧
      (s.workTile j = .pool → ∃ t, exec .copyTile s = .next t ∧ t.cores = s.cores ∧
        ∀ x ∈ t.jobs, x.jid = j.jid → x.die = j.die → (x.tdone = j.tdone ∧ x.st = j.st) ∨ x ∈ s.jobs) ∧
      (∀ s1, s.workTile j = .wrote s1 → s1.jobs = s.jobs →
        (j.tdone + 1 ≠ j.nt → ∃ t, exec .copyTile s = .next t ∧ t.mem = s1.mem ∧
          t.jobs = s.jobs.map fun x =>
            if x.jid = j.jid ∧ x.die = j.die then
              { j with tdone := j.tdone + 1, poolNote := false, st := if j.bmode = 0 ∨ s1.ringGone j = true then 2 else 1 } else x) ∧
        (j.tdone + 1 = j.nt → j.orphan = false → ∃ t, exec .copyTile s = .next t ∧
          t.jobs = s.jobs.map fun x =>
            if x.jid = j.jid ∧ x.die = j.die then { j with tdone := j.nt, poolNote := false, st := 3, vers := [] } else x) ∧
        (j.tdone + 1 = j.nt → j.orphan = true → ∃ t, exec .copyTile s = .next t ∧
          t.jobs = s.jobs.filter fun x => x.jid != j.jid || x.die != j.die) ∧
        (j.bmode ≠ 0 → j.tdone + 1 ≠ j.nt → s1.ringGone j = false → ∃ t, exec .copyTile s = .next t ∧
          (s1.crSv j.crid = false →
            (t.core j.core).cbPend = (s1.core j.core).cbPend ++ [(s1.pcc + 1, j.ringOf j.tdone, j.bmode == 1, j.jid)]) ∧
          (s1.crSv j.crid = true →
            t.ringCtx j = { s1.ringCtx j with
              cb := fillAt false (s1.ringCtx j).cb (j.ringOf j.tdone) (j.bmode == 1)
              cbOwner := Tbl.erase (s1.ringCtx j).cbOwner (j.ringOf j.tdone) }))) ∧
      (∀ e, s.workTile j = .fault e → j.orphan = false → ∃ t, exec .copyTile s = .next t ∧
        t.jobs = s.jobs.map fun x =>
          if x.jid = j.jid ∧ x.die = j.die then
            { j with fcode := e.code, fdetail := e.detail, felem := e.elem, freg := e.reg, st := 4, vers := [] } else x))

/-- R362, R363: CWAIT and CSTAT. -/
def Obligations.CopyJobsAreWaitedFor : Prop :=
  (∀ (s : State) c a b d i, Tries s c .cwait a b d (.cwait a d) .cwaitComplete i →
    let x := (s.core c).getX a
    (s.findJob c x = none → ∃ t, exec i s = .next t ∧ CtWrote s t c d 0#64 ((s.core c).ct.pc + 4#64)) ∧
    ∀ j, s.findJob c x = some j →
      (j.ended = false → ∃ t, exec i s = .next t ∧ StillWaits s t c .cwait (.cwait a d) i) ∧
      (j.ended = true →
        ∃ t s1, exec i s = .next t ∧ CtWrote s1 t c d j.progress ((s.core c).ct.pc + 4#64) ∧ s1 = { s with jobs := s1.jobs } ∧
          ∀ y, y ∈ s1.jobs ↔ y ∈ s.jobs ∧ ¬ (y.jid = j.jid ∧ y.die = j.die))) ∧
  (∀ (s : State) c w j, s.agent = .unit c → s.waiting c .cwait = some w → s.findJob c ((s.core c).getX w.a) = some j →
    (s.cwaitStuck c j = true → exec .cwaitStallDetect s = .next (s.raiseCt c FCode.illop 0x61 0#64)) ∧
    (s.cwaitStuck c j = false → exec .cwaitStallDetect s = .next s)) ∧
  (∀ (s : State) c a d, s.agent = .seq c .ct →
    let x := s.rx a
    (2 ^ 33 ≤ x.toNat → exec (.cstat a d) s = .next (s.raiseCt c FCode.illop 0x26 0#64)) ∧
    (x.toNat < 2 ^ 33 → s.findJob c (x &&& 0xFFFFFFFF#64) = none →
      ∃ t, exec (.cstat a d) s = .next t ∧ Wrote s t d 0#64 (s.pc + 4#64)) ∧
    ∀ j, x.toNat < 2 ^ 33 → s.findJob c (x &&& 0xFFFFFFFF#64) = some j →
      ∃ t, exec (.cstat a d) s = .next t ∧ Wrote s t d (if x.getLsbD 32 then j.faultWord else j.progress) (s.pc + 4#64))

/-- R364, R365: CBINIT and CBQ. -/
def Obligations.ShapesAndBarriers : Prop :=
  (∀ (s : State) c a b d, s.agent = .seq c .ct →
    let x := s.rx a
    let id := (s.rx b).toNat
    let t := (s.core c).crid
    (id = 0 ∨ 15 < id → exec (.cbinit b a d) s = .next (s.raiseCt c FCode.illop 0x26 0#64)) ∧
    (0 < id → id ≤ 15 →
      (x = 0#64 → s.findShape (c / 256) t id = none → ∃ u, exec (.cbinit b a d) s = .next u ∧ Wrote s u d 0#64 (s.pc + 4#64)) ∧
      (x = 0#64 → (s.findShape (c / 256) t id).isSome = true →
        ∃ u s1, exec (.cbinit b a d) s = .next u ∧ Wrote s1 u d (BitVec.ofNat 64 id) (s.pc + 4#64) ∧ s1 = { s with shapes := s1.shapes } ∧
          s1.findShape (c / 256) t id = none ∧ ∀ e ∈ s.shapes, e.2.id ≠ id → e ∈ s1.shapes) ∧
      (x ≠ 0#64 → x.toNat % 32 ≠ 0 → exec (.cbinit b a d) s = .next (s.raiseCt c FCode.align 0 x)) ∧
      (x ≠ 0#64 → x.toNat % 32 = 0 → s.viewHeld c x.toNat 96 1 = true → exec (.cbinit b a d) s = .next s) ∧
      (∀ f, x ≠ 0#64 → x.toNat % 32 = 0 → s.viewHeld c x.toNat 96 1 = false → s.viewLoad c x.toNat 96 = .bad f →
        exec (.cbinit b a d) s = .next (s.raiseAccess c x.toNat f)) ∧
      ∀ bs, x ≠ 0#64 → x.toNat % 32 = 0 → s.viewHeld c x.toNat 96 1 = false → s.viewLoad c x.toNat 96 = .ok bs →
        let w := words64 12 bs
        (shapeImageBad w = true → exec (.cbinit b a d) s = .next (s.raiseCt c FCode.illop 0x62 0#64)) ∧
        (shapeImageBad w = false →
          ((s.findShape (c / 256) t id).isSome = true ∨ 256 ≤ (s.shapes.filter fun e => e.1 = c / 256).length →
            ∃ u, exec (.cbinit b a d) s = .next u ∧ Wrote s u d 0#64 (s.pc + 4#64)) ∧
          (s.findShape (c / 256) t id = none → (s.shapes.filter fun e => e.1 = c / 256).length < 256 →
            ∃ u, exec (.cbinit b a d) s = .next u ∧
              Wrote { s with shapes := s.shapes ++
                [(c / 256, { owner := (s.shapeOwner t).1, isTeam := (s.shapeOwner t).2, id := id, w := w })] } u d
                (BitVec.ofNat 64 id) (s.pc + 4#64))))) ∧
  (∀ (s : State) c a d, s.agent = .seq c .ct →
    let x := (s.rx a).toNat
    let bad := 1024 ≤ x ∨ bitsOf x 5 3 ≠ 0 ∨ bitsOf x 8 2 = 3 ∨ (bitOf x 4 = true ∧ bitsOf x 8 2 ≠ 0)
    (bad → exec (.cbq a d) s = .next (s.raiseCt c FCode.illop 0x26 0#64)) ∧
    (¬ bad → bitOf x 4 = true →
      ∃ u w, exec (.cbq a d) s = .next u ∧ Wrote s u d w (s.pc + 4#64) ∧
        ∀ i, i < 16 → w.getLsbD i = (cbqWord (s.core c) i).getLsbD 0 ∧ w.getLsbD (16 + i) = (s.core c).owned i) ∧
    (¬ bad → bitOf x 4 = false → bitsOf x 8 2 = 0 ∨ (s.core c).owned (x % 16) = true →
      ∃ u, exec (.cbq a d) s = .next u ∧ Wrote s u d (cbqWord (s.core c) (x % 16)) (s.pc + 4#64)) ∧
    (¬ bad → bitOf x 4 = false → bitsOf x 8 2 ≠ 0 → (s.core c).owned (x % 16) = false →
      ∃ u p, exec (.cbq a d) s = .next u ∧
        Wrote (s.setCore c { s.core c with cbPend := p }) u d
          (BitVec.ofNat 64 (b2n (bitsOf x 8 2 == 2) + Tbl.get 0 (s.core c).cbOwner (x % 16) * 2 ^ 32)) (s.pc + 4#64) ∧
        p = (s.core c).cbPend ++ [(s.pcc + 2, x % 16, bitsOf x 8 2 == 2, 0)]))

/-- R402 to R405: the collective instructions. -/
def Obligations.CollectivesAreAccepted : Prop :=
  ∀ (s : State) (c : Nat) (a b d : BitVec 5) (i : Instr) (n : Nat), s.agent = .seq c .ct →
    (n, i) ∈ ([(0, .clar b a d), (1, .clmrg b a d), (2, .clbc b a d), (3, .clgath b a d)] : List (Nat × Instr)) →
    ((s.rx a).toNat % 64 ≠ 0 → exec i s = .next (s.raiseCt c FCode.align 0 (s.rx a))) ∧
    ((s.rx a).toNat % 64 = 0 → s.viewHeld c (s.rx a).toNat 64 1 = true → exec i s = .next s) ∧
    (∀ f, (s.rx a).toNat % 64 = 0 → s.viewHeld c (s.rx a).toNat 64 1 = false → s.viewLoad c (s.rx a).toNat 64 = .bad f →
      exec i s = .next (s.raiseAccess c (s.rx a).toNat f)) ∧
    ∀ bs, (s.rx a).toNat % 64 = 0 → s.viewHeld c (s.rx a).toNat 64 1 = false → s.viewLoad c (s.rx a).toNat 64 = .ok bs →
      let w := words64 8 bs
      let k : ClCard :=
        { instr := n, tag := (s.rx b).toNat, src := nth 0#64 w 0, dst := nth 0#64 w 1, grp := nth 0#64 w 2
          root := fld (nth 0#64 w 3) 48 16, op := fld (nth 0#64 w 3) 32 8, svsel := fld (nth 0#64 w 3) 0 32 }
      (2 ^ 32 ≤ k.tag → exec i s = .next (s.raiseCt c FCode.illop 0x26 0#64)) ∧
      (k.tag < 2 ^ 32 → clCardBad n w = true ∨ s.clIllop c k = true → exec i s = .next (s.raiseCt c FCode.illop 0x70 0#64)) ∧
      ∀ src dst grp ms, k.tag < 2 ^ 32 → clCardBad n w = false → CollPasses s c k src dst grp ms →
        let inUse := ∃ x ∈ s.colls, x.grp.toNat / 2 ^ 12 = k.grp.toNat / 2 ^ 12 ∧ x.tag = k.tag ∧ x.instr = n
        (s.pkg ∉ ms ∨ inUse →
          ∃ u, exec i s = .next u ∧ Wrote s u d (BitVec.ofNat 64 (2 ^ 63 + 2)) (s.pc + 4#64)) ∧
        (s.pkg ∈ ms → ¬ inUse → 8 ≤ (s.collsOf (s.core c).crid).length →
          ∃ u, exec i s = .next u ∧ Wrote s u d (BitVec.ofNat 64 (2 ^ 63 + 1)) (s.pc + 4#64)) ∧
        (s.pkg ∈ ms → ¬ inUse → (s.collsOf (s.core c).crid).length < 8 →
          ∃ (u s1 : State) (x : Coll), exec i s = .next u ∧ Wrote s1 u d (BitVec.ofNat 64 x.cid) (s.pc + 4#64) ∧ s1.colls = s.colls ++ [x] ∧
            x.instr = n ∧ x.tag = k.tag ∧ x.grp = k.grp ∧ x.src = k.src ∧ x.dst = k.dst ∧ x.members = ms ∧ nth 0 ms x.rank = s.pkg ∧
            x.crid = (s.core c).crid ∧ x.start = s.pcc ∧ x.status = none ∧ x.own = none ∧ (∀ y ∈ s.colls, y.cid ≠ x.cid) ∧
            s1.order = s.order + 1 ∧ s1.mem = s.mem ∧ s1.harts = s.harts ∧ ∀ e, e ≠ c → s1.core e = s.core e)

/-- R406 to R409: the end of a collective and CLWAIT. Log entry 17: heads are the 56 bytes `take 56`, records begin at byte 64. Log entry 36: NFAIL
counts sectors, a source that cannot be read waits. -/
def Obligations.CollectivesComplete : Prop :=
  (∀ (s : State) k, s.colls.find? (fun c => c.cid = s.unit) = some k →
    (k.status.isSome = true ∨ s.claimHeld k.claim = true → exec .collectiveComplete s = .next s) ∧
    (k.status = none → s.claimHeld k.claim = false → k.own = none → exec .collectiveComplete s = .next (s.contribute k)) ∧
    (∀ own low, k.status = none → s.claimHeld k.claim = false → k.own = some own → k.put = some low →
      let key := Handle.key k.dst
      let l := layoutOf (Handle.home k.dst) (s.entry key)
      let lost := s.draftLost key l
      (k.dstGone = false → s.draftOut key l = true → exec .collectiveComplete s = .next (s.setColl { k with put := some low })) ∧
      (k.dstGone = false → s.draftOut key l = false →
        ∃ n dead ok, exec .collectiveComplete s =
            .next (s.endColl k (State.collStatus k (min 255 n * 256 + b2n (bitOf low 4) * 16 + b2n dead * 2 + b2n ok))) ∧
          n = low / 256 + lost.length ∧ (dead = true ↔ bitOf low 1 = true ∨ ∃ e ∈ lost, e.2 = 1) ∧ (ok = true ↔ n = 0))) ∧
    ∀ own, k.status = none → s.claimHeld k.claim = false → k.own = some own → k.put = none →
      ((∃ r bs, r < k.members.length ∧ s.contribOf k r = some bs ∧ bs.take 56 ≠ own.take 56) →
        exec .collectiveComplete s = .next (s.endColl k (State.collStatus k 4))) ∧
      ((∀ r bs, r < k.members.length → s.contribOf k r = some bs → bs.take 56 = own.take 56) →
        ((∃ r, r < k.members.length ∧ s.contribOf k r = none ∧ s.liveRoute (nth 0 k.members r) = false) →
          exec .collectiveComplete s = .next (s.endColl k (State.collStatus k 2))) ∧
        ((∃ r, r < k.members.length ∧ s.contribOf k r = none) →
          (∀ r, r < k.members.length → s.contribOf k r = none → s.liveRoute (nth 0 k.members r) = true) →
          exec .collectiveComplete s = .next s) ∧
        (s.allArrived k = true → s.walkReady k.principal k.dst = true →
          let l := layoutOf (Handle.home k.dst) (s.entry (Handle.key k.dst))
          let sel : VSel := if k.dstGone then .gone else .draft
          let xs := (List.range k.members.length).map fun r => recsOf l.fmt (((s.contribOf k r).getD []).drop 64)
          let cmb := combine k.instr k.op k.root l.fmt (l.e (l.rank - 1)) xs
          let els := ((recHeads l.fmt (elemCount l)).zip cmb.1).map fun e => (unlinear l.rank l.ext e.1, e.2)
          let scales := if isMx l.fmt then els.map fun e => (e.1, e.2.2) else []
          ∀ pl : List Nat → State.Place, (∀ e ∈ els, s.resolve k.principal k.dst l e.1 Right.write sel = .ok (pl e.1) ∧ s.pageLocked (pl e.1).key = false) →
            s.scalesLocked k.dst l sel scales = false →
            let at_ := fun (f : List Nat → State.Place) => els.map fun e => (({ elem := 0, t := e.1, val := some e.2.1 } : StEl), f e.1)
            ∀ s1, s.ownPages ((s.pagesOf k.dst l sel (at_ pl) scales).map fun p => (Handle.key k.dst, p)) = some s1 →
              ∀ pl1 : List Nat → State.Place, (∀ e ∈ els, s1.resolve k.principal k.dst l e.1 Right.write sel = .ok (pl1 e.1)) →
                let s2 := s1.putEls k.dst l sel (at_ pl1) scales
                (k.dstGone = false → s2.draftOut (Handle.key k.dst) l = true →
                  exec .collectiveComplete s = .next (s2.setColl { k with put := some (b2n cmb.2 * 16) })) ∧
                (k.dstGone = true ∨ (s2.draftOut (Handle.key k.dst) l = false ∧ s2.draftLost (Handle.key k.dst) l = []) →
                  exec .collectiveComplete s = .next (s2.endColl k (State.collStatus k (b2n cmb.2 * 16 + 1))))))) ∧
  (∀ (s : State) k, s.colls.find? (fun c => c.cid = s.unit) = some k → k.status = none →
    let due := fun (s : State) (k : Coll) => s.allArrived k = false ∧ k.start + s.regN (0x7000 + 8 * k.io) ≤ s.pcc
    (k.own.isSome = true ∨ s.claimHeld k.claim = true →
      (due s k → exec .collectiveTimeout s = .next (s.endColl k (State.collStatus k 8))) ∧
      (¬ due s k → exec .collectiveTimeout s = .next s)) ∧
    (k.own = none → s.claimHeld k.claim = false → ∀ k1, (s.contribute k).colls.find? (fun c => c.cid = (s.contribute k).unit) = some k1 →
      k1.status = none → due (s.contribute k) k1 →
      exec .collectiveTimeout s = .next ((s.contribute k).endColl k1 (State.collStatus k1 8)))) ∧
  (∀ (s : State) (k : Coll) w, k.orphan = false → k ∈ s.colls →
    (s.endColl k w).colls = s.colls.map fun x => if x.cid = k.cid then { k with status := some w } else x) ∧
  (∀ (s : State) c a b d i, Tries s c .clwait a b d (.clwait a d) .clwaitComplete i →
    let f := fun (k : Coll) => k.cid = ((s.core c).getX a).toNat && k.crid == (s.core c).crid && !k.orphan
    (s.colls.find? f = none → ∃ t, exec i s = .next t ∧ CtWrote s t c d 0#64 ((s.core c).ct.pc + 4#64)) ∧
    ∀ k, s.colls.find? f = some k →
      (k.status = none → ∃ t, exec i s = .next t ∧ StillWaits s t c .clwait (.clwait a d) i) ∧
      ∀ w, k.status = some w →
        ∃ t s1, exec i s = .next t ∧ CtWrote s1 t c d w ((s.core c).ct.pc + 4#64) ∧ s1 = { s with colls := s1.colls } ∧
          ∀ y, y ∈ s1.colls ↔ y ∈ s.colls ∧ y.cid ≠ k.cid)

/-! ## Engine words -/

/-- R25, R64 and R89 to R96: the common words and guards. -/
def Obligations.CommonWordsAndGuards : Prop :=
  (∀ (s : State) c e g (f : LpWord), Executes s c e g →
    let en := (s.core c).eng e
    let lv := f.lvl.toNat
    let last := en.place.2 + f.body.toNat
    (f.lvl = 0#2 → f.body = 0#14 → f.cnt = 0#32 → f.imm = 0#32 → exec (.nop g f) s = .next (issuedFrom s s c e 1)) ∧
    (f.lvl = 0#2 → f.body = 0#14 → f.cnt = 0#32 →
      exec (.mark g f) s = .next (issuedFrom s (s.modEng c e fun x => { x with mkv := f.imm }) c e 1)) ∧
    (f.body = 0#14 → f.imm = 0#32 → en.loops.length = 4 →
      ∃ l, exec (.lbrk g f) s = .next (issuedFrom s (s.modEng c e fun x => { x with loops := l }) c e 1) ∧
        ∀ n, nth {} l n = if n = lv then { nth {} en.loops n with lc := f.cnt.toNat } else nth {} en.loops n) ∧
    (f.lvl = 0#2 → f.body = 0#14 → f.cnt = 0#32 → f.imm.toNat < 16 →
      exec (.gwait g f) s = .next
        (if nth 0#2 (s.core c).gSeen f.imm.toNat = 0#2 then s.modEng c e fun x => { x with hold := .gwait }
         else issuedFrom s s c e 1)) ∧
    (∀ rot, loopIllop lv f.body.toNat rot en = false → f.body ≠ 0#14 →
      (rot = false → f.imm = 0#32) → (rot = true → e = .ma ∧ 1 ≤ f.imm.toNat ∧ f.imm.toNat ≤ 8 ∧ f.cnt.toNat + f.imm.toNat - 1 < 2 ^ 32) →
      let i := if rot then Instr.loopr g f else .loop g f
      ((nth {} en.loops lv).active = true → exec i s = .next (s.issueFault c e FCode.loopedit lv noElem)) ∧
      ((nth {} en.loops lv).active = false →
        ∃ l p, (∀ n, nth {} l n =
            if n = lv then
              { active := f.cnt != 0#32, rot := rot, ls := en.place.2 + 1, le := last, cnt := f.cnt.toNat, started := 1
                lc := if rot then f.cnt.toNat + f.imm.toNat - 1 else f.cnt.toNat }
            else nth {} en.loops n) ∧
          (rot = false ∨ f.cnt = 0#32 → p = (s.core c).p) ∧
          (rot = true → f.cnt ≠ 0#32 →
            (∀ n < 8, Tbl.get 0#1024 p n = (s.core c).physP n) ∧
            ∀ n < 8, Tbl.get 0#1024 p ((s.core c).rotP (8 + n)) = if n = 0 then BitVec.allOnes 1024 else 0#1024) ∧
          let s1 := s.setCore c ({ s.core c with p := p }.setEng e { en with loops := l })
          exec i s = .next (if f.cnt = 0#32 then s1.issued c e 1 last else issuedFrom s s1 c e 1))) ∧
    (f.lvl = 0#2 → f.body = 0#14 → f.cnt = 0#32 →
      (e = .dr → (s.core c).win = [] ∧ updatesApplied s c = true ∧ (s.core c).scFail = false) →
      ∃ t, exec (.estop g f) s = .next t ∧ (t.core c).eng e = endStream en f.imm ∧ t.mem = s.mem ∧ t.bankq = s.bankq ∧
        (∀ d, d ≠ c → t.core d = s.core d) ∧ (t.core c).ct = (s.core c).ct ∧ ∀ q, q ≠ e → (t.core c).eng q = (s.core c).eng q) ∧
    ∀ i u, (i, u) ∈ ([(.nop g f, {}), (.loop g f, { lvl := true, body := true, cnt := true }), (.lbrk g f, { lvl := true, cnt := true }),
        (.gwait g f, { imm := true }), (.mark g f, { imm := true }), (.estop g f, { imm := true })] : List (Instr × LpUse)) →
      u.breaks f = true → exec i s = .next (s.issueFault c e FCode.illop 0x11 noElem)) ∧
  ∀ (s : State) c e g slots (illop : Core → EngSt → Option Nat) body, s.agent = .seq c (.eng e) →
    ((s.core c).eng e).redo = [] → ((s.core c).eng e).hold ≠ .estop → g.ge = true →
    let v := nth 0#2 (s.core c).gSeen g.gs.toNat
    (v = 0#2 → issueWord g slots illop body s = .next (s.modEng c e fun x => { x with hold := .guard })) ∧
    (v ≠ 0#2 → guardBreaks g = true → issueWord g slots illop body s = .next (s.issueFault c e FCode.illop 0x11 noElem)) ∧
    (∀ d, v ≠ 0#2 → guardBreaks g = false → illop (s.core c) ((s.core c).eng e) = some d →
      issueWord g slots illop body s = .next (s.issueFault c e FCode.illop d noElem)) ∧
    (v = (if g.gn then 3#2 else 2#2) → guardBreaks g = false → illop (s.core c) ((s.core c).eng e) = none →
      issueWord g slots illop body s = .next (issuedFrom s s c e slots))

/-- R183 to R185, R210 and R214 to R217: the binding and stepping words of FE. -/
def Obligations.FetchWordsBindAndStep : Prop :=
  ∀ (s : State) c g (f : StWord), Executes s c .fe g → f.z32 = 0#15 → f.slot = 0#6 → f.vd = 0#5 → f.vi = 0#5 → f.pm = 0#4 → f.me = false →
    let n := f.sd.toNat
    let stays := s.modEng c .fe fun x => { x with hold := .none }
    let d := (s.core c).desc n
    let p := f.sub.toNat
    let pr := s.principal c
    let zero := List.replicate 8 (0#64)
    (f.cb = 0#4 → f.sub = 0#4 → f.imm = 0#32 → descInUse (s.core c) n = false → Tbl.sorted (s.core c).sd = true →
      ∃ m, exec (.sbind g f) s = .next (issuedFrom s ((s.unpinDesc d).modCore c fun k => { k with sd := m }) c .fe 1) ∧
        ∀ i, Tbl.get zero m i = if i = n then zero else Tbl.get zero ((s.unpinDesc d).core c).sd i) ∧
    (∀ (v : View) (i : Instr) (b : Nat), (i, b) ∈ ([(.sbind g f, 64), (.sscale g f, 32)] : List (Instr × Nat)) →
      f.cb = 0#4 → f.sub = 0#4 → f.imm ≠ 0#32 → f.imm.toNat % 64 = 0 → descInUse (s.core c) n = false →
      (s.core c).frame = some v → f.imm.toNat ≤ v.size → s.viewHeld c (v.base + v.size - f.imm.toNat) b 1 = true →
      exec i s = .next stays) ∧
    (∀ (v : View) bs l, f.cb = 0#4 → f.sub = 0#4 → f.imm ≠ 0#32 → f.imm.toNat % 64 = 0 → descInUse (s.core c) n = false →
      (s.core c).frame = some v → f.imm.toNat ≤ v.size → s.viewHeld c (v.base + v.size - f.imm.toNat) 64 1 = false →
      s.viewLoad c (v.base + v.size - f.imm.toNat) 64 = .ok bs →
      let img := words64 8 bs
      let h := Desc.handle img
      Desc.imageBad img = false → s.entryLocked h = false → s.lookupHome pr h = .ok l → Desc.rax img < l.rank → Desc.cax img < l.rank →
      s.checkRights pr h l (if Desc.draft img then Right.write else Right.read) false = none →
      ∀ (ver : Nat) (s1 : State),
        (l.bench = true → Desc.draft img = false ∧ Desc.ver img ≤ 1 ∧ ver = 1 ∧ s1 = s) →
        (l.bench = false → Desc.draft img = true → s.checkVer pr (Handle.key h) l .draft = none ∧ ver = 0 ∧ s1 = s) →
        (l.bench = false → Desc.draft img = false →
          ver = (if Desc.ver img = 0 then s.curv (Handle.key h) else Desc.ver img) ∧
            s.checkVer pr (Handle.key h) l (.ver ver) = none ∧ s.pin (Handle.key h) ver = some s1) →
        exec (.sbind g f) s =
          .next (issuedFrom s
            ((s1.unpinDesc ((s1.core c).desc n)).modCore c fun k =>
              k.setDesc n [h, setFld (nth 0#64 img 1) 32 32 ver, nth 0#64 img 2, nth 0#64 img 3, nth 0#64 img 4, 0#64, 0#64, 0#64])
            c .fe 1)) ∧
    (f.cb = 0#4 → p ≤ 4 → d.length = 8 →
      ∃ e, exec (.sadv g f) s = .next (issuedFrom s (s.modCore c fun k => k.setDesc n e) c .fe 1) ∧
        (∀ i, nth 0 (Desc.cur e) i = if i = p then (nth 0 (Desc.cur d) p + f.imm.toNat) % 2 ^ 32 else nth 0 (Desc.cur d) i) ∧
        ∀ i, i ≠ 2 + p / 2 → nth 0#64 e i = nth 0#64 d i) ∧
    (f.cb = 0#4 → f.sub = 0#4 → f.imm = 0#32 → descInUse (s.core c) n = false →
      exec (.sscale g f) s =
        .next (issuedFrom s
          ((if Desc.sh d = 0#64 then s else s.unpin (Handle.key (Desc.sh d)) (Desc.sver d)).modCore c fun k =>
            k.setDesc n (d.take 5 ++ [0#64, 0#64, 0#64])) c .fe 1)) ∧
    (∀ (v : View) bs l, f.cb = 0#4 → f.sub = 0#4 → f.imm ≠ 0#32 → f.imm.toNat % 64 = 0 → descInUse (s.core c) n = false →
      (s.core c).frame = some v → f.imm.toNat ≤ v.size → s.viewHeld c (v.base + v.size - f.imm.toNat) 32 1 = false →
      s.viewLoad c (v.base + v.size - f.imm.toNat) 32 = .ok bs →
      let img := words64 4 bs
      let h := nth 0#64 img 0
      let spt := fld (nth 0#64 img 1) 16 16
      fld (nth 0#64 img 1) 0 16 = 0 → 1 ≤ spt → spt ≤ 64 → nth 0#64 img 2 = 0#64 → nth 0#64 img 3 = 0#64 →
      s.entryLocked h = false → s.lookupHome pr h = .ok l → s.checkRights pr h l Right.read false = none → l.fmt = 0 → l.rank = 1 →
      ∀ (ver : Nat) (s1 : State),
        (l.bench = true → ver = 1 ∧ s1 = s) → (l.bench = false → ver = s.curv (Handle.key h) ∧ s.pin (Handle.key h) ver = some s1) →
        let s2 := if Desc.sh d = 0#64 then s1 else s1.unpin (Handle.key (Desc.sh d)) (Desc.sver d)
        ∃ w6, exec (.sscale g f) s =
            .next (issuedFrom s (s2.modCore c fun k => k.setDesc n (d.take 5 ++ [h, w6, BitVec.ofNat 64 (ver * 2 ^ 32)])) c .fe 1) ∧
          fld w6 32 32 = fld (nth 0#64 img 1) 32 32 ∧ fld w6 16 16 = spt ∧ fld w6 0 16 = 0) ∧
    (f.cb = 0#4 → p ≤ 4 → 1 ≤ f.imm.toNat → f.imm.toNat ≤ 64 → exec (.spref g f) s = .next (issuedFrom s s c .fe 1)) ∧
    (f.sd = 0#4 → f.sub = 0#4 → f.imm = 0#32 →
      exec (.swaitb g f) s = .next
        (if nth false (s.core c).cb f.cb.toNat then issuedFrom s s c .fe 1 else s.modEng c .fe fun x => { x with hold := .swaitb }) ∧
      ((s.core c).loads = [] → (s.core c).owned f.cb.toNat = false →
        exec (.srel g f) s = .next (issuedFrom s (s.modCore c fun k => k.setCb f.cb.toNat false) c .fe 1)) ∧
      ((s.core c).loads ≠ [] ∨ (s.core c).owned f.cb.toNat = true →
        exec (.srel g f) s = .next (s.modEng c .fe fun x => { x with hold := .srel })))

/-- R204, R206, R207, R211 to R213 and R218: the issue of loads. -/
def Obligations.LoadsAndGathersIssue : Prop :=
  ∀ (s : State) c g (f : StWord) op i, Executes s c .fe g → f.z32 = 0#15 → f.cb = 0#4 → f.imm = 0#32 →
    (op, i) ∈ ([(0, .sload g f), (1, .sloadv g f), (2, .sgath g f), (3, .sgathf g f)] : List (Nat × Instr)) →
    (op = 0 → f.vd = 0#5 ∧ f.pm = 0#4 ∧ f.me = false ∧ f.sub.toNat ≤ 7) → (op ≠ 0 → f.slot = 0#6 ∧ badDest f = false) →
    (op < 2 → f.vi = 0#5) → (op = 1 → f.sub.toNat ≤ 3) → (op = 2 ∨ op = 3 → f.sub.toNat ≤ 7) → (op = 3 → f.me = true) →
    let k := s.core c
    let d := s.loadDesc c f
    let act := k.activeList f.me f.pm.toNat false
    (8 ≤ k.loads.length → exec i s = .next (s.modEng c .fe fun x => { x with hold := .none })) ∧
    (k.loads.length < 8 → loadHazard k op f = false → (op = 0 → shapeBad f.sub.toNat d = false) → (op = 1 → Desc.tr d ≤ 16) →
      loadCold k op f = false →
      (Desc.handle d = 0#64 → exec i s = .next (s.issueFault c .fe FCode.missobj 1 noElem)) ∧
      ∀ l, Desc.handle d ≠ 0#64 → s.walkReady (s.principal c) (Desc.handle d) = true → s.lookup (s.principal c) (Desc.handle d) = .ok l →
        (op = 0 → shapeBadFor f.sub.toNat d l = false ∧ formTakes f.sub.toNat l.fmt = true) →
        (op ≠ 0 → kindTakes (f.sub.toNat % 4) l.fmt = true) →
        (2 ≤ op → ∀ e ∈ usedIdx f d act, k.poisV f.vi.toNat e = false) →
        ∃ x : FeLoad, exec i s = .next (issuedFrom s ((s.launch c .fe).modCore c fun k => { k with loads := k.loads ++ [x] }) c .fe 1) ∧
          x.op = op ∧ x.f = f ∧ x.cut = 1024 ∧ (x.sec, x.widx) = k.fe.place ∧ x.desc = d ∧ (∀ e < 1024, x.mask.getLsbD e = nth false act e) ∧
          (2 ≤ op → ∀ e < 1024, nth 0 x.idx e = if k.deadV f.vi.toNat then 0 else nth 0 (k.physV f.vi.toNat) e) ∧
          ∀ r, r ∈ x.drop ↔ r < 32 ∧ k.deadV r = true)

/-! ## Vector words -/

/-- R252 to R258 and R265: the element-wise words. -/
def Obligations.VectorElementWordsIssue : Prop :=
  ∀ (s : State) c g (f : VrWord),
    let k := s.core c
    let n := f.sub.toNat
    let w32 := fun (h : BitVec 32 → BitVec 32 → BitVec 32 → BitVec 32) (a b z : Nat) => (h (.ofNat 32 a) (.ofNat 32 b) (.ofNat 32 z)).toNat
    let w64 := fun (h : BitVec 64 → BitVec 64 → BitVec 64) (a b _z : Nat) => (h (.ofNat 64 a) (.ofNat 64 b)).toNat
    let clamp := fun (ov : Bool) (neg : Bool) (x : BitVec 32) => if ov then (if neg then 0x80000000#32 else 0x7FFFFFFF#32) else x
    let cond := fun (w : Nat) (a b _z : Nat) =>
      let x := BitVec.ofNat w a
      let y := BitVec.ofNat w b
      b2n (nth false [x == y, x != y, x.slt y, x.sle y, y.slt x, y.sle x, x.ult y, x.ule y, y.ult x, y.ule x] n)
    let one : VForm := { d := .v, a := .v }
    let two := fun (m : Nat) => ({ d := .v, a := .v, b := .v, bi := true, subUsed := true, subMax := m } : VForm)
    let three := fun (m : Nat) => ({ two m with c := .v } : VForm)
    let plain : VForm := { d := .v, a := .v, b := .v, bi := true }
    let cmp := fun (m : Nat) => ({ two m with d := .p } : VForm)
    ∀ (i : Instr) (F : VForm) (unit occ lat : Nat) (fn : Nat → Nat → Nat → Nat), (i, F, unit, occ, lat, fn) ∈
      ([ (.viadd g f, two 2, 1, 4, 4, w32 fun a b _ =>
          if n = 1 then clamp (a.saddOverflow b) a.msb (a + b) else if n = 2 ∧ a + b < a then BitVec.allOnes 32 else a + b),
         (.visub g f, two 2, 1, 4, 4, w32 fun a b _ =>
          if n = 1 then clamp (a.ssubOverflow b) a.msb (a - b) else if n = 2 ∧ a < b then 0#32 else a - b),
         (.vimul g f, two 2, 1, 4, 8, w32 fun a b _ =>
          if n = 0 then a * b
          else if n = 1 then (a.signExtend 64 * b.signExtend 64).extractLsb' 32 32
          else (a.zeroExtend 64 * b.zeroExtend 64).extractLsb' 32 32),
         (.vimad g f, three 0, 1, 4, 8, w32 fun a b z => a * b + z),
         (.vand g f, two 0, 1, 4, 4, w32 fun a b _ => a &&& b),
         (.vor g f, two 0, 1, 4, 4, w32 fun a b _ => a ||| b),
         (.vxor g f, two 0, 1, 4, 4, w32 fun a b _ => a ^^^ b),
         (.vnot g f, { one with subUsed := true }, 1, 4, 4, w32 fun a _ _ => ~~~a),
         (.vshl g f, two 0, 1, 4, 4, w32 fun a b _ => a <<< b.toNat),
         (.vshr g f, two 0, 1, 4, 4, w32 fun a b _ => a >>> b.toNat),
         (.vsra g f, two 0, 1, 4, 4, w32 fun a b _ => a.sshiftRight b.toNat),
         (.vicmp g f, cmp 9, 1, 4, 4, cond 32),
         (.vimin g f, two 1, 1, 4, 4, w32 fun a b _ => if (if n = 1 then a.ule b else a.sle b) then a else b),
         (.vimax g f, two 1, 1, 4, 4, w32 fun a b _ => if (if n = 1 then a.ule b else a.sle b) then b else a),
         (.vmov g f, one, 1, 4, 4, fun a _ _ => a),
         (.vli g f, { d := .v, immBits := 32 }, 1, 4, 4, fun _ _ _ => f.imm.toNat),
         (.vadd64 g f, { d := .w, a := .w, b := .w, bi := true }, 1, 4, 4, w64 fun a b => a + b),
         (.vsub64 g f, { d := .w, a := .w, b := .w, bi := true }, 1, 4, 4, w64 fun a b => a - b),
         (.vshl64 g f, { d := .w, a := .w, b := .v, bi := true }, 1, 4, 4, w64 fun a b => a <<< b.toNat),
         (.vshr64 g f, { d := .w, a := .w, b := .v, bi := true }, 1, 4, 4, w64 fun a b => a >>> b.toNat),
         (.vcmp64 g f, { d := .p, a := .w, b := .w, bi := true, subUsed := true, subMax := 9 }, 1, 4, 4, cond 64),
         (.vadd g f, two 4, 0, 4, 4, fun a b _ => fadd (vRound n) a b),
         (.vsub g f, two 4, 0, 4, 4, fun a b _ => fsub (vRound n) a b),
         (.vmul g f, two 4, 0, 4, 4, fun a b _ => fmul (vRound n) a b),
         (.vfma g f, three 4, 0, 4, 4, fun a b z => ffma (vRound n) a b z),
         (.vfms g f, three 4, 0, 4, 4, fun a b z => ffms (vRound n) a b z),
         (.vmax g f, plain, 0, 4, 4, fun a b _ => fmax a b),
         (.vmin g f, plain, 0, 4, 4, fun a b _ => fmin a b),
         (.vabs g f, one, 0, 4, 4, w32 fun a _ _ => a &&& 0x7FFFFFFF#32),
         (.vneg g f, one, 0, 4, 4, w32 fun a _ _ => a ^^^ 0x80000000#32),
         (.vcmp g f, cmp 7, 0, 4, 4, fun a b _ => b2n (fcond n a b)),
         (.vcvt g f, { d := if n = 4 then .w else .v, a := if n = 5 then .w else .v, subUsed := true, subMax := 9, immBits := 3, immMax := 4 },
           0, 4, 4, fun a _ _ => vcvtVal n f.imm.toNat a),
         (.vrnd g f, { one with mask := false, zm := false, subUsed := true, subMax := 4 }, 0, 4, 4, fun a _ _ => vrndVal n a),
         (.vpack g f, { d := .v, a := .v, b := .v, mask := false, zm := false, subUsed := true, subMax := 3, immBits := if n < 2 then 3 else 0, immMax := 4 }, 1, 4, 4,
           fun a b _ => packVal n f.imm.toNat a + 2 ^ 16 * packVal n f.imm.toNat b),
         (.vunpk g f, { d := .v, a := .v, mask := false, zm := false, subUsed := true, subMax := 3, immBits := 1 }, 1, 4, 4,
           fun a _ _ => unpackVal n (if f.imm = 0#32 then a % 2 ^ 16 else a / 2 ^ 16)),
         (.vrsqa g f, one, 2, 16, 20, fun a _ _ => vrsqa a), (.vrcpa g f, one, 2, 16, 20, fun a _ _ => vrcpa a),
         (.vexp2 g f, one, 2, 16, 24, fun a _ _ => vexp2 a), (.vlog2 g f, one, 2, 16, 24, fun a _ _ => vlog2 a) ] :
        List (Instr × VForm × Nat × Nat × Nat × (Nat → Nat → Nat → Nat))) →
      VectorReady s c g F f unit lat →
      let act := k.activeList f.me f.pm.toNat true
      (∀ p, k.poisonedAt F f act = some p → exec i s = .next (s.issueFault c .ma FCode.uncorr 0 (BitVec.ofNat 32 p))) ∧
      (k.poisonedAt F f act = none →
        ∃ els, exec i s = .next (vectorIssued s c F f unit occ lat els) ∧ els.length = 1024 ∧
          ∀ e < 1024, nth none els e =
            if nth false act e then some (fn (operandAt k F.a f.a.toNat e) (operandBAt k F f e) (operandAt k F.c f.c.toNat e)) else if f.zm then some 0 else none)

/-- R241, R251, R252 and R263 to R268. -/
def Obligations.VectorMovementAndPredicateWordsIssue : Prop :=
  (∀ (s : State) c g (f : VrWord),
    let k := s.core c
    let n := f.sub.toNat
    let m := f.imm.toNat
    let act := fun (e : Nat) => nth false (k.activeList f.me f.pm.toNat true) e
    let a := fun (e : Nat) => nth 0 (k.readV f.a.toNat) e
    let b := fun (e : Nat) => nth 0 (k.readV f.b.toNat) e
    let pa := fun (e : Nat) => k.poisNamed f.a.toNat e
    let pb := fun (e : Nat) => k.poisNamed f.b.toNat e
    let bit := fun (r : BitVec 5) (e : Nat) => (k.readP r.toNat).getLsbD e
    let mk := fun (v : Nat → Nat) (e : Nat) => if act e then some (v e) else if f.zm then some 0 else none
    let taken := fun (e : Nat) => if act e then a e else redId n
    let kind := fun (o : Nat) => (List.range 1024).filter fun i => act i && a i % 4 == o
    let row : Nat → VForm := fun x => { d := .v, a := .v, immBits := 32, immMax := x }
    let red : Nat → VForm := fun x => { row x with subUsed := true, subMax := 7 }
    let pr : Bool → VForm := fun x => { d := .p, a := .p, b := if x then .p else .none, mask := false, zm := false }
    let from_ := fun (src : Nat → Nat) (i : Nat) => (List.range 1024).any (fun e => act e && src e == i) && pa i
    let gat := fun (i : Instr) (x occ lat : Nat) (src : Nat → Nat) => (i, row x, 3, occ, lat, from_ src, mk fun e => a (src e))
    ∀ (i : Instr) (F : VForm) (unit occ lat : Nat) (bad : Nat → Bool) (val : Nat → Option Nat), (i, F, unit, occ, lat, bad, val) ∈
      ([ (.vsel g f, { d := .v, a := .v, b := .v, c := .p, bi := true }, 0, 4, 4,
            fun e => act e && (if bit f.c e then pa e else !f.bi && pb e), mk fun e => if bit f.c e then a e else if f.bi then m else b e),
         (.viota g f, { d := .v, immBits := 32 }, 1, 4, 4, fun _ => false, mk fun e => (m + e) % 2 ^ 32),
         gat (.vrotr g f) 63 4 4 fun e => 64 * (e / 64) + (e % 64 + m) % 64, gat (.vrotc g f) 15 4 8 fun e => 64 * ((e / 64 + m) % 16) + e % 64,
         gat (.vbcr g f) 63 4 4 fun e => 64 * (e / 64) + m, gat (.vbcc g f) 15 4 8 fun e => 64 * m + e % 64,
         gat (.vtrn g f) 0 16 20 fun e => 64 * (e % 16) + 16 * (e % 64 / 16) + e / 64,
         (.vredr g f, { red 63 with zm := false }, 3, 4, 12, fun e => act e && pa e,
            fun e => if e % 64 = m then some (nth 0 (treeRed n 6 (tab 64 fun x => taken (64 * (e / 64) + x))) 0) else none),
         (.vredc g f, { red 15 with zm := false }, 3, 4, 16, fun e => act e && pa e,
            fun e => if e / 64 = m then some (nth 0 (treeRed n 4 (tab 16 fun r => taken (64 * r + e % 64))) 0) else none),
         (.vscanr g f, red 0, 3, 8, 16, fun e => act e && pa e,
            mk fun e => (List.range (e % 64)).foldl (fun y x => redOp n y (taken (64 * (e / 64) + (x + 1)))) (taken (64 * (e / 64)))),
         (.vxg g f, { d := .v, a := .v, b := .v }, 3, 16, 20, fun e => (act e && pb e) || from_ b e,
            mk fun e => if b e < 1024 then a (b e) else 0),
         (.vxs g f, { d := .v, a := .v, b := .v, zm := false }, 3, 16, 20, fun e => act e && (pa e || pb e),
            fun e => ((List.range 1024).reverse.find? fun i => act i && b i == e).map a),
         (.vpart g f, { d := .w, a := .v, zm := false }, 3, 16, 24, fun e => act e && pa e,
            fun e => some (nth 0xFFFFFFFF ((List.range 4).flatMap kind) e +
              2 ^ 32 * (if e < 4 then (kind e).length else if e < 8 then ((List.range (e - 3)).flatMap kind).length else 0))),
         (.pand g f, pr true, 4, 1, 2, fun _ => false, fun e => some (b2n (bit f.a e && bit f.b e))),
         (.por g f, pr true, 4, 1, 2, fun _ => false, fun e => some (b2n (bit f.a e || bit f.b e))),
         (.pxor g f, pr true, 4, 1, 2, fun _ => false, fun e => some (b2n (bit f.a e ^^ bit f.b e))),
         (.pnot g f, pr false, 4, 1, 2, fun _ => false, fun e => some (b2n (!bit f.a e))),
         (.pfx g f, { d := .p, a := .p, b := .v, mask := false, zm := false, immBits := 32, immMax := 1023 }, 4, 1, 2, fun e => e == m && pb e,
            fun e => some (b2n (bit f.a e && decide (((List.range e).filter (bit f.a)).length < b m)))),
         (.pcnt g f, { d := .v, a := .p }, 4, 1, 2, fun _ => false, mk fun _ => ((List.range 1024).filter (bit f.a)).length),
         (.pmov g f, { d := if n = 2 then .v else .p, a := if n = 1 then .v else .p, mask := false, zm := false, subUsed := true, subMax := 2 },
            4, 1, 2, fun e => n == 1 && pa e, fun e => some (b2n (if n = 1 then a e != 0 else bit f.a e))) ] :
        List (Instr × VForm × Nat × Nat × Nat × (Nat → Bool) × (Nat → Option Nat))) →
      VectorReady s c g F f unit lat →
      (∀ e < 1024, bad e = true → (∀ j < e, bad j = false) → exec i s = .next (s.issueFault c .ma FCode.uncorr 0 (BitVec.ofNat 32 e))) ∧
      ((∀ e < 1024, bad e = false) →
        ∃ els, exec i s = .next (vectorIssued s c F f unit occ lat els) ∧ els.length = 1024 ∧ ∀ e < 1024, nth none els e = val e)) ∧
  ∀ (k : Core) q pcc, k.vPend = [q] → q.due ≤ pcc →
    (∀ p els, q.dst = [.v p els] → els.length = 1024 → ∀ e < 1024,
      nth 0 ((k.writeDue pcc).physV p) e = ((nth none els e).map (·.toNat)).getD (nth 0 (k.physV p) e)) ∧
    (∀ p mask bits, q.dst = [.p p mask bits] → ∀ e < 1024,
      ((k.writeDue pcc).physP p).getLsbD e = if mask.getLsbD e then bits.getLsbD e else (k.physP p).getLsbD e) ∧
    (k.writeDue pcc).vPend = []

/-- R53, R243 to R246, R269, R270: nests, banks and the live depth. -/
def Obligations.NestsBanksAndLiveDepth : Prop :=
  (∀ (s : State) c g (f : NestWord) o, Executes s c .ma g → nestIllop f (s.core c).ma = none → nestOp f.op.toNat f.rd = some o →
    let k := s.core c
    let ls := (nestLevels f).take f.nl.toNat
    let dr := nestRegs f.d.toNat (nestSpan ls (·.sd))
    let n := ls.foldl (fun p l => p * l.n) 1
    let kk := max 1 (if f.rd then (n + 15) / 16 else (n + 255) / 256)
    Tbl.get 0 k.unitBusy o.unit ≤ s.pcc →
    (∀ r ∈ dr ++ nestRegs f.a.toNat (nestSpan ls (·.sa)) ++ (if o.useB then nestRegs f.b.toNat (nestSpan ls (·.sb)) else []),
      k.awakeV (k.rotV r) = true) →
    wportHit k (s.pcc + kk + o.lat) (dr.flatMap fun r => k.outV r []) = false → (nestRun k f o).bad = none →
    ∃ dsts, exec (.vnest g f) s =
        .next (issuedFrom s ((maLaunch s c .ma o.unit kk (kk + o.lat) dsts).modEng c .ma fun x => { x with busyTo := s.pcc + kk }) c .ma 3) ∧
      (∀ x ∈ dsts, ∃ i < dr.length, ∃ els, x = .v (k.rotV (f.d.toNat + i)) els ∧ els.length = 1024 ∧ ∀ e < 1024,
        nth none els e =
          if (nestRun k f o).hit.getD (1024 * i + e) false then some (BitVec.ofNat 32 ((nestRun k f o).val.getD (1024 * i + e) 0)) else none) ∧
      ∀ i < dr.length, k.deadV (k.rotV (f.d.toNat + i)) = false → ∃ els, .v (k.rotV (f.d.toNat + i)) els ∈ dsts) ∧
  (∀ (s : State) c g (f : VrWord) file b, Executes s c .ma g →
    f = { f with d := 0#5, a := 0#5, b := 0#5, c := 0#5, pm := 0#4, me := false, zm := false, bi := false, z48 := 0#1, z0 := 0#16 } →
    f.imm.toNat = 16 * file + b → (file = 0 ∧ b < 4) ∨ (file = 1 ∧ b < 2) ∨ (file = 2 ∧ b < 16) →
    (f.sub.toNat ≤ 1 → bankSt (s.core c) file b ≠ .awake → exec (.vsleep g f) s = .next (issuedFrom s s c .ma 1)) ∧
    (f.sub.toNat ≤ 1 → bankSt (s.core c) file b = .awake →
      exec (.vsleep g f) s = .next (s.modEng c .ma fun x =>
        { x with hold := .vsleep (if bankFree (s.core c) s.pcc file b then some (s.pcc + 1) else none) })) ∧
    (∀ kept, f.sub = 0#4 → bankSt (s.core c) file b = (if kept then .asleep else .off) →
      exec (.vwake g f) s = .next (issuedFrom s (s.modCore c fun k => setBank k file b (.waking (s.pcc + 160) kept)) c .ma 1)) ∧
    (f.sub = 0#4 → bankSt (s.core c) file b = .awake ∨ (∃ t kept, bankSt (s.core c) file b = .waking t kept) →
      exec (.vwake g f) s = .next (issuedFrom s s c .ma 1))) ∧
  (∀ (s : State) c g (f : VrWord) file b, s.agent = .unit c → headInstr s c .ma = some (.vsleep g f) → f.imm.toNat = 16 * file + b → b < 16 → file < 16 →
    (∀ t, (s.core c).ma.hold = .vsleep (some t) → t ≤ s.pcc →
      exec .vsleepEffect s = .next ((issuedFrom s
        (s.modCore c fun k => if f.sub = 0#4 then setBank k file b .asleep else setBank (wipeBank k file b) file b .off) c .ma 1).modEng c .ma
          fun x => { x with busyTo := (s.core c).ma.busyTo })) ∧
    ((s.core c).ma.hold = .vsleep none → bankFree (s.core c) s.pcc file b = true →
      exec .vsleepEffect s = .next (s.modEng c .ma fun x => { x with hold := .vsleep (some (s.pcc + 1)) }))) ∧
  (∀ (s : State) c file b t kept, s.agent = .unit c → (file = 0 ∧ b < 4) ∨ (file = 1 ∧ b < 2) ∨ (file = 2 ∧ b < 16) →
    bankSt (s.core c) file b = .waking t kept → t ≤ s.pcc →
    let mine := fun (x : Upset) => State.upsetBank x.at_ = some (c, file, b)
    ((∀ x ∈ s.sleepUps, ¬ mine x) → exec (.bankWake (16 * file + b)) s = .next (s.modCore c fun k => setBank k file b .awake)) ∧
    ∃ u, exec (.bankWake (16 * file + b)) s = .next u ∧ (∀ x, x ∈ u.sleepUps ↔ x ∈ s.sleepUps ∧ ¬ mine x) ∧ u.upsets = s.upsets ∧
      (∀ d, d ≠ c → u.core d = s.core d) ∧ u.harts = s.harts ∧
      (u.core c).v = (s.core c).v ∧ (u.core c).m = (s.core c).m ∧ (u.core c).ct = (s.core c).ct ∧ bankSt (u.core c) file b = .awake ∧
      ∀ f2 b2, (f2, b2) ≠ (file, b) → f2 ≤ 2 → bankSt (u.core c) f2 b2 = bankSt (s.core c) f2 b2) ∧
  (∀ (s : State) c g (f : VrWord), Executes s c .ma g →
    f = { f with d := 0#5, a := 0#5, b := 0#5, c := 0#5, pm := 0#4, me := false, zm := false, bi := false, z48 := 0#1, z0 := 0#16, sub := 0#4 } →
    (f.imm = 0#32 ∨ liveMax s c < f.imm.toNat → exec (.vlive g f) s = .next (s.issueFault c .ma FCode.illop 0x12 noElem)) ∧
    (f.imm ≠ 0#32 → f.imm.toNat ≤ liveMax s c →
      exec (.vlive g f) s = .next (issuedFrom s (s.setCore c { s.core c with livePend := some (f.imm.truncate 5) }) c .ma 1))) ∧
  ∀ (k : Core) n, k.livePend = some n →
    k.setLive.live = n ∧ k.setLive.livePend = none ∧ k.setLive.vrb = k.vrb ∧
      ∀ p < 32, k.setLive.physV p = if k.setLive.deadV p && !k.deadV p then zeros else k.physV p

/-- R311 to R326: the moment words. -/
def Obligations.MomentWordsIssue : Prop :=
  (∀ (s : State) c g (f : VrWord), Executes s c .ma g →
    let k := s.core c
    let n := f.sub.toNat
    let act := fun (e : Nat) => nth false (k.activeList f.me f.pm.toNat true) e
    let m1 : VForm := { d := .m, a := .m, subUsed := true }
    let m2 : VForm := { m1 with b := .m }
    let ms : VForm := { m1 with b := .v, bi := true, strict := true }
    let eps := fun (e : Nat) =>
      let d := draws 2048 (seedOf (if f.bi then f.imm.toNat else nth 0 (k.readV f.b.toNat) 0))
      gaussEps (nth 0 d (2 * e)) (nth 0 d (2 * e + 1))
    ∀ (i : Instr) (F : VForm) (u : MoUse) (occ lat : Nat) (fn : Nat → MoArgs → Nat × Nat), (i, F, u, occ, lat, fn) ∈
      ([ (.moset g f, { d := .m, a := .v, b := .v, bi := true, subUsed := true, subMax := 1, strict := true }, { a := false }, 4, 4,
            fun _ x => if Mo.isNanC x.ma || Mo.isNanC x.s then Mo.nan2 else (x.ma, if n = 1 then Mo.half [(fpOf x.s).mul (fpOf x.s)] none else x.s)),
         (.moadd g f, m2, { b := true, rho := true }, 8, 12, fun _ x => Mo.add x false),
         (.mosub g f, m2, { b := true, rho := true }, 8, 12, fun _ x => Mo.add x true),
         (.momul g f, m2, { b := true, rho := true }, 8, 16, fun _ x => Mo.mul x),
         (.moscl g f, ms, { s := true }, 8, 12, fun _ x => Mo.scl x),
         (.moaxpy g f, { ms with c := .m }, { c := true, s := true, rho := true }, 8, 12, fun _ x => Mo.axpy x),
         (.mosq g f, m1, {}, 8, 16, fun _ x => Mo.sq x),
         (.morelu g f, m1, {}, 16, 40, fun _ x => Mo.relu { x with s := 0 }),
         (.molrelu g f, ms, { s := true }, 16, 40, fun _ x => Mo.relu x),
         (.moexp g f, m1, {}, 16, 36, fun _ x => Mo.exp x),
         (.mosigm g f, m1, {}, 16, 44, fun _ x => Mo.sigm x),
         (.mocoll g f, { d := .v, a := .m, b := if 2 ≤ n then .v else .none, bi := decide (2 ≤ n), subUsed := true, subMax := 3, strict := true },
            { a := n != 0, s := n == 2, seed := n == 3 }, if n = 3 then 16 else 8, if n = 3 then 40 else 12,
            fun e x =>
              (if n = 0 then (if Mo.isNanC x.ma then nan32.toNat else x.ma)
               else if n = 1 then Mo.sqrtC x.va
               else Mo.half [fpOf x.ma] (some (fpOf (if n = 2 then x.s else eps e), fpOf x.va)), 0)) ] :
        List (Instr × VForm × MoUse × Nat × Nat × (Nat → MoArgs → Nat × Nat))) →
      F.illop f = none → n < 4 → Tbl.get 0 k.unitBusy 5 ≤ s.pcc → k.cold F f = false →
      (usesRhov k u = true → k.awakeV (k.rotV (fld k.mctl 4 5)) = true) →
      let odd := seedPoisoned k f u (k.activeList f.me f.pm.toNat true)
      (odd = true ↔ u.seed = true ∧ f.bi = false ∧ k.poisNamed f.b.toNat 0 = true ∧ act 0 = false ∧ ∃ e < 1024, act e = true) ∧
      (let out := fun (els : List (Option (Elem32 × Elem32))) =>
          if F.d = .v then k.outV f.d.toNat (els.map fun o => o.map fun x => x.1.toNat) else [MaDst.m f.d.toNat els]
       wportHit k (s.pcc + lat) (out []) = false →
       (odd = true → exec i s = .next (s.issueFault c .ma FCode.uncorr 0 0#32)) ∧
       (odd = false →
       let el := fun (e : Nat) => moElem u (k.mctl.getLsbD 2) (fn e) (nth {} (moArgs k F f u) e)
       (∀ (m v : Nat → Nat) (nv : Nat → Bool),
         (∀ e < 1024, act e = true → el e = .val (m e) (v e) (nv e) ∧ moPois k F f u e = false) →
         ∃ els nvs, exec i s =
             .next (issuedFrom s (maLaunch (if nvs then s.modCore c fun k => { k with mctl := k.mctl ||| 0x200#32 } else s)
               c .ma 5 occ lat (out els)) c .ma 1) ∧
           els.length = 1024 ∧ (nvs = true ↔ ∃ e < 1024, act e = true ∧ nv e = true) ∧
           ∀ e < 1024, nth none els e =
             if act e then some (BitVec.ofNat 32 (m e), BitVec.ofNat 32 (v e)) else if f.zm then some (0#32, 0#32) else none) ∧
       ∀ e < 1024, act e = true → (∀ j < e, act j = true → moPois k F f u j = false ∧ ∃ m v nv, el j = .val m v nv) →
         (∀ code d, el e = .flt code d → exec i s = .next (s.issueFault c .ma code d (BitVec.ofNat 32 e))) ∧
         ((∃ m v nv, el e = .val m v nv) → moPois k F f u e = true →
           exec i s = .next (s.issueFault c .ma FCode.uncorr 0 (BitVec.ofNat 32 e)))))) ∧
  (∀ (u : MoUse) nvc fn (x : MoArgs), u.a = true → Mo.negC x.va = true → nvc = false → moElem u nvc fn x = .flt FCode.negvar 1) ∧
  (∀ (s : State) c g (f : VrWord), Executes s c .ma g → Tbl.get 0 (s.core c).unitBusy 5 ≤ s.pcc →
    f = { f with a := 0#5, b := 0#5, c := 0#5, pm := 0#4, me := false, zm := false, bi := false, z48 := 0#1, z0 := 0#16 } →
    (f.d = 0#5 → f.sub = 0#4 →
      exec (.moctl g f) s = .next
        (if f.imm &&& 0xFFFFFC08#32 = 0#32 then issuedFrom s (maLaunch s c .ma 5 1 1 [.mctl f.imm]) c .ma 1
         else s.issueFault c .ma FCode.illop 0x12 noElem)) ∧
    (f.sub = 1#4 → f.imm = 0#32 → (s.core c).awakeV ((s.core c).rotV f.d.toNat) = true →
      wportHit (s.core c) (s.pcc + 2) ((s.core c).outV f.d.toNat []) = false →
      exec (.moctlRd g f) s = .next
        (issuedFrom s (maLaunch s c .ma 5 1 2 ((s.core c).outV f.d.toNat (List.replicate 1024 (some (s.core c).mctl.toNat)))) c .ma 1))) ∧
  ∀ (s : State) c g (f : VrWord), Executes s c .ma g → Tbl.get 0 (s.core c).unitBusy 5 ≤ s.pcc →
    let k := s.core c
    let F : VForm := { d := .m, a := .m, subUsed := true, subMax := 1 }
    F.illop f = none → k.cold F f = false → wportHit k (s.pcc + 4) [.m f.d.toNat []] = false →
    (∀ e < 1024, nth false (k.activeList f.me f.pm.toNat true) e = true → k.poisM f.a.toNat e = false) →
    ∃ els, exec (.mozv g f) s = .next (issuedFrom s (maLaunch s c .ma 5 4 4 [.m f.d.toNat els]) c .ma 1) ∧ els.length = 1024 ∧
      ∀ e < 1024, nth none els e =
        let x := nth (0#32, 0#32) (k.physM f.a.toNat) e
        if nth false (k.activeList f.me f.pm.toNat true) e then
          some (if f.sub = 1#4 then x else (if Mo.isNanC x.1.toNat then nan32 else x.1, 0#32))
        else if f.zm then some (0#32, 0#32) else none

/-! ## Matrix and drain words -/

/-- R28 to R30, R278 to R290, R367 to R376: matrix and attention commands. -/
def Obligations.MatrixCommandsQueueStartAndWrite : Prop :=
  (∀ (s : State) c g (f : MmWord), Executes s c .ma g →
    let k := s.core c
    let pl := f.pl.toNat
    let badPl := pl = 0 ∨ 25 < pl
    let a := f.sa.toNat
    let b := f.sb.toNat
    let w := if f.sub.getLsbD 0 then 4 else 2
    let odd := f.arr.getLsbD 0 = true
    let quad := f.acc.toNat % 4 = 0
    let sImm := f.imm.toInt
    let nk := f.imm.toNat % 128
    let co := (f.imm.extractLsb' 7 9).toInt
    ∀ (i : Instr) (opc : Nat) (u : MmUse) (odd11 range : Prop), (i, opc, u, odd11, range) ∈
      ([ (.mmac g f, 0x80, { slots := true, sb := true, pl := true }, False, badPl),
         (.mmacz g f, 0x81, { slots := true, sb := true, pl := true, imm := true }, False, badPl),
         (.mmom g f, 0x82, { slots := true, sb := true, pl := true, sub := 1, subNum := true }, False,
            badPl ∨ 1 < f.sub.toNat ∨ f.acc.toNat % 2 = 1 ∨ 62 - f.sub.toNat % 2 < a ∨ 62 - f.sub.toNat % 2 < b),
         (.mmhad g f, 0x83, { imm := true }, False, f.imm ≠ 16#16 ∧ f.imm ≠ 32#16 ∧ f.imm ≠ 64#16),
         (.mmanc g f, 0x84, { imm := true }, False, False),
         (.mmclr g f, 0x85, { imm := true, sub := 1, subNum := true }, False,
            1 < f.sub.toNat ∨ (f.sub.toNat % 2 = 1 ∧ f.acc.toNat % 2 = 1)),
         (.mmcopy g f, 0x86, { imm := true, sub := 1, subNum := true }, 256 ≤ f.imm.toNat, 1 < f.sub.toNat),
         (.atsc g f, 0x88, { slots := true, sb := true, pl := true, sub := 1, imm := true }, False,
            ¬ quad ∨ odd ∨ badPl ∨ 64 < a + w ∨ 64 < b + w),
         (.atsm g f, 0x89, { slots := true, sub := 3, imm := true }, f.sub.getLsbD 1 = false ∧ co ≠ 0,
            ¬ quad ∨ odd ∨ nk = 0 ∨ 64 < nk ∨ 64 < a + 2),
         (.atpv g f, 0x8A, { slots := true, sb := true, pl := true, sub := 1 }, False,
            ¬ quad ∨ ¬ odd ∨ badPl ∨ 64 < a + 2 ∨ 64 < b + w),
         (.atfuse g f, 0x8B, { slots := true, sb := true, pl := true, sub := 3, imm := true }, f.sub.getLsbD 1 = false ∧ co ≠ 0,
            ¬ quad ∨ odd ∨ badPl ∨ nk = 0 ∨ 64 < nk ∨ 64 < a + w ∨ 64 < b + 2 * w),
         (.attri g f, 0x8C, { sub := 1, imm := true }, False, ¬ quad ∨ odd ∨ sImm < -60 ∨ 0 < sImm) ] :
        List (Instr × Nat × MmUse × Prop × Prop)) →
      let en := k.ma
      let clk := en.stampBase + f.stamp.toNat
      let q : MqEntry := { opc := BitVec.ofNat 8 opc, w := f, sec := en.place.1, widx := en.place.2, stamp := clk }
      (en.hdr.getLsbD 48 = false → exec i s = .next (s.issueFault c .ma FCode.illop 0x06 noElem)) ∧
      (en.hdr.getLsbD 48 = true → u.breaks f = true ∨ odd11 → exec i s = .next (s.issueFault c .ma FCode.illop 0x11 noElem)) ∧
      (en.hdr.getLsbD 48 = true → u.breaks f = false → ¬ odd11 → range → exec i s = .next (s.issueFault c .ma FCode.illop 0x12 noElem)) ∧
      (en.hdr.getLsbD 48 = true → u.breaks f = false → ¬ odd11 → ¬ range →
        (8 ≤ k.mq.length → exec i s = .next (s.modEng c .ma fun x => { x with hold := .none })) ∧
        (k.mq.length < 8 → (∃ t ∈ q.tiles, k.awakeA t = false) → exec i s = .next (s.issueFault c .ma FCode.regcold 0 noElem)) ∧
        (k.mq.length < 8 → (∀ t ∈ q.tiles, k.awakeA t = true) →
          (arrayAbsent s c f = true → exec i s = .next (s.issueFault c .ma FCode.resabsent 0 noElem)) ∧
          (arrayAbsent s c f = false →
            let again := en.redo = [] ∧ q.widx ∈ en.cmds
            (clk < s.pcc + 2 ∨ again → exec i s = .next
              ((issuedFrom s s c .ma 1).raiseLate c .ma FCode.schedmiss f.arr.toNat noElem
                { sec := q.sec, widx := q.widx, w0 := 0#96, w1 := 0#96, w2 := 0#96 })) ∧
            (s.pcc + 2 ≤ clk → ¬ again → exec i s = .next
              (issuedFrom s (((s.launch c .ma).modCore c fun k => { k with mq := k.mq ++ [q] }).modEng c .ma fun x =>
                { x with cmds := q.widx :: x.cmds }) c .ma 1)))))) ∧
  (∀ (s : State) c q, s.agent = .unit c → nextStart (s.core c) s.pcc = some q →
    let k := s.core c
    let ready := (∀ x ∈ q.units, Tbl.get 0 k.arrBusy x ≤ s.pcc) ∧ ∀ r ∈ q.reads, slotReady k q.pl r = true ∧ (s.jobWrites c r.1 = false ∨ atsmWrites k r.1 = true)
    (ready → ∃ u x, exec .matrixCommandStart s = .next u ∧ OnlyCore s u c ∧ (u.core c).mq = k.mq.erase q ∧ (u.core c).mrun = k.mrun ++ [x] ∧
      x.cmd = q ∧ x.start = s.pcc ∧ x.due = s.pcc + q.occ + 10 ∧ (∀ r ∈ q.reads, x.slot r.1 = Tbl.get {} k.slots r.1) ∧
      (∀ n, Tbl.get 0 (u.core c).arrBusy n = if n ∈ q.units then s.pcc + q.occ else Tbl.get 0 k.arrBusy n) ∧
      (u.core c).tiles = k.tiles ∧ (u.core c).slots = k.slots) ∧
    (¬ ready → ∃ u, exec .matrixCommandStart s = .next u ∧ OnlyCore s u c ∧ (u.core c).mq = k.mq.erase q ∧ (u.core c).mrun = k.mrun ∧
      (u.core c).tiles = k.tiles ∧ (u.core c).slots = k.slots ∧ q.sec ∈ (u.core c).ma.missed ∧
      (k.ma.fault.v = false → (u.core c).ma.fault.v = true ∧ (u.core c).ma.fault.code = BitVec.ofNat 8 FCode.schedmiss ∧
        (u.core c).ma.fault.late = true ∧ (u.core c).ma.fault.detail = q.w.arr.zeroExtend 16 ∧ (u.core c).ma.fault.sec = q.sec))) ∧
  ∀ (s : State) c r, s.agent = .unit c → nextWrite (s.core c) s.pcc = some r →
    let k := s.core c
    let q := r.cmd
    let t := q.w.acc.toNat
    let a := q.w.sa.toNat
    let b := q.w.sb.toNat
    ∃ u, exec .matrixCommandWrite s = .next u ∧ OnlyCore s u c ∧ (u.core c).mrun = k.mrun.erase r ∧ (u.core c).mq = k.mq ∧
      (∀ n, n ∉ q.tiles → (u.core c).tile n = k.tile n) ∧ (q.opc ≠ 0x89#8 → (u.core c).slots = k.slots) ∧
      (∀ n, n ≠ a → n ≠ a + 1 → Tbl.get {} (u.core c).slots n = Tbl.get {} k.slots n) ∧
      (q.opc = 0x80#8 → (u.core c).tile t = r.prod a b (k.tile t)) ∧
      (q.opc = 0x81#8 → (u.core c).tile t = r.prod a b (zeroTile q.anc)) ∧
      (q.opc = 0x82#8 → (u.core c).tile t = momTile (r.prod a b (k.tile t)) ∧
        (u.core c).tile (t + 1) = momTile (let x := r.prod (a + 1) (b + 1) (k.tile (t + 1)); if q.w.sub = 0#4 then x else r.prod (a + 2) (b + 2) x)) ∧
      (q.opc = 0x83#8 → (k.tile t).valid = true → (u.core c).tile t = hadTile q.w.imm.toNat (k.tile t)) ∧
      (q.opc = 0x84#8 → (u.core c).tile t = moveTile q.anc (k.tile t)) ∧
      (q.opc = 0x85#8 → (u.core c).tile t = zeroTile q.anc ∧ (q.w.sub ≠ 0#4 → (u.core c).tile (t + 1) = zeroTile q.anc)) ∧
      (q.opc = 0x86#8 → Tbl.sorted k.tiles = true →
        (u.core c).tile t = if q.w.sub = 0#4 then k.tile (q.w.imm.toNat % 256) else addTile (k.tile t) (k.tile (q.w.imm.toNat % 256))) ∧
      (q.opc = 0x88#8 → ∀ n ≠ t + 3, (u.core c).tile n = k.tile n) ∧ (q.opc = 0x8A#8 → (u.core c).tile (t + 2) = k.tile (t + 2))

/-- R294 to R308: the issue of the drain words and the stores of slots. -/
def Obligations.DrainWordsAndStoresIssue : Prop :=
  (∀ (s : State) c g (f : DxWord) kind i, Executes s c .dr g →
    (kind, i) ∈ ([(.plain, .drain g f), (.mx, .drainmx g f), (.mom, .drainm g f), (.cmpr, .dcmpr g f)] : List (DrainKind × Instr)) →
    let q := s.core c
    let fmt := f.fmt.toNat
    let t := f.acc.toNat
    let d := q.desc f.sd.toNat
    let v := f.vi.toNat
    let seed := if q.deadV v then 0 else nth 0 (q.physV v) 0
    let slot := f.sub.getLsbD 0
    drainIllop kind f = none → drBusy q [] = false → kind.takes fmt = true → q.awakeA t = true →
    (f.rm = 6#3 → q.awakeV v = true ∧ (q.deadV v = true ∨ q.poisV v 0 = false)) →
    (slot = false → Desc.handle d = 0#64 → exec i s = .next (s.issueFault c .dr FCode.missobj 1 noElem)) ∧
    (slot = true → (kind ≠ .cmpr → rawEnd fmt 1024 ≤ 0x1FF0) →
      (∀ e n, drainResult kind f (q.mctl.getLsbD 2) (q.tile t) (q.tile (t + 1)) seed (tab 1024 fun n => (n, [])) = .inl (e, n) →
        exec i s = .next (s.issueFault c .dr e.code e.detail (BitVec.ofNat 32 n))) ∧
      ∀ els sc nvs, drainResult kind f (q.mctl.getLsbD 2) (q.tile t) (q.tile (t + 1)) seed (tab 1024 fun n => (n, [])) = .inr (els, sc, nvs) →
        exec i s = .next (issuedFrom s (drainCommit kind f c [] (.slots (drainSlots kind f els sc)) nvs s) c .dr 1)) ∧
    (∀ o : Option Layout, slot = false → Desc.handle d ≠ 0#64 → s.walkReady (s.principal c) (Desc.handle d) = true →
      (∀ l, o = some l ↔ s.lookup (s.principal c) (Desc.handle d) = .ok l) →
      let shape := destShape d (if kind.blocks then fmt else (o.map (·.fmt)).getD 0) (o.map (·.rank)) (Desc.tr d) (Desc.tc d)
      (shape = true → exec i s = .next (s.issueFault c .dr FCode.illop 0x32 noElem)) ∧
      (shape = false → (∃ l, o = some l ∧ l.fmt ≠ fmt) → exec i s = .next (s.issueFault c .dr FCode.fmtbad 6 noElem)) ∧
      (shape = false → (∀ l, o = some l → l.fmt = fmt) →
        (∀ e, destVer s c d o = some e → exec i s = .next (s.issueFault c .dr e.code e.detail noElem)) ∧
        (destVer s c d o = none →
          let cells := (destCells d o).map fun e => (64 * e.1 + e.2.1, e.2.2)
          (∀ e n, drainResult kind f (q.mctl.getLsbD 2) (q.tile t) (q.tile (t + 1)) seed cells = .inl (e, n) →
            exec i s = .next (s.issueFault c .dr e.code e.detail (BitVec.ofNat 32 n))) ∧
          ∀ els sc nvs, drainResult kind f (q.mctl.getLsbD 2) (q.tile t) (q.tile (t + 1)) seed cells = .inr (els, sc, nvs) →
            let work := match o with
              | some l => DrWork.store (els.map fun e => { elem := e.1, t := e.2.1, val := e.2.2 }) ((sc.map fun b => scalesFor l b.1 b.2).flatten)
              | none => .lost false (descFlt s c d (Desc.tuple d 0 0)).code (descFlt s c d (Desc.tuple d 0 0)).detail 0
            exec i s = .next (issuedFrom s (drainCommit kind f c d work nvs s) c .dr 1))))) ∧
  (∀ (s : State) c kind (f : DxWord) d work nvs, Tbl.sorted (s.core c).tiles = true →
    let u := drainCommit kind f c d work nvs s
    let t := f.acc.toNat
    OnlyCore s u c ∧ (u.core c).dr.busyTo = s.pcc + (if kind = .mom then 64 else 32) ∧ (u.core c).slots = (s.core c).slots ∧
      (u.core c).mctl = (if nvs then (s.core c).mctl ||| 0x200#32 else (s.core c).mctl) ∧
      (∃ x, (u.core c).stores = (s.core c).stores ++ [x] ∧ x.work = work ∧ x.desc = d ∧ (x.sec, x.widx) = (s.core c).dr.place) ∧
      ∀ n, (u.core c).tile n = if f.sub.getLsbD 1 && (n == t || (kind == .mom && n == t + 1)) then {} else (s.core c).tile n) ∧
  (∀ (t : Tile) n tov tl (x : BitVec 32), Tbl.find t.poison n = none → (t.ra n).overflows = false → ((t.ra n).loss && tl) = false →
    drainElem t n tov tl (fp32 x) = ([], some (FVal.ofQ (Q.mul (Q.mul (Q.ofInt (t.ra n).crt) (Q.pow2 t.anchor)) (fp32 x).toQ)))) ∧
  ∀ (s : State) c g (f : DxWord) (rows : Bool), Executes s c .dr g →
    f = { f with acc := 0#8, rm := 0#3, fmt := 0#8, cb := 0#4, sub := 0#4, z32 := 0#6, imm := 0#32 } → (rows = false → f.vi = 0#5) →
    let q := s.core c
    let d := q.desc f.sd.toNat
    let h := Desc.handle d
    let x := Tbl.get {} q.slots f.slot.toNat
    let v := f.vi.toNat
    let i := if rows then Instr.dstsc g f else .dstore g f
    let flt := fun (p : Prop) (code detail : Nat) => p → exec i s = .next (s.issueFault c .dr code detail noElem)
    let shape := h ≠ 0#64 ∧ (x.tc ≠ Desc.tc d ∨ 16 < x.tr)
    let form := x.form = 0 ∨ x.form = 3
    drBusy q [f.slot.toNat] = false →
    (rows = false → flt (h = 0#64) FCode.missobj 1 ∧ flt (h ≠ 0#64 ∧ ¬ form) FCode.fmtbad 7) ∧
    (rows = true → flt shape FCode.illop 0x32 ∧ flt (¬ shape ∧ q.awakeV v = false) FCode.regcold 0 ∧
      flt (h = 0#64 ∧ q.awakeV v = true) FCode.missobj 1) ∧
    ∀ o : Option Layout, h ≠ 0#64 → s.walkReady (s.principal c) h = true → (∀ l, o = some l ↔ s.lookup (s.principal c) h = .ok l) →
      let gone := destVer s c d o
      let other := ∃ l, o = some l ∧ x.fmt ≠ l.fmt
      let tags := x.tr = Desc.tr d ∧ x.tc = Desc.tc d ∧ destShape d x.fmt (o.map (·.rank)) x.tr x.tc = false
      let block := isMx x.fmt = true ∨ isSmb x.fmt = true
      let r := layoutOf (Handle.home h) (s.layoutWords (s.principal c) h)
      let at_ := fun (n : Nat) => if q.deadV v then 0 else nth 0 (q.physV v) (64 * (n / x.tc))
      let cells := if rows
        then ((List.range (x.tr * x.tc)).filter fun n => at_ n != 2 ^ 32 - 1).map fun n =>
          (n, unlinear r.rank r.ext (linear r.rank r.ext (Desc.cur d) + (at_ n + n % x.tc)))
        else (destCells d o).map fun e => (x.tc * e.1 + e.2.1, e.2.2)
      let pois := fun (n : Nat) => slotPois x x.fmt (x.tr * x.tc) n = true ∨ (rows = true ∧ q.deadV v = false ∧ q.poisV v (64 * (n / x.tc)) = true)
      (rows = false → form → flt other FCode.fmtbad 6 ∧ flt (¬ other ∧ ¬ tags) FCode.illop 0x32 ∧
        ∀ e, gone = some e → flt (¬ other ∧ tags) e.code e.detail) ∧
      (rows = true → ¬ shape → q.awakeV v = true → (∀ e, gone = some e → flt True e.code e.detail) ∧
        (gone = none → flt (¬ form) FCode.fmtbad 7 ∧ flt (form ∧ other) FCode.fmtbad 6 ∧ flt (form ∧ ¬ other ∧ block) FCode.fmtbad 1)) ∧
      (form → ¬ other → gone = none → (rows = false → tags) → (rows = true → ¬ shape ∧ q.awakeV v = true ∧ ¬ block) →
        (∀ n t, (n, t) ∈ cells → pois n → (∀ m u, (m, u) ∈ cells → m < n → ¬ pois m) →
          exec i s = .next (s.issueFault c .dr FCode.uncorr 0 (BitVec.ofNat 32 n))) ∧
        ((∀ n t, (n, t) ∈ cells → ¬ pois n) →
          ∃ work, exec i s = .next (issuedFrom s (sendDr s c d work) c .dr 1) ∧
            (∀ l, o = some l → ∃ sc, work = .store (cells.map fun e =>
              { elem := e.1, t := e.2, val := if isSmb x.fmt && e.1 % 32 != 0 then none else some (x.rawCode x.fmt e.1) }) sc) ∧
            (o = none → cells = [] → work = .store [] []) ∧
            ∀ n t cs, o = none → cells = (n, t) :: cs → work = .lost false (descFlt s c d t).code (descFlt s c d t).detail n))

/-- R226 to R238, R307, R382, R383: the issue of the Bench words, of DBARS and of KVAPP. -/
def Obligations.BenchWordsBarriersAndKvappIssue : Prop :=
  (∀ (s : State) c g (f : DxWord) l, Executes s c .dr g → updIllop f = none →
    let k := s.core c
    let d := k.desc f.sd.toNat
    let v := f.vi.toNat
    Desc.handle d ≠ 0#64 → Desc.tr d ≤ 16 → s.walkReady (s.principal c) (Desc.handle d) = true →
    s.lookup (s.principal c) (Desc.handle d) = .ok l →
    let errs := updErrs k (l.bench && s.benchHere (s.principal c) l) f d l
    (∀ e, leastFault errs = some e → exec (.bkupd g f) s = .next (s.issueFault c .dr e.code e.detail noElem)) ∧
    (leastFault errs = none →
      let src := fun (n : Nat) =>
        updElem k f l ((List.range (updRegs f.sub.toNat l.fmt)).map fun q => (k.drV (v + q)).toArray) (k.physM v).toArray (k.tile f.acc.toNat) n
      let cells := destCells d (some l)
      (∀ e ∈ cells, (src (64 * e.1 + e.2.1)).1 = []) →
      exec (.bkupd g f) s =
        .next (issuedFrom s (sendDr
          (if cells.any fun e => (src (64 * e.1 + e.2.1)).2.2.2 then s.modCore c fun q => { q with mctl := q.mctl ||| 0x200#32 } else s) c d
          (.update f.sub.toNat (cells.map fun e =>
              { elem := Desc.tc d * e.1 + e.2.1, t := e.2.2, val := some (src (64 * e.1 + e.2.1)).2.1 })
            (cells.map fun e => (src (64 * e.1 + e.2.1)).2.2.1)
            (if f.imm.getLsbD 0 then some (f.slot.toNat, Desc.tr d, Desc.tc d) else none))) c .dr 1))) ∧
  (∀ (s : State) c g (f : DxWord) l, Executes s c .dr g →
    f = { f with acc := 0#8, slot := 0#6, rm := 0#3, fmt := 0#8, cb := 0#4, vi := 0#5, z32 := 0#6, imm := 0#32 } → f.sub.toNat ≤ 5 →
    let d := (s.core c).desc f.sd.toNat
    ((s.core c).stores.any DrStore.updates) = false → Desc.handle d ≠ 0#64 → s.walkReady (s.principal c) (Desc.handle d) = true →
    s.lookup (s.principal c) (Desc.handle d) = .ok l →
    (l.bench = false ∨ s.benchHere (s.principal c) l = false → exec (.xwin g f) s = .next (s.issueFault c .dr FCode.rights 0x40 noElem)) ∧
    (l.bench = true → s.benchHere (s.principal c) l = true → l.fmt = 0x05 ∨ (l.fmt = 0x10 ∧ f.sub.toNat < 3) →
      exec (.xwin g f) s =
        .next (issuedFrom s ((s.flushWindow c).modCore c fun k =>
          { k with winBind := some { handle := Desc.handle d, l0 := linear l.rank l.ext (Desc.cur d), op := f.sub.toNat, fmt := l.fmt } }) c .dr 1))) ∧
  (∀ (s : State) c g (f : DxWord), Executes s c .dr g →
    f = { f with acc := 0#8, slot := 0#6, sd := 0#4, rm := 0#3, fmt := 0#8, cb := 0#4, sub := 0#4, z32 := 0#6 } →
    f.vi.toNat % 2 = 0 → 1 ≤ f.imm.toNat → f.imm.toNat ≤ 1024 →
    let k := s.core c
    let v := f.vi.toNat
    (k.winBind = none → exec (.xacc g f) s = .next (s.issueFault c .dr FCode.illop 0x40 noElem)) ∧
    ∀ b, k.winBind = some b → k.awakeV v = true → k.awakeV (v + 1) = true → s.walkReady (s.principal c) b.handle = true → (k.stores.any DrStore.updates) = false →
      windowOut s c + f.imm.toNat ≤ 1024 →
      let js := (List.range f.imm.toNat).filter fun j => nth 0 (k.drV v) j != 2 ^ 32 - 1
      (∀ j ∈ js, k.drPois v j = false ∧ k.drPois (v + 1) j = false) →
      exec (.xacc g f) s =
        .next (issuedFrom s (sendDr s c [] (.entries (js.map fun j =>
          { elem := j, t := [b.l0 + nth 0 (k.drV v) j], val := some (nth 0 (k.drV (v + 1)) j) }))) c .dr 1)) ∧
  (∀ (s : State) c g (f : DxWord) (i : Instr), f = { f with acc := 0#8, slot := 0#6, sd := 0#4, rm := 0#3, fmt := 0#8, cb := 0#4, vi := 0#5, sub := 0#4, z32 := 0#6, imm := 0#32 } →
    (i = .xflush g f ∧ Executes s c .dr g) ∨ (i = .xflushApplied ∧ s.agent = .unit c ∧ (s.core c).dr.hold = .xflush) →
    ((s.core c).stores.any DrStore.updates) = false →
    let s1 := s.flushWindow c
    (updatesApplied s1 c = false → ∃ t, exec i s = .next t ∧ t.bankq = s1.bankq ∧ t.mem = s.mem ∧ (t.core c).win = (s1.core c).win ∧
      (t.core c).dr.hold = .xflush) ∧
    (updatesApplied s1 c = true → (s.core c).scFail = false → exec i s = .next (issuedFrom s1 s1 c .dr 1)) ∧
    (updatesApplied s1 c = true → (s.core c).scFail = true →
      exec i s = .next ((s1.modCore c fun k => { k with scFail := false }).issueFault c .dr FCode.uncorr 2 noElem))) ∧
  (∀ (s : State) c g (f : DxWord) (wait : Bool) (i : Instr),
    f = { f with acc := 0#8, slot := 0#6, sd := 0#4, rm := 0#3, fmt := 0#8, vi := 0#5, z32 := 0#6, imm := 0#32 } → f.sub.toNat ≤ 1 →
    let word := if wait then Instr.dbarsWait g f else .dbarsFull g f
    let hold := if wait then Hold.dbarsWait else .dbarsFull
    (i = word ∧ Executes s c .dr g) ∨ (i = .dbarsRelease ∧ s.agent = .unit c ∧ (s.core c).dr.hold = hold ∧ headInstr s c .dr = some word) →
    let k := s.core c
    let b := f.cb.toNat
    let may := (k.full b = false ∧ k.owned b = false) ∧ (wait = false → k.stores = [])
    (may → exec i s = .next (issuedFrom s (if wait then s else s.modCore c fun k => k.setCb b true) c .dr 1)) ∧
    (¬ may → i = word → exec i s = .next (s.modEng c .dr fun x => { x with hold := hold })) ∧
    (¬ may → i ≠ word → exec i s = .next s)) ∧
  ∀ (s : State) c g (f : DxWord) l p, Executes s c .dr g →
    f = { f with acc := 0#8, slot := 0#6, cb := 0#4, sub := 0#4, z32 := 0#6, imm := 0#32 } → f.rm.toNat ≤ 5 →
    let k := s.core c
    let d := k.desc f.sd.toNat
    let h := Desc.handle d
    let v := f.vi.toNat
    let flt := fun (p : Prop) (code detail : Nat) => p → exec (.kvapp g f) s = .next (s.issueFault c .dr code detail noElem)
    let gone := Desc.gone d = true ∨ Desc.published d = true
    drBusy k [] = false → k.awakeV v = true → h ≠ 0#64 → flt (fmtListed f.fmt.toNat = false) FCode.fmtbad 1 ∧
    (fmtListed f.fmt.toNat = true → s.walkReady (s.principal c) h = true → s.lookup (s.principal c) h = .ok l →
    flt (l.tord ≠ 3) FCode.fmtbad 3 ∧ flt (l.tord = 3 ∧ l.fmt ≠ f.fmt.toNat) FCode.fmtbad 6 ∧
    flt (l.tord = 3 ∧ l.fmt = f.fmt.toNat ∧ gone) FCode.vergone 2 ∧
    flt (l.tord = 3 ∧ l.fmt = f.fmt.toNat ∧ ¬ gone ∧ Desc.draft d = false) FCode.vergone 4 ∧
    (l.tord = 3 → l.fmt = f.fmt.toNat → ¬ gone → Desc.draft d = true →
      s.resolve (s.principal c) h l [0, 0, 0, 0, 0] Right.write (State.destSel d) = .ok p →
      let els := List.range (l.e 2) ++ (List.range (l.e 2)).map (512 + ·)
      (∀ n ∈ els, k.deadV v = true ∨ k.poisV v n = false) → l.e 2 ≤ 512 →
      exec (.kvapp g f) s =
        .next (issuedFrom s (sendDr s c d (.token f.rm.toNat (els.map fun n => if k.deadV v then 0 else nth 0 (k.physV v) n))) c .dr 1)))

/-! ## What follows the issue of an engine word -/

/-- R218, R225, R294, R301, R383, R386: the resolving of loads, the acceptance of stores, bank updates and KVAPP. Log entry 25: loads are resolved and DR
words accepted in the order of their issue. -/
def Obligations.LoadsStoresAndUpdatesTakeEffect : Prop :=
  (∀ (s : State) c x rest l, s.agent = .unit c → (s.core c).loads = x :: rest →
    let pr := s.principal c
    let d := x.desc
    let h := Desc.handle d
    s.walkReady pr h = true → Desc.sh d = 0#64 ∨ s.walkReady pr (Desc.sh d) = true → s.lookup pr h = .ok l →
    let s0 := if l.bench then s.settle c else s
    (∀ els, x.op = 0 → readTile s0 (s0.principal c) x l = .ok els →
      ∃ u, exec .feLoadResolve s = .next u ∧ u.mem = s0.mem ∧ (u.core c).loads = (s0.core c).loads.drop 1 ∧ (u.core c).v = (s0.core c).v ∧
        ∀ n, Tbl.get {} (u.core c).slots n = if n = x.f.slot.toNat then loadSlot x l.fmt (els.map (·.2)) else Tbl.get {} (s0.core c).slots n) ∧
    (∀ els p, x.op = 1 → readTile s0 (s0.principal c) x l = .ok els → loadKind x.f ≤ 1 → p = x.f.vd.toNat → x.drop.contains p = false →
      ∃ u, exec .feLoadResolve s = .next u ∧ u.mem = s0.mem ∧ (u.core c).slots = (s0.core c).slots ∧
        (∀ r, r ≠ p → (u.core c).physV r = (s0.core c).physV r) ∧
        ∀ n < 1024, nth 0 ((u.core c).physV p) n =
          if x.mask.getLsbD n = false then nth 0 ((s0.core c).physV p) n
          else if n / 64 < Desc.tr d ∧ n % 64 < Desc.tc d then
            (nth 0 (els.map fun e => (convElem (loadKind x.f) l.fmt e.2.1).1 % 2 ^ 32) (Desc.tc d * (n / 64) + n % 64))
          else 0) ∧
    (∀ n, x.op < 2 → readTile s0 (s0.principal c) x l = .desync n →
      exec .feLoadResolve s = .next (s0.failLoad c x ⟨FCode.desync, n⟩ noElem)) ∧
    (∀ n f t, x.op < 2 → readTile s0 (s0.principal c) x l = .elem n f t →
      exec .feLoadResolve s = .next ((s0.noteMiss h l t (Desc.sel d) f).failLoad c x f (BitVec.ofNat 32 n))) ∧
    (∀ r, 2 ≤ x.op → Desc.sh d = 0#64 → x.cut = 1024 → readCells s0 (s0.principal c) h l (Desc.sel d) true ((gatherCells x l).filter fun e => decide (e.1 < 1024)) = .ok r →
      exec .feLoadResolve s = .next ((s0.landLoad c x).modCore c fun k => k.putLoad x (gatherEls x l.fmt 1024 r)))) ∧
  (∀ (s : State) c x f elem, f.code ≠ FCode.schedmiss → f.code < 2 ^ 8 → f.detail < 2 ^ 16 →
    let u := s.failLoad c x f elem
    let g := (s.core c).fe
    OnlyCore s u c ∧ (u.core c).loads = (s.core c).loads.drop 1 ∧ (u.core c).v = (s.core c).v ∧ (u.core c).m = (s.core c).m ∧
      (u.core c).slots = (s.core c).slots ∧ (u.core c).fe.kept = g.kept ++ [{ sec := x.sec, widx := x.widx, w0 := x.w, w1 := 0#96, w2 := 0#96, desc := some x.desc }] ∧
      (g.fault.v = true → (u.core c).fe.fault = { g.fault with more := true }) ∧
      (g.fault.v = false → (u.core c).fe.fault.v = true ∧ (u.core c).fe.fault.code.toNat = f.code ∧ (u.core c).fe.fault.detail.toNat = f.detail ∧
        (u.core c).fe.fault.elem = elem ∧ (u.core c).fe.fault.sec = x.sec ∧ (u.core c).fe.fault.late = true)) ∧
  (∀ (s : State) c x rest, s.agent = .unit c → (s.core c).stores = x :: rest →
    let pr := s.principal c
    let h := Desc.handle x.desc
    let v := State.destSel x.desc
    (∀ ws, x.work = .slots ws → ∃ u, exec .drStoreAccept s = .next u ∧ OnlyCore s u c ∧ (u.core c).stores = rest ∧
      (u.core c).slots = ws.foldl (fun t w => Tbl.put t w.1 w.2) (s.core c).slots) ∧
    (∀ els sc l ps s1 ps1, x.work = .store els sc → s.walkReady pr h = true → s.lookup pr h = .ok l →
      placeScaled s pr h l v (!sc.isEmpty) els = .ok ps → (∀ e ∈ ps, s.pageLocked e.2.key = false) → s.scalesLocked h l v sc = false →
      let s0 := if l.bench then s.settle c else s
      s0.ownPages ((s0.pagesOf h l v ps sc).map fun p => (Handle.key h, p)) = some s1 → placeScaled s1 pr h l v (!sc.isEmpty) els = .ok ps1 →
      exec .drStoreAccept s = .next ((s1.putEls h l v ps1 sc).landStore c x) ∧
        ∀ a, (∀ e ∈ ps1, ¬ (e.2.key ≤ a ∧ a < e.2.key + (e.2.bit + e.2.bits + 7) / 8)) →
          sc = [] → (s1.putEls h l v ps1 sc).byte a = s1.byte a) ∧
    (∀ upd code detail elem, x.work = .lost upd code detail elem →
      exec .drStoreAccept s = .next (s.failStore c x ⟨code, detail⟩ (BitVec.ofNat 32 elem))) ∧
    (∀ els sc l n f t, x.work = .store els sc → s.walkReady pr h = true → s.lookup pr h = .ok l →
      placeScaled s pr h l v (!sc.isEmpty) els = .bad n f t →
      exec .drStoreAccept s = .next ((s.noteMiss h l t v f).failStore c x f (BitVec.ofNat 32 n))) ∧
    (∀ op els cmp l ps, x.work = .update op els cmp none → s.walkReady pr h = true → s.lookup pr h = .ok l →
      placeEls s pr h l Right.write (Desc.sel x.desc) els = .ok ps →
      ∃ u rs, exec .drStoreAccept s = .next u ∧ OnlyCore s u c ∧ (u.core c).stores = rest ∧ u.bankq = s.bankq ++ rs ∧ rs.length = ps.length ∧
        ∀ i < ps.length, ∀ r ∈ rs[i]?, ∀ e ∈ ps[i]?, r.pa = e.2.key ∧ r.op = op ∧ r.fmt = l.fmt ∧ r.x = e.1.val.getD 0 ∧ r.cmp = nth 0 cmp i ∧
          r.key = Handle.key h ∧ r.size = e.2.bits / 8)) ∧
  (∀ (s : State) (p : State.Place) x, s.MemOk → (s.writePlace p x).readPlace p = x % 2 ^ p.bits) ∧
  (∀ (s : State) d r, s.agent = .unit d → s.bankq.find? (fun r => decide (r.pa / 2 ^ 32 % 8 = d)) = some r →
    let w := s.ew r.key 0
    (w.getLsbD 46 = false ∨ fld w 0 12 ≠ r.gen → exec .bankApply s = .next { s with bankq := s.bankq.erase r }) ∧
    (w.getLsbD 46 = true → fld w 0 12 = r.gen → s.poisoned r.pa r.size = true →
      ∀ e, r.crid ≠ 0 → (s.cores.find? fun e => decide (e.2.crid = r.crid) && !s.restoring e.2) = some e →
        exec .bankApply s = .next ({ s with bankq := s.bankq.erase r }.modCore e.1 fun k => { k with scFail := true })) ∧
    (w.getLsbD 46 = true → fld w 0 12 = r.gen → s.poisoned r.pa r.size = false → s.MemOk →
      ∃ u, exec .bankApply s = .next u ∧ u.bankq = s.bankq.erase r ∧ u.cores = s.cores ∧ u.num r.pa r.size = bankOp r.op r.fmt (s.num r.pa r.size) r.x r.cmp % 2 ^ (8 * r.size) ∧
        ∀ a, a < r.pa ∨ r.pa + r.size ≤ a → u.byte a = s.byte a)) ∧
  ∀ (s : State) c x rest rm vals l p0, s.agent = .unit c → (s.core c).stores = x :: rest → x.work = .token rm vals →
    let pr := s.principal c
    let h := Desc.handle x.desc
    let v := State.destSel x.desc
    let zero := [0, 0, 0, 0, 0]
    let word := fun (p : State.Place) => p.key / 65536 * 65536 + (if l.fmt = 0x11 then 256 * l.e 2 else 132 * l.e 2)
    let at_ := fun (s : State) (e : List Nat × Bool) => match s.kvPlace pr h l v e with
      | .ok p => some p
      | .bad _ => none
    s.walkReady pr h = true → s.lookup pr h = .ok l → s.resolve pr h l zero Right.write v = .ok p0 →
    let w := s.num (word p0) 8
    let t := w % 128
    let good := w / 2 ^ 9 % 2 ^ 23 = 0
    (s.poisoned (word p0) 8 = true → exec .kvappApply s = .next (s.failStore c x ⟨FCode.uncorr, 0⟩ noElem)) ∧
    (s.poisoned (word p0) 8 = false →
      (¬ good ∨ 64 < t → exec .kvappApply s = .next (s.failStore c x ⟨FCode.fmtbad, 0xB⟩ noElem)) ∧
      (good → t = 64 → exec .kvappApply s = .next (s.failStore c x ⟨FCode.bounds, 1⟩ noElem)) ∧
      (good → t < 64 → (∀ e ∈ State.kvCells l t, (at_ s e).isSome = true) →
        (s.kvStores (at_ s) l rm vals t (bitOf w 8) = none → exec .kvappApply s = .next (s.failStore c x ⟨FCode.uncorr, 0⟩ noElem)) ∧
        ∀ ws0 satf0 swap0, s.kvStores (at_ s) l rm vals t (bitOf w 8) = some (ws0, satf0, swap0) →
          let places := p0 :: ws0.map (·.1)
          ((∃ p ∈ places, s.pageLocked p.key = true) → exec .kvappApply s = .next s) ∧
          ((∀ p ∈ places, s.pageLocked p.key = false) →
            ∀ s1 p1 ws satf swap, s.ownPages ((places.map (·.page)).eraseDups.map fun p => (Handle.key h, p)) = some s1 →
              s1.resolve pr h l zero Right.write v = .ok p1 → s1.kvStores (at_ s1) l rm vals t (bitOf w 8) = some (ws, satf, swap) →
              exec .kvappApply s =
                .next ((((ws.foldl (fun s w => s.storePlace w.1 w.2) s1).writeNum (word p1) 8
                  ((w / 2 ^ 32 + b2n swap) % 2 ^ 32 * 2 ^ 32 + b2n (bitOf w 8) * 256 + b2n (bitOf w 7 || satf) * 128 + (t + 1))).noteRemote
                    [word p1]).landStore c x))))

/-- R16 to R26, R75, R78, R91: the sections of an engine. -/
def Obligations.SectionsStartRunAndRetire : Prop :=
  (∀ (s : State) c e h, s.agent = .unit c → State.atHeader (s.core c) e s.pcc = true → s.headerAt c e = some h →
    let g := (s.core c).eng e
    (∀ d, State.headerFault h g.secNum = some d → exec (.sectionStart e) s = .next (s.raiseEng c e FCode.illop d noElem)) ∧
    (State.headerFault h g.secNum = none →
      let wa := g.waMet || State.waitMet ((s.core c).eng (State.waitsOn e).1).retiredVis (h.extractLsb' 16 16)
      let wb := g.wbMet || State.waitMet ((s.core c).eng (State.waitsOn e).2).retiredVis (h.extractLsb' 0 16)
      ((wa && wb) = false → g.wmLeft = none →
        exec (.sectionStart e) s = .next (s.modEng c e fun x => { x with waMet := wa, wbMet := wb })) ∧
      ((wa && wb) = true → h.getLsbD 49 = false ∨ s.bookingRuns c e = true →
        ∃ u, exec (.sectionStart e) s = .next u ∧ OnlyCore s u c ∧ u.turns = .seq c (.eng e) :: s.turns ∧
          (u.core c).eng e =
            { g with inSec := true, hdr := h, slot := 0, cmds := [], hold := .none, stampBase := s.pcc + 64, leaveReq := none, leaveOk := false
                     reLeave := false, waMet := true, wbMet := true, tracks := g.tracks ++ [{ num := g.secNum }] } ∧
          ∀ q, q ≠ e → (u.core c).eng q = (s.core c).eng q))) ∧
  (∀ (h : Word) sec d, State.headerFault h sec = some d ↔
    (d = 3 ∧ h.extractLsb' 50 14 = 0#14) ∨ (d = 4 ∧ h.extractLsb' 50 14 ≠ 0#14 ∧ h.extractLsb' 32 16 ≠ sec) ∨
      (d = 5 ∧ h.extractLsb' 50 14 ≠ 0#14 ∧ h.extractLsb' 32 16 = sec ∧ h.getLsbD 48 = true ∧ h.getLsbD 49 = false)) ∧
  (∀ (count w : Half), State.waitMet count w = true ↔ w = 0xFFFF#16 ∨ (count - w).toNat < 2 ^ 15) ∧
  (∀ (s : State) c e slots last, ((s.core c).eng e).redo = [] →
    let g := (s.core c).eng e
    let on := fun (f : EngSt → EngSt) => s.issued c e slots last =
      s.modEng c e fun x => f { x with hold := .none, wmLeft := x.wmLeft.map (· - slots), busyTo := max x.busyTo (s.pcc + 1) }
    ((∀ n < 4, (nth {} g.loops n).active = true → (nth {} g.loops n).le ≠ last) →
      (last + 1 < g.len → on fun x => { x with slot := last + 1 }) ∧
      (g.len ≤ last + 1 → on fun x =>
        { x with
          inSec := false, slot := 0, hdrAt := s.pcc + 1, secNum := g.secNum + 1#16, hdrPc := g.hdrPc + 8#64 + BitVec.ofNat 64 (12 * g.len), waMet := false
          wbMet := false, leaveReq := none, leaveOk := false
          tracks := g.tracks.map fun t => if t.num = g.secNum then { t with issued := true } else t })) ∧
    ∀ n l, n < 4 → l = nth {} g.loops n → l.active = true → l.le = last → 1 < l.lc → l.rot = false → l.ls < g.len →
      (∀ m, n < m → m < 4 → (nth {} g.loops m).active = true → (nth {} g.loops m).le ≠ last) →
      on fun x => { x with slot := l.ls, loops := fillAt {} g.loops n { l with lc := l.lc - 1 } }) ∧
  (∀ (s : State) c e t rest, s.agent = .unit c → ((s.core c).eng e).tracks = t :: rest →
    (State.frontDone ((s.core c).eng e) = true →
      ∃ u, exec (.sectionRetire e) s = .next u ∧ OnlyCore s u c ∧
        (u.core c).eng e = { (s.core c).eng e with tracks := rest, retired := t.num } ∧
        (t.token = false → u = s.setCore c (u.core c)) ∧
        (t.token = true → (u.gov (c / 256)).held = (s.gov (c / 256)).held.erase (c, engNo e) ∧ s.pcc + 1 ∈ (u.gov (c / 256)).freed)) ∧
    (State.frontDone ((s.core c).eng e) = false → exec (.sectionRetire e) s = .next s)) ∧
  (∀ (s : State) c e, s.agent = .unit c →
    (((s.core c).eng e).wmLeft = some 0 → ((s.core c).eng e).fault.v = false → ((s.core c).eng e).ended = false →
      exec (.watermarkHold e) s = .next (s.modEng c e fun x => { x with held := true, wmLeft := none })) ∧
    (guardStuck s c e = true → exec (.guardStallDetect e) s = .next (s.raiseEng c e FCode.illop 2 noElem)) ∧
    (forkStuck s c = true → ∃ u, exec .forkStallDetect s = .next u ∧ OnlyCore s u c ∧
      ∀ q, (u.core c).eng q =
        if heldAtHeader s c q then (((s.raiseEng c q FCode.illop 1 noElem).core c).eng q) else (s.core c).eng q) ∧
    (swaitbStuck s c = true → exec .swaitbStallDetect s = .next (s.raiseEng c .fe FCode.illop 0x30 noElem)) ∧
    (dbarsStuck s c = true → exec .dbarsStallDetect s = .next (s.raiseEng c .dr FCode.illop 0x50 noElem)) ∧
    ((s.core c).anyFault = true → (s.core c).ct.sup = false → (s.core c).phase = .running →
      ∃ u, exec .serviceEntryEngineFault s = .next u ∧ EnteredService s u c 24#64 0#64) ∧
    (∀ bs take, ((s.core c).eng e).hold = .guard → s.fetch c (((s.core c).eng e).hdrPc.toNat + 8 + 12 * ((s.core c).eng e).slot) 12 = some bs →
      s.guardTake c (Guard.ofBits (wordOf bs)) = take →
      exec (.guardRelease e) s = .next
        (if take = none then s
         else { s.modEng c e fun x => { x with hold := .none } with turns := .seq c (.eng e) :: s.turns })) ∧
    (∀ g f, ((s.core c).eng e).hold = .gwait → headInstr s c e = some (.gwait g f) → f.imm.toNat < 16 →
      exec (.gwaitRelease e) s = .next (if nth 0#2 (s.core c).gSeen f.imm.toNat = 0#2 then s else issuedFrom s s c e 1)) ∧
    (∀ g f, (s.core c).fe.hold = .swaitb → headInstr s c .fe = some (.swaitb g f) →
      exec .swaitbPass s = .next (if nth false (s.core c).cb f.cb.toNat then issuedFrom s s c .fe 1 else s)) ∧
    ∀ g f, (s.core c).fe.hold = .srel → headInstr s c .fe = some (.srel g f) →
      let ready := (s.core c).loads = [] ∧ (s.core c).owned f.cb.toNat = false
      (ready → exec .srelRelease s = .next (issuedFrom s (s.modCore c fun k => k.setCb f.cb.toNat false) c .fe 1)) ∧
      (¬ ready → exec .srelRelease s = .next s))

/-! ## Command lists -/

/-- R134, R135, R137, R415: the entries of a command list but LAUNCH and PREEMPT. Log entry 47: an entry of the pass queue begins with an empty call stack. -/
def Obligations.ListEntriesRunInOrder : Prop :=
  (∀ (s : State) i, s.unit = i → (s.interp i).st = 1 → ∀ e, ∀ first : Instr,
    entryLegal first = some (e, false) → exec first s = .next (s.listError i 2 0)) ∧
  (∀ (s : State) i code fault,
    (s.listError i code fault).interp i =
      { s.interp i with st := 2, err := code, errFault := fault, errIdx := (s.interp i).cli.toNat, hold := none } ∧
    ∀ n, n ≠ i → (s.listError i code fault).interp n = s.interp n) ∧
  (∀ (s : State) i e, s.unit = i → (s.interp i).st = 1 →
    let k := s.interp i
    let h := match k.hold with
      | some h => h
      | none => { entry := e, start := s.pcc }
    let s0 := s.setInterp i { k with busyTo := max k.busyTo (h.start + 16) }
    let list := if e.w1 = 0#64 then k.clh else e.w1
    (entryLegal (.jump e) = some (e, true) → exec (.jump e) s = .next (listAt s0 i list e.w2)) ∧
    (entryLegal (.call e) = some (e, true) →
      (8 ≤ k.stack.length → exec (.call e) s = .next (s0.listError i 3 0)) ∧
      (k.stack.length < 8 →
        exec (.call e) s =
          .next (listAt (s0.setInterp i { s0.interp i with stack := (k.clh, k.cli + 1#64) :: k.stack }) i list e.w2))) ∧
    (entryLegal (.ret e) = some (e, true) →
      (k.stack = [] → exec (.ret e) s = .next (s0.setInterp i { s0.interp i with st := 0, hold := none })) ∧
      (∀ l n r, k.stack = (l, n) :: r → exec (.ret e) s = .next (listAt (s0.setInterp i { s0.interp i with stack := r }) i l n))) ∧
    (entryLegal (.endList e) = some (e, true) →
      exec (.endList e) s = .next (s0.setInterp i { s0.interp i with st := 0, hold := none })) ∧
    (entryLegal (.skipif e) = some (e, true) →
      (s0.entryLocked e.w1 = true → exec (.skipif e) s = .next (listHeld s0 i h)) ∧
      (∀ f sh, s0.entryLocked e.w1 = false → s0.listRead i e.w1 e.w2.toNat 8 = (.bad f, sh) →
        exec (.skipif e) s = .next (s0.listFault i e.w1 sh (s0.curv (Handle.key e.w1)) f)) ∧
      (∀ bs sh, s0.entryLocked e.w1 = false → s0.listRead i e.w1 e.w2.toNat 8 = (.ok bs, sh) →
        let x := BitVec.ofNat 64 (leNat bs)
        let cond := match fld e.w0 8 2 with
          | 0 => x = e.w3
          | 1 => x ≠ e.w3
          | 2 => x.toNat < e.w3.toNat
          | _ => e.w3.toNat ≤ x.toNat
        (cond → exec (.skipif e) s = .next (listAt s0 i k.clh (k.cli + 1#64 + BitVec.ofNat 64 (fld e.w0 48 16)))) ∧
        (¬ cond → exec (.skipif e) s = .next (listAt s0 i k.clh (k.cli + 1#64)))) ∧
      (k.hold = some h → decodeEntry h.entry = some (.skipif e) → exec .clEntryResume s = exec (.skipif e) s))) ∧
  (∀ (s : State) i e j h s0, ListTries s i e (.waitev e) j h s0 →
    (e.w0.getLsbD 8 = true →
      exec j s = .next (if nth 0 (s0.interp i).slots (fld e.w0 48 4) = 0 then listNext s0 i else listHeld s0 i h)) ∧
    (e.w0.getLsbD 8 = false →
      (s0.entryLocked e.w1 = true → exec j s = .next (listHeld s0 i h)) ∧
      (∀ f, s0.entryLocked e.w1 = false → s0.listCheck i e.w1 Right.read true = .bad f → exec j s = .next (s0.listFault i e.w1 0 0 f)) ∧
      (∀ l, s0.entryLocked e.w1 = false → s0.listCheck i e.w1 Right.read true = .ok l →
        exec j s = .next (if e.w2.toNat ≤ (s.flag (Handle.key e.w1)).toNat then listNext s0 i else listHeld s0 i h)))) ∧
  (∀ (s : State) i e j h s0, ListTries s i e (.signal e) j h s0 →
    (s0.entryLocked e.w1 = true → exec j s = .next (listHeld s0 i h)) ∧
    (∀ f, s0.entryLocked e.w1 = false → s0.listCheck i e.w1 Right.publish true = .bad f → exec j s = .next (s0.listFault i e.w1 0 0 f)) ∧
    (∀ l, s0.entryLocked e.w1 = false → s0.listCheck i e.w1 Right.publish true = .ok l →
      ∃ t, exec j s = .next t ∧ t = listNext { s0 with flags := t.flags } i ∧
        ∀ q, t.flag q = if q = Handle.key e.w1 then e.w2 else s.flag q)) ∧
  (∀ (s : State) i e j h s0, ListTries s i e (.publish e) j h s0 →
    let key := Handle.key e.w1
    let off := e.w2.toNat
    ((s0.pcc - h.start) % 64 ≠ 0 ∨ s0.entryLocked e.w1 = true → exec j s = .next (listHeld s0 i h)) ∧
    ((s0.pcc - h.start) % 64 = 0 → s0.entryLocked e.w1 = false →
      (∀ f, s0.listCheck i e.w1 (Right.write + Right.publish) false = .bad f → exec j s = .next (s0.listFault i e.w1 0 0 f)) ∧
      (∀ l, s0.listCheck i e.w1 (Right.write + Right.publish) false = .ok l →
        (objBytes l < off + 8 → exec j s = .next (s0.listError i 5 FCode.bounds)) ∧
        (off + 8 ≤ objBytes l → s0.hkind key ≠ 0 ∨ s0.liven key = 4 ∨ s0.curv key = 2 ^ 32 - 1 ∨ (s0.ew key 0).getLsbD 49 = true →
          exec j s = .next (listHeld s0 i h)) ∧
        (∀ s1 p, off + 8 ≤ objBytes l → s0.hkind key = 0 → s0.liven key ≠ 4 → s0.curv key ≠ 2 ^ 32 - 1 →
          (s0.ew key 0).getLsbD 49 = false → (s0.openDraft key l).bind (fun s1 => s1.ownPage key l (off / 65536)) = some s1 →
          s1.pageKey key l .draft (off / 65536) = .ok p →
          (s1.pageLocked p = true → exec j s = .next (listHeld s0 i h)) ∧
          (s1.pageLocked p = false →
            exec j s = .next (listNext (((s1.writeNum (p + off % 65536) 8 e.w3.toNat).noteRemote [p + off % 65536]).publish key) i)))))) ∧
  (∀ (s : State) i e j h s0, ListTries s i e (.pass e) j h s0 →
    let g := fld e.w0 48 4
    (16 ≤ (s0.interp g).pass.length → exec j s = .next (listHeld s0 i h)) ∧
    ((s0.interp g).pass.length < 16 →
      exec j s = .next (listNext (s0.setInterp g { s0.interp g with pass := (s0.interp g).pass ++ [(e.w1, e.w2)] }) i))) ∧
  ∀ (s : State) i, s.unit = i →
    (∃ t, exec .clctlStart s = .next t ∧
      OnlyInterp s t i (if (s.interp i).st = 0 then { s.interp i with st := 1, stack := [], hold := none, busyTo := s.pcc } else s.interp i)) ∧
    (∃ t, exec .clctlClear s = .next t ∧
      OnlyInterp s t i
        (if (s.interp i).st = 2 then { s.interp i with st := 0, err := 0, errFault := 0, errIdx := 0, hold := none } else s.interp i)) ∧
    (∀ l n r, (s.interp i).st = 0 → (s.interp i).pass = (l, n) :: r →
      exec .passQueueTake s =
        .next (s.setInterp i { s.interp i with pass := r, clh := l, cli := n, st := 1, stack := [], hold := none, busyTo := s.pcc }))

/-- R135, R137: LAUNCH; R138, R139: PREEMPT and what follows it. With team id 0 the victim is, of the running teams and lone tasks of the die with NOPRE = 0,
the one with the latest earliest deadline, on a tie the one placed latest. Log entry 33: at the expiry of DRAIN the victim is its members that remain, with
those that have joined since. Log entry 47: LAUNCH holds while no CR slot is free. -/
def Obligations.LaunchCreatesItsTasksAndPreemptStopsTheVictim : Prop :=
  (∀ (s : State) i e j h s0, ListTries s i e (.launch e) j h s0 → h.entry = e ∧
    let k := s0.interp i
    (h.made = [] → (e.depen = true ∧ nth 0 k.slots e.dep ≠ 0) ∨ nth 0 k.slots e.ts ≠ 0 → exec j s = .next (listHeld s0 i h)) ∧
    (h.made = [] → h.img = [] → s0.entryLocked e.w1 = true → exec j s = .next (listHeld s0 i h)) ∧
    (h.made = [] → h.img = [] → s0.entryLocked e.w1 = false → ¬ ((e.depen = true ∧ nth 0 k.slots e.dep ≠ 0) ∨ nth 0 k.slots e.ts ≠ 0) →
      (∀ f sh, s0.listRead i e.w1 e.w2.toNat 64 = (.bad f, sh) → exec j s = .next (s0.listFault i e.w1 sh (s0.curv (Handle.key e.w1)) f)) ∧
      (∀ bs sh code, s0.listRead i e.w1 e.w2.toNat 64 = (.ok bs, sh) → s0.templateBad e (words64 8 bs) = some code →
        exec j s = .next (s0.listError i code 0))) ∧
    ∀ img, Template s0 i h img → img ≠ [] →
      let q := if e.lvl = 1 then 128 + e.die else 136
      let par := fld (nth 0#64 img 5) 32 32
      let idx := h.made.length
      (s0.askCrid = none → exec j s = .next (listHeld s0 i { h with img := img })) ∧
      (e.teamf = true → h.made = [] → s0.freeTeam e.die = none → exec j s = .next (listHeld s0 i { h with img := img })) ∧
      (e.teamf = false → fld (nth 0#64 img 5) 0 32 = 0 → s0.qRoom q = false →
        exec j s = .next (listHeld s0 i { h with img := img })) ∧
      ∀ n tid tm, s0.askCrid = some n → i < 9 → idx < e.count →
        (if e.teamf = true then
          (if h.made = [] then s0.freeTeam e.die = some tid ∧ tm = { id := tid, size := e.count, joined := e.count, byLaunch := true }
           else h.team = tid ∧ s0.team tid = some tm ∧ tm.id = tid)
         else tid = 0 ∧ (fld (nth 0#64 img 5) 0 32 ≠ 0 ∨ s0.qRoom q = true)) →
        ∃ t, exec j s = .next t ∧
          (∀ w ∈ [1, 3, 4], t.cr n w = nth 0#64 img w) ∧ t.cr n 7 = 0#64 ∧ t.crCode n = fld (nth 0#64 img 0) 32 32 ∧
          t.crEntry n = fld (nth 0#64 img 0) 16 16 ∧ t.crKind n = fld (nth 0#64 img 0) 14 2 ∧
          t.cr n 2 = (if e.rel = true then BitVec.ofNat 64 (h.start + e.w3.toNat) else e.w3) ∧
          t.crFld n 5 32 32 = par ∧ t.crJoin n = fld (nth 0#64 img 5) 0 32 ∧ t.crFld n 6 48 16 = tid % 2 ^ 16 ∧ t.crFld n 6 32 16 = idx ∧
          t.crFld n 6 28 4 = i ∧ t.crFld n 6 24 4 = e.ts ∧ t.crFld n 6 16 8 = (if e.teamf = true then idx else 0) ∧
          (h.made = [] → nth 0 (t.interp i).slots e.ts = e.count ∧ (par ≠ 0 → par ≠ n → t.crJoin par = (s0.crJoin par + e.count) % 2 ^ 32)) ∧
          (e.teamf = false → (t.crJoin n = 0 → t.crSt n = 2 ∧ Queued t q n) ∧ (t.crJoin n ≠ 0 → t.crSt n = 1 ∧ t.queues = s0.queues)) ∧
          (e.teamf = true → t.team tid = some { tm with members := tm.members ++ [{ crid := n, rank := idx }] }) ∧
          (idx + 1 < e.count → (t.interp i).cli = k.cli ∧ (t.interp i).hold = some { h with img := img, made := h.made ++ [n], team := tid }) ∧
          (e.count = idx + 1 → (t.interp i).cli = k.cli + 1#64 ∧ (t.interp i).hold = none ∧
            (e.teamf = true → (∀ c ∈ h.made ++ [n], t.crSt c = 2) ∧
              ∃ x, (x ∈ (t.queue (128 + e.die)).head ∨ x ∈ (t.queue (128 + e.die)).ring ∨ x ∈ (t.queue (128 + e.die)).spill) ∧
                x.gang = h.made ++ [n])) ∧
          (t.interp i).st = k.st ∧ (t.interp i).clh = k.clh ∧ (∀ m, m ≠ i → t.interp m = s0.interp m) ∧
          t.mem = s.mem ∧ t.cores = s.cores ∧ t.harts = s.harts ∧ t.yard = s.yard ∧ t.flags = s.flags ∧ t.regs = s.regs) ∧
  (∀ (s : State) i e j h s0, ListTries s i e (.preempt e) j h s0 →
    let id := fld e.w0 48 16
    let wait := e.w0.getLsbD 8
    (h.made = [] → s0.victim e = none → exec j s = .next (listNext s0 i)) ∧
    (id ≠ 0 → s0.team id = none → s0.victim e = none) ∧
    (∀ tm, id ≠ 0 → s0.team id = some tm →
      let cs := (tm.members.filter fun m => !m.left).map Member.crid
      s0.victim e = if s0.runs_ cs = true ∧ (s0.reg (0x100 + 8 * s0.gangClass cs)).getLsbD 1 = false then some cs else none) ∧
    (id = 0 →
      let may := fun (g : List Nat) => (∃ x ∈ s0.cores, x.1 / 256 = fld e.w0 45 3 ∧ x.2.crid ≠ 0 ∧ g = s0.gangOf x.2.crid) ∧
        s0.runs_ g = true ∧ (s0.reg (0x100 + 8 * s0.gangClass g)).getLsbD 1 = false
      (∀ cs, s0.victim e = some cs → may cs ∧ ∀ g, may g →
        s0.earliest g < s0.earliest cs ∨ (s0.earliest g = s0.earliest cs ∧ s0.placedAt g ≤ s0.placedAt cs)) ∧
      (s0.victim e = none → ∀ g, ¬ may g)) ∧
    (∀ cs, h.made = [] → s0.victim e = some cs →
      let sl := e.w1.toNat - s0.pcc - e.w2.toNat
      let rem := (s0.coresOf cs).foldl (fun m c => max m (s0.remaining c)) 0
      ∃ p : Preempt, p.num = s0.order ∧ p.crids = cs ∧ p.left = cs ∧ p.team = s0.teamOf (nth 0 cs 0) ∧ p.expiry = s0.pcc + sl ∧ p.die = nth 0 (s0.coresOf cs) 0 / 256 ∧
        p.method = (if fld (s0.reg (0x100 + 8 * s0.gangClass cs)) 16 16 * rem ≤ sl then 0 else if s0.mayDiscard cs = true then 1 else 2) ∧
        let s1 := State.stopMembers { s0 with preempts := s0.preempts ++ [p], order := s0.order + 1 } cs p.method
        (p.method = 0 → s1 = { s0 with preempts := s0.preempts ++ [p], order := s0.order + 1 }) ∧
        exec j s = .next (if wait then listHeld s1 i { h with made := cs, team := s0.order } else listNext s1 i)) ∧
    (h.made ≠ [] → ((∃ p ∈ s0.preempts, p.num = h.team) → exec j s = .next (listHeld s0 i h)) ∧
      ((∀ p ∈ s0.preempts, p.num ≠ h.team) → exec j s = .next (listNext s0 i)))) ∧
  (∀ (s : State) n p, s.agent = .unit n → s.preempts[n]? = some p →
    let cs := s.remainingMembers p
    (∀ n ∈ cs, s.coresOf [n] ≠ [] ∧ ∃ c ∈ s.coresOf p.left, n ∈ s.gangOf (s.core c).crid) ∧
    let m := if s.mayDiscard cs = true then 1 else 2
    (p.method = 0 → p.expiry ≤ s.pcc → cs ≠ [] →
      exec .preemptDrainExpiry s =
        .next (State.stopMembers { s with preempts := s.preempts.map fun (q : Preempt) =>
          if q.num = p.num then { q with method := m, crids := cs, left := cs, team := s.teamOf (nth 0 cs 0) } else q } cs m)) ∧
    (p.method ≠ 0 ∨ s.pcc < p.expiry ∨ cs = [] → exec .preemptDrainExpiry s = .next s) ∧
    (p.method = 1 → s.discardReady p = true →
      exec .discardStopped s = .next (s.discardAll p) ∧ ∀ q ∈ (s.discardAll p).preempts, q.num ≠ p.num) ∧
    (p.method ≠ 1 ∨ s.discardReady p = false → exec .discardStopped s = .next s)) ∧
  ∀ (s : State) i, s.preempts[s.unit]? = none → i = Instr.preemptDrainExpiry ∨ i = .discardStopped → exec i s = .next s

/-! ## The dispatcher -/

/-- R108, R110 to R115, R117, R122, R140, R456: the dispatcher.  The model's own choices, marked in words above, are those of log entries
33 (a queue without a ring; the CT record of every save), 43 (SV cleared at the restore; a pop in any clk; the cluster queue before a
reservation; the order of the package queue) and 47 (which entries prefetch considers). -/
def Obligations.QueuesPopsAndPlacements : Prop :=
  (∀ (s : State) q, s.agent = .unit q →
    (∃ t, exec .lateBandEntry s = .next t ∧ t = { s with queues := t.queues } ∧ (∀ p, p ≠ q → t.queue p = s.queue p) ∧
      t.queue q =
        { s.queue q with
          head := (s.queue q).head.map fun e =>
            if e.late = none ∧ e.deadline + (s.reg (0x1000 + 32 * q + 16)).toNat < s.pcc ∧ e.deadline ≠ 2 ^ 64 - 1 then { e with late := some s.pcc }
            else e }) ∧
    (∃ t, exec .queueRingRefill s = .next t ∧ t = { s with queues := t.queues } ∧ (∀ p, p ≠ q → t.queue p = s.queue p) ∧
      t.queue q =
        { s.queue q with
          head := (s.queue q).head ++ ((s.queue q).ring.take (256 - (s.queue q).head.length)).map (State.banded s.pcc (s.qGrace q))
          ring := (s.queue q).ring.drop (256 - (s.queue q).head.length) }) ∧
    ∃ t, exec .spillToRing s = .next t ∧ t = { s with queues := t.queues, dirty := t.dirty } ∧ (∀ p, p ≠ q → t.queue p = s.queue p) ∧
      (s.qCap q ≠ 0 → t.queue q =
        { s.queue q with
          ring := (s.queue q).ring ++ (s.queue q).spill.take (s.qCap q - (s.queue q).ring.length)
          put := (s.queue q).put + ((s.queue q).spill.take (s.qCap q - (s.queue q).ring.length)).length
          spill := (s.queue q).spill.drop (s.qCap q - (s.queue q).ring.length) }) ∧
      (s.qCap q = 0 → (s.queue q).ring = [] → t.queue q =
        { s.queue q with
          head := (s.queue q).head ++ ((s.queue q).spill.take (256 - (s.queue q).head.length)).map (State.banded s.pcc (s.qGrace q))
          spill := (s.queue q).spill.drop (256 - (s.queue q).head.length) })) ∧
  (∀ (s : State) c, s.agent = .unit c → c < 2048 →
    ((s.core c).phase ≠ .idle ∨ (s.cluster (c / 16)).degr = true → exec .corePop s = .next s) ∧
    ((s.core c).phase = .idle → (s.cluster (c / 16)).degr = false →
      (s.popFrom c (c / 16) = none → s.popFrom c (128 + c / 256) = none → exec .corePop s = .next s) ∧
      ∀ q e, s.popFrom c q = some e → q = c / 16 ∨ (q = 128 + c / 256 ∧ s.popFrom c (c / 16) = none) →
        (e ∈ (s.queue q).head ∧ s.eligible (c / 256) e = true ∧
          (e.late = none → (s.qPop q = 7 → ∀ f ∈ (s.queue q).head, f.late ≠ none → s.eligible (c / 256) f = false) ∧
            ∀ f ∈ (s.queue q).head, f.late = none → s.eligible (c / 256) f = true →
              e.deadline < f.deadline ∨ (e.deadline = f.deadline ∧ e.seq ≤ f.seq)) ∧
          (∀ n, e.late = some n →
            (s.qPop q = 7 ∨ ∀ f ∈ (s.queue q).head, f.late = none → s.eligible (c / 256) f = false) ∧
            ∀ f m, f ∈ (s.queue q).head → f.late = some m → s.eligible (c / 256) f = true → n < m ∨ (n = m ∧ e.seq ≤ f.seq))) ∧
        (e.gang = [] →
          ∃ t, exec .corePop s = .next t ∧ (t.core c).crid = e.crid ∧ (t.core c).popQ = q ∧ (t.core c).placed = s.pcc ∧
            (∃ a b, (t.core c).phase = .starting a b ∧ s.pcc + (if q < 128 then 32 else 64) ≤ b ∧
              (s.crSv e.crid = false → a = s.pcc ∧ b = s.pcc + (if q < 128 then 32 else 64))) ∧
            (s.crSv e.crid = false → (t.core c).j = s.crFld e.crid 5 32 32) ∧ t.crSt e.crid = 3 ∧ (∀ d, d ≠ c → t.core d = s.core d) ∧
            t.queue q = { s.queue q with head := (s.queue q).head.filter fun f => f.seq != e.seq } ∧
            (∀ p, p ≠ q → t.queue p = s.queue p) ∧ t.reg (0x1000 + 32 * q + 24) = BitVec.ofNat 64 ((s.qPop q + 1) % 8) ∧
            (s.cr e.crid 1 ≠ 0#64 → t.mem = s.mem ∧ t.cr e.crid 1 = s.cr e.crid 1) ∧ t.crCode e.crid = s.crCode e.crid) ∧
        (∀ g, e.gang.head? = some g →
          let s1 := s.setCore c { s.core c with phase := .reserved g }
          let cs := s1.reservedFor (c / 256) g
          (cs.length < e.gang.length → exec .corePop s = .next s1) ∧
          (e.gang.length ≤ cs.length →
            ∃ t, exec .corePop s = .next t ∧ (∀ m ∈ e.gang, t.crSt m = 3) ∧
              ∀ d ∈ cs.take e.gang.length, (t.core d).placed = s.pcc ∧ (t.core d).popQ = q ∧ ∃ a b, (t.core d).phase = .starting a b)))) ∧
  (∀ (s : State) c a first, s.agent = .unit c → (s.core c).phase = .starting a first →
    let n := (s.core c).crid
    (s.pcc < first → exec .taskStart s = .next s ∧ exec .restoreComplete s = .next s) ∧
    (∀ o, first ≤ s.pcc → s.crSv n = false → s.codeOf (s.crCode n) = some o →
      exec .restoreComplete s = .next s ∧
      ∃ t, exec .taskStart s = .next t ∧ t = { s with cores := t.cores, saved := t.saved, fresh := t.fresh } ∧ (∀ d, d ≠ c → t.core d = s.core d) ∧
        ∃ ft, ft % 65536 = 0 ∧ ft ≤ 0x400000000000 ∧
        (∀ r, (t.core c).getX r = if r = 2#5 then BitVec.ofNat 64 ft else if r = 10#5 then s.cr n 3 else if r = 11#5 then s.cr n 4 else 0#64) ∧
        (t.core c).ct.pc = BitVec.ofNat 64 (o.base + nth 0 o.entries (s.crEntry n)) ∧ (t.core c).ct.stvec = s.svcVec ∧
        (t.core c).ct.sup = false ∧ (t.core c).ct.instret = 0#64 ∧ (t.core c).forkOut = false ∧ (t.core c).crid = n ∧
        (t.core c).j = (s.core c).j ∧ (t.core c).phase = .running ∧ (t.core c).gNow = List.replicate 16 0#2 ∧
        (∀ v ∈ (t.core c).views, v.w = false ∨ v.x = false) ∧
        (∃ v ∈ (t.core c).views, v.base = o.base ∧ v.size = o.isize ∧ v.r = true ∧ v.x = true ∧ v.back = .phys o.pa) ∧
        ∃ v ∈ (t.core c).views, v.size = roundUp o.frame 65536 ∧
          (v.size ≤ ft → v.base + v.size = ft) ∧
          v.r = true ∧ v.w = true ∧ v.back = .live (Handle.key (s.cr n 1)) (s.cr n 1)) ∧
    (first ≤ s.pcc → s.crSv n = true → s.frameReady c = false → exec .taskStart s = .next s ∧ exec .restoreComplete s = .next s) ∧
    (first ≤ s.pcc → s.crSv n = true → s.frameReady c = true →
      exec .taskStart s = .next s ∧
      ∃ t, exec .restoreComplete s = .next t ∧ t.crSv n = false ∧ t.mem = s.mem ∧ (∀ d, d ≠ c → t.core d = s.core d) ∧
        let was := s.readSave n (s.liveOf c) (Tbl.get {} s.saved n)
        t.core c =
          { was with
            crid := n, popQ := (s.core c).popQ, placed := (s.core c).placed, phase := .running, frameSup := (s.core c).frameSup
            ct := { was.ct with stvec := s.svcVec } })) ∧
  (∀ (s : State) c w, s.agent = .unit c → (s.core c).phase = .saving w →
    let n := (s.core c).crid
    (s.pcc < w ∨ s.frameReady c = false → exec .saveWritten s = .next s) ∧
    (w ≤ s.pcc → s.frameReady c = true →
      ∃ t, exec .saveWritten s = .next t ∧ t.core c = { placed := (s.core c).placed } ∧ (∀ d, d ≠ c → t.core d = s.core d) ∧
        t.crSt n = 2 ∧ t.crSv n = true ∧ t.cr n 7 = s.progress c ∧
        (let k := Tbl.get {} t.saved n
         k.ct.x = (s.core c).ct.x ∧ k.ct.pc = (s.core c).ct.pc ∧ k.ct.wait = none ∧ k.ct.fault.v = false ∧ k.ct.fault.code = 0x18#8 ∧
           k.ct.fault.detail = 1#16 ∧ k.j = (s.core c).j ∧ k.views = (s.core c).views ∧ k.sd = (s.core c).sd ∧ k.p = (s.core c).p) ∧
        (s.team (s.teamOf n) = none → Queued t (128 + c / 256) n))) ∧
  (∀ (s : State) c, s.agent = .unit c → (∀ a b, (s.core c).phase ≠ .starting a b) →
    exec .taskStart s = .next s ∧ exec .restoreComplete s = .next s) ∧
  (∀ (s : State), s.moveNext = none → exec .packageQueueMove s = .next s) ∧
  (∀ (s : State) q e, s.moveNext = some (q, e) → s.moveDie e ≠ none ∧ e ∈ (s.queue q).head ∧
    (q = 136 ∨ (popChoice (s.queue 136) (s.qPop 136) (s.movable 136) = none ∧ e.gang = [] ∧ ∃ b < 8, q = 128 + b ∧ s.healthy b = 0)) ∧
    let fits := fun (y : Nat) => y < 8 ∧ kindFits y e.kind = true ∧ s.healthy y ≠ 0 ∧ s.qRoom (128 + y) = true
    ∃ d t x, fits d ∧ (∀ y, fits y → s.qCount (128 + d) ≤ s.qCount (128 + y)) ∧ q ≠ 128 + d ∧
      exec .packageQueueMove s = .next t ∧ (t.queue q).head = (s.queue q).head.filter (fun f => f.seq != e.seq) ∧
      (x ∈ (t.queue (128 + d)).head ∨ x ∈ (t.queue (128 + d)).ring ∨ x ∈ (t.queue (128 + d)).spill) ∧
      x.crid = e.crid ∧ x.deadline = e.deadline ∧ x.kind = e.kind ∧ x.cls = e.cls ∧ x.gang = e.gang ∧
      t.reg (0x1000 + 32 * q + 24) = BitVec.ofNat 64 ((s.qPop q + 1) % 8) ∧ (∀ p, p ≠ q → p ≠ 128 + d → t.queue p = s.queue p) ∧
      t.crs = s.crs) ∧
  (∀ (s : State) cl, s.agent = .unit cl →
    ((s.cluster cl).degr = false → exec .degradedQueueMove s = .next s) ∧
    ((s.cluster cl).degr = true → cl < 128 →
      let k := s.queue cl
      let mark := (s.cluster cl).degrSeq
      (s.qCount cl = 0 → exec .degradedQueueMove s = .next s) ∧
      (0 < s.qCount cl →
        ∃ t e x, exec .degradedQueueMove s = .next t ∧ (e ∈ k.head ∨ e ∈ k.ring ∨ e ∈ k.spill) ∧
          (∀ f, f ∈ k.head ∨ f ∈ k.ring ∨ f ∈ k.spill → f.seq < mark → e.seq < mark) ∧
          (e ∉ k.head → ∀ f ∈ k.head, e.seq < mark ∧ mark ≤ f.seq) ∧ t.queue cl = State.dropEntry k e ∧
          (x ∈ (t.queue (128 + cl / 16)).head ∨ x ∈ (t.queue (128 + cl / 16)).ring ∨ x ∈ (t.queue (128 + cl / 16)).spill) ∧
          x.crid = e.crid ∧ x.deadline = e.deadline ∧ x.kind = e.kind ∧ x.gang = e.gang ∧
          t = { s with queues := t.queues, dirty := t.dirty }))) ∧
  (∀ (s : State) c w, s.agent = .unit c → (s.core c).ct.wait = some w →
    let ends := w.kind ∈ [WaitKind.osub, .flacq, .tbar, .oclaim, .kvtake] ∨ (w.kind = .clwait ∧ (s.core c).forkOut = false)
    let under := ∃ p ∈ s.preempts, ∃ m ∈ p.left, m ∈ s.gangOf (s.core c).crid
    (¬ ((s.core c).phase = .running ∧ ends ∧ w.since + 4096 < s.pcc) ∨ under → exec .waitYieldTimeout s = .next s) ∧
    ((s.core c).phase = .running → ends → w.since + 4096 < s.pcc → ¬ under →
      ∃ t, exec .waitYieldTimeout s = .next t ∧
        ∀ e, (s.core e).crid ≠ 0 → (s.core e).crid ∈ s.gangOf (s.core c).crid → (s.core e).phase = .running → (s.core e).failed = none →
          (t.core e).phase = .stopping false ∧ t.crSt (s.core e).crid = 4)) ∧
  (∀ (s : State) q, s.agent = .unit q →
    ∃ t w b n, exec .nextKernelPrefetch s = .next t ∧
      t = s.setCluster q { s.cluster q with ways := w, wayBad := b, fetchErrs := (s.cluster q).fetchErrs + n } ∧
      w.map (fun x => x.1) = s.nextKernels q) ∧
  ∀ (s : State) c, s.agent = .unit c →
    let due := (s.core c).phase = .running ∧ (s.core c).ct.sup = false ∧ (s.core c).dlArmed = true ∧ (s.core c).failed = none ∧
      (s.reg (0x100 + 8 * s.crClass (s.core c).crid)).getLsbD 0 = true ∧
      (s.cr (s.core c).crid 2).toNat + (s.reg (0x1000 + 32 * (s.core c).popQ + 16)).toNat < s.pcc
    (¬ due → exec .deadlineTrap s = .next s) ∧
    (due → ∃ t, exec .deadlineTrap s = .next t ∧ EnteredService s t c 25#64 0#64 ∧ (t.core c).dlArmed = false ∧
      (t.core c).ct.fault =
        if (s.core c).ct.fault.v then { (s.core c).ct.fault with more := true }
        else { v := true, code := 0x17#8, detail := 0#16, elem := 0xFFFFFFFF#32 })

/-! ## Device registers, physical accesses, interrupts -/

/-- R412 to R414, R426, R432, R448, R455, R460, R461, R149: the window of registers and what stands beside it. -/
def Obligations.DeviceRegistersAccessesAndInterrupts : Prop :=
  (∀ (s : State) v,
    (∀ off n, ((off, n) ∈ ([(0x18, 64), (0x7000, 32), (0x7008, 32), (0x7100, 64), (0x7108, 64)] : List (Nat × Nat)) ∨
        (∃ q j, q < 137 ∧ (j, n) ∈ ([(0, 64), (8, 32), (16, 32), (24, 3)] : List (Nat × Nat)) ∧ off = 0x1000 + 32 * q + j) ∨
        (∃ h b, h < 64 ∧ (b, n) ∈ ([(0xE000, 64), (0xE200, 1), (0xE400, 3)] : List (Nat × Nat)) ∧ off = b + 8 * h)) →
      ∃ t, exec (.registerWrite off v) s = .next t ∧ t = { s with regs := t.regs } ∧ t.regRead off = BitVec.ofNat 64 (v.toNat % 2 ^ n) ∧
        ∀ o, o ≠ off → t.reg o = s.reg o) ∧
    (∀ k, k < 16 →
      ∃ t, exec (.registerWrite (0x100 + 8 * k) v) s = .next t ∧ t = { s with regs := t.regs } ∧ t.regRead (0x100 + 8 * k) = v &&& 0xFFFF0003#64 ∧
        ∀ o, o ≠ 0x100 + 8 * k → t.reg o = s.reg o) ∧
    (∀ k, k < 12 →
      ∃ s1 t, (s1 = s ∨ s1 = s.tablesToMem) ∧ exec (.registerWrite (0x4000 + 64 * k) v) s = .next t ∧
        t = { s1 with regs := t.regs, mem := t.mem, poison := t.poison, l2Poison := t.l2Poison, yard := t.yard, crs := t.crs } ∧
        t.regRead (0x4000 + 64 * k) = BitVec.ofNat 64 (v.toNat % 64) ∧ (∀ o, o ≠ 0x4000 + 64 * k → t.reg o = s1.reg o) ∧
        (s.MemOk → ∀ a, (a / 2 ^ 36 ≠ k ∨ 0x0C000000000 ≤ a) → t.byte a = s1.byte a)) ∧
    (∀ off, off ∈ [0, 0x28, 0x180, 0x3018, 0x4001, 0x5018, 0x5058, 0x6010, 0x8010, 0x8018, 0xA010, 0xA020, 0xB000, 0xB1F8, 0xC000, 0xC008, 0xD018, 0xD020,
        0xE600, 0x24000] → exec (.registerWrite off v) s = .next s)) ∧
  (∀ (s : State) b hd v i, (∃ d, s.agent = .unit d ∧ b = 0xD000 + 64 * d ∧ hd = 0x100010 + d ∧ d < 8 ∧ i = Instr.fppushWrite v) ∨
      (∃ d, s.agent = .unit d ∧ b = 0x5000 + 64 * d ∧ hd = 0x100000 + d ∧ d < 2 ∧ i = Instr.fpushWrite v ∧ v.toNat % 65536 = 0 ∧ State.frameTier s.pkg v.toNat = some d) →
    let size := (s.reg (b + 8)).toNat
    let cnt := (s.reg (b + 24)).toNat
    (size ≤ cnt → ∃ t, exec i s = .next t ∧ t = { s with regs := t.regs } ∧ t.reg (b + 32) = s.reg (b + 32) + 1#64 ∧
      ∀ o, o ≠ b + 32 → t.reg o = s.reg o) ∧
    (cnt < size → s.MemOk →
      let key := paKeyAt s s.pkg ((s.reg b).toNat + 8 * (((s.reg hd).toNat + cnt) % size))
      ∃ t, exec i s = .next t ∧ t.num key 8 = v.toNat ∧ (∀ a, a < key ∨ key + 8 ≤ a → t.byte a = s.byte a) ∧
        t = { s with regs := t.regs, mem := t.mem, poison := t.poison, l2Poison := t.l2Poison, noise := t.noise } ∧
        t.reg (b + 24) = s.reg (b + 24) + 1#64 ∧ ∀ o, o ≠ b + 24 → t.reg o = s.reg o)) ∧
  (∀ (s : State) d v, s.agent = .unit d → v.toNat % 65536 ≠ 0 ∨ State.frameTier s.pkg v.toNat ≠ some d →
    ∃ t, exec (.fpushWrite v) s = .next t ∧ t = { s with regs := t.regs } ∧ t.reg (0x5000 + 64 * d + 32) = s.reg (0x5000 + 64 * d + 32) + 1#64 ∧
      ∀ o, o ≠ 0x5000 + 64 * d + 32 → t.reg o = s.reg o) ∧
  (∀ (s : State) v, ∃ t, exec (.mrdoneWrite v) s = .next t ∧ t = { s with merges := t.merges } ∧
    (∀ k, k ≠ v.toNat → Tbl.find t.merges k = Tbl.find s.merges k) ∧ (Tbl.sorted s.merges = true → Tbl.find t.merges v.toNat = none)) ∧
  (∀ (s : State) v,
    (¬ (2 ≤ v.toNat ∧ v.toNat ≤ 7) → ∃ t, exec (.measurementExtend v) s = .next t ∧ t = { s with regs := t.regs } ∧ ∀ k < 8, t.slotBytes k = s.slotBytes k) ∧
    (2 ≤ v.toNat → v.toNat ≤ 7 →
      ∃ t, exec (.measurementExtend v) s = .next t ∧ t = { s with regs := t.regs } ∧
        t.slotBytes v.toNat =
          Keccak.shake256 (s.slotBytes v.toNat ++ (tab 8 fun w => leBytes 8 (s.reg (0xB200 + 8 * w)).toNat).flatten) 64 ∧
        ∀ k, k < 8 → k ≠ v.toNat → t.slotBytes k = s.slotBytes k)) ∧
  (∀ (s : State) c v, s.agent = .unit c →
    ∃ t, exec (.clstatWrite v) s = .next t ∧ t = { s with clusters := t.clusters } ∧ (∀ d, d ≠ c → t.cluster d = s.cluster d) ∧
      t.cluster c =
        { s.cluster c with
          degr := if v.getLsbD 16 then true else if 16 ≤ (s.cluster c).margin.toNat then false else (s.cluster c).degr
          degrSeq := if v.getLsbD 16 ∧ (s.cluster c).degr = false then (s.queue c).seq else (s.cluster c).degrSeq
          target := if 40 ≤ fld v 24 8 ∧ fld v 24 8 ≤ 140 then fld v 24 8 else (s.cluster c).target }) ∧
  (∀ (s : State) h n pa v rd, s.agent = .unit h →
    let a := pa.toNat
    (s.hartPlace a n = none →
      exec (.paAccess false n pa v rd) s = .next (s.hartTrap h 5 pa 0#64) ∧ exec (.paAccess true n pa v rd) s = .next (s.hartTrap h 7 pa 0#64)) ∧
    ∀ r, s.hartPlace a n = some r →
      (∀ off, r.kind = .regs off → r.pkg = none →
        (∃ t, exec (.paAccess false n pa v rd) s = .next t ∧ t = { s with harts := t.harts } ∧ (∀ g, g ≠ h → t.hart g = s.hart g) ∧
          ∀ x, (t.hart h).getX x = if x = rd ∧ rd ≠ 0#5 then s.regRead off else (s.hart h).getX x) ∧
        (s.pageLocked r.key = false → exec (.paAccess true n pa v rd) s = .next (s.regWrite off v))) ∧
      (∀ off p, r.kind = .regs off → r.pkg = some p →
        (∃ t, exec (.paAccess false n pa v rd) s = .next t ∧ t = { s with harts := t.harts } ∧ (∀ g, g ≠ h → t.hart g = s.hart g) ∧
          ∀ x, (t.hart h).getX x = if x = rd ∧ rd ≠ 0#5 then s.peerRead p off else (s.hart h).getX x) ∧
        (s.pageLocked r.key = false → exec (.paAccess true n pa v rd) s = .next (s.peerWrite p off v))) ∧
      ((∀ off, r.kind ≠ .regs off) →
        (s.poisoned r.key n = false →
          ∃ t, exec (.paAccess false n pa v rd) s = .next t ∧ t = { s with harts := t.harts, regs := t.regs, fresh := t.fresh, dirtyGran := t.dirtyGran } ∧
            (∀ g, g ≠ h → t.hart g = s.hart g) ∧
            ∀ x, (t.hart h).getX x = if x = rd ∧ rd ≠ 0#5 then BitVec.ofNat 64 (s.num r.key n) else (s.hart h).getX x) ∧
        (s.poisoned r.key n = true →
          ∃ t, exec (.paAccess false n pa v rd) s = .next t ∧ (t.hart h).ydet = 9#64 ∧ (t.hart h).x = (s.hart h).x) ∧
        (s.pageLocked r.key = true → exec (.paAccess true n pa v rd) s = .next s) ∧
        (s.pageLocked r.key = false → s.MemOk →
          ∃ t, exec (.paAccess true n pa v rd) s = .next t ∧
            t = { s with mem := t.mem, poison := t.poison, l2Poison := t.l2Poison, regs := t.regs, fresh := t.fresh, resvs := t.resvs
                         dirty := t.dirty, dirtyGran := t.dirtyGran } ∧
            (∀ i, i < n → t.byte (r.key + i) = BitVec.ofNat 8 (v.toNat / 2 ^ (8 * i))) ∧
            ∀ a, (∀ i, i < n → a ≠ r.key + i) → t.byte a = s.byte a))) ∧
  (∀ (s : State) h i n sv, s.agent = .unit h → (i, n, sv) ∈ [(Instr.timerInterrupt, 7, 5), (.softwareInterrupt, 3, 1), (.externalInterrupt, 11, 9)] →
    (s.takes h n = false → s.takes h sv = false → exec i s = .next s) ∧
    (∀ m, (m = n ∧ s.takes h n = true ∧ (s.toM h n = true ∨ s.takes h sv = false)) ∨ (m = sv ∧ s.takes h sv = true ∧ s.takes h n = false) →
      ∃ t, exec i s = .next t ∧ t = { s with harts := t.harts } ∧ (∀ g, g ≠ h → t.hart g = s.hart g) ∧ (t.hart h).x = (s.hart h).x ∧
        (t.hart h).ydet = (s.hart h).ydet ∧
        (((s.hart h).csrOf 0x303).getLsbD m = false →
          (t.hart h).mode = 3 ∧ (t.hart h).csrOf 0x341 = (s.hart h).pc ∧ (t.hart h).csrOf 0x342 = BitVec.ofNat 64 (2 ^ 63 + m) ∧
          (t.hart h).pc = ((s.hart h).csrOf 0x305 &&& ~~~3#64) + (if ((s.hart h).csrOf 0x305).getLsbD 0 then BitVec.ofNat 64 (4 * m) else 0#64))) ∧
    (((s.hart h).csrOf 0x303).getLsbD n = false → ((s.hart h).csrOf 0x304).getLsbD n = true → (s.hart h).held = false →
      ((s.hart h).mode ≠ 3 ∨ ((s.hart h).csrOf 0x300).getLsbD 3 = true) →
      s.takes h n = (if n = 7 then decide ((s.reg (0xE000 + 8 * h)).toNat ≤ s.pcc % 2 ^ 64)
        else if n = 3 then (s.reg (0xE200 + 8 * h)).getLsbD 0
        else s.meip h))) ∧
  ∀ (s : State) cl home loc, s.agent = .unit cl → cl < 128 →
    let key := home * 2 ^ 29 + loc
    ((Tbl.find s.ylocks key).isSome = true ∨ s.liveRoute home = false ∨ (s.yw key 0).getLsbD 46 = false →
      exec (.resolverWalk home loc) s = .next s) ∧
    (Tbl.find s.ylocks key = none → s.liveRoute home = true → (s.yw key 0).getLsbD 46 = true →
      let line := 128 * key + cl
      let set_ := fun (k : Nat) => (k % 2 ^ 9) ^^^ (k / 2 ^ 29 % 2 ^ 9)
      let rival := fun (k : Nat) => k % 128 == cl && set_ (k / 128) == set_ key && k != line
      let rivals := (s.hcache.filter fun e => rival e.1).length
      ∃ t, exec (.resolverWalk home loc) s = .next t ∧ t = { s with hcache := t.hcache, hused := s.hused.filter (· != line) ++ [line] } ∧
        Tbl.find t.hcache line = some (s.entry key) ∧ (∀ k, rival k = false → k ≠ line → Tbl.find t.hcache k = Tbl.find s.hcache k) ∧
        (rivals < 8 → ∀ k, k ≠ line → Tbl.find t.hcache k = Tbl.find s.hcache k) ∧
        (8 ≤ rivals → Tbl.sorted s.hcache = true →
          ∃ v, rival v = true ∧ (Tbl.find s.hcache v).isSome = true ∧ Tbl.find t.hcache v = none ∧
            (∀ k, k ≠ line → k ≠ v → Tbl.find t.hcache k = Tbl.find s.hcache k) ∧
            ∀ a u b, s.hused = a ++ u :: b → rival u = true → (Tbl.find s.hcache u).isSome = true →
              (∀ x ∈ a, ¬(rival x = true ∧ (Tbl.find s.hcache x).isSome = true)) → v = u))

/-! ## Links -/

/-- R394 to R399: the links. -/
def Obligations.FlitsPortsAndMessages : Prop :=
  (∀ seq ack typ vc pay, seq < 4096 → ack < 4096 → typ ≤ 4 → vc ≤ 3 → pay.length = 56 →
    let f := Flit.build seq ack typ vc pay
    Flit.good f = true ∧ Flit.seq f = seq ∧ Flit.ack f = ack ∧ Flit.typ f = typ ∧ Flit.vc f = vc ∧ Flit.pay f = pay) ∧
  (∀ (k : Port) pcc vc m,
    (k.waitq = [] → k.resend = [] → k.unacked.length < 2047 → nth false k.xoffTx vc = false →
      let f := Flit.build ((k.seqTx + 1) % 4096) k.seqRx 1 vc m
      k.send pcc vc m = { k with
        seqTx := (k.seqTx + 1) % 4096
        unacked := k.unacked ++ [f]
        out := k.out ++ [f]
        lastAck := if k.unacked = [] then pcc else k.lastAck }) ∧
    (k.waitq = [] → k.resend = [] → 2047 ≤ k.unacked.length ∨ nth false k.xoffTx vc = true → k.send pcc vc m = { k with waitq := [(vc, m)] }) ∧
    ∀ g r, k.resend = g :: r → nth false k.xoffTx (Flit.vc g) = true → k.send pcc vc m = { k with waitq := k.waitq ++ [(vc, m)] }) ∧
  (∀ (k : Port) pcc ack,
    ((∀ f ∈ k.unacked.head?, 2048 ≤ (ack + 4096 - Flit.seq f) % 4096) → k.takeAck pcc ack = k) ∧
    (∀ a b, k.waitq = [] → k.resend = [] → k.unacked = a ++ b → a ≠ [] → (∀ f ∈ a, (ack + 4096 - Flit.seq f) % 4096 < 2048) →
      (∀ f ∈ b.head?, 2048 ≤ (ack + 4096 - Flit.seq f) % 4096) →
      k.takeAck pcc ack = { k with unacked := b, lastAck := pcc, replays := 0 })) ∧
  (∀ (s : State) p f, s.agent = .unit p →
    let k := s.port p
    let again := fun (k : Port) (g : List Byte) => Flit.build (Flit.seq g) k.seqRx 1 (Flit.vc g) (Flit.pay g)
    (k.st ≠ 2 → ∀ i ∈ [Instr.flitData f, .flitNak f, .flitXoff f, .flitXon f, .flitIdle f], exec i s = .next s) ∧
    (k.st = 2 → Flit.good f = false → ∀ i ∈ [Instr.flitData f, .flitNak f, .flitXoff f, .flitXon f, .flitIdle f],
      exec i s = .next (s.setPort p
        (if k.naked then k else { k with naked := true, out := k.out ++ [Flit.build k.seqTx k.seqRx 2 0 []] }))) ∧
    (k.st = 2 → Flit.good f = true →
      let k1 := ({ k with lastGood := s.pcc } : Port).takeAck s.pcc (Flit.ack f)
      exec (.flitIdle f) s = .next (s.setPort p k1) ∧
      (Flit.typ f = 1 → Flit.seq f ≠ (k1.seqRx + 1) % 4096 →
        exec (.flitData f) s = .next (s.setPort p
          (if k1.naked then k1 else { k1 with naked := true, out := k1.out ++ [Flit.build k1.seqTx k1.seqRx 2 0 []] }))) ∧
      (Flit.typ f = 1 → Flit.seq f = (k1.seqRx + 1) % 4096 →
        (Msg.kind (Flit.pay f) = 0 ∨ 7 < Msg.kind (Flit.pay f) →
          ∃ t, exec (.flitData f) s = .next t ∧ t = { s with ports := t.ports, regs := t.regs } ∧
            t.port p = { k1 with seqRx := Flit.seq f, naked := false } ∧
            t.reg (0x7100 + 8 * (p / 16)) = s.reg (0x7100 + 8 * (p / 16)) + 1#64) ∧
        (∀ i, State.msgEvent (Flit.pay f) = some i →
          ∃ t, exec (.flitData f) s = .next t ∧ t = { s with ports := t.ports, agenda := s.agenda ++ [(p, i)] } ∧
            (t.port p).seqRx = Flit.seq f ∧ (t.port p).naked = false ∧ (t.port p).rx = k1.rx ++ [(Flit.vc f, Flit.pay f)] ∧
            (∀ q, q ≠ p → t.port q = s.port q) ∧
            if (t.port p).rxCount (Flit.vc f) = 768 then nth false (t.port p).xoffRx (Flit.vc f) = true ∧
                (t.port p).out = k1.out ++ [Flit.build k1.seqTx (Flit.seq f) 3 (Flit.vc f) []]
            else (t.port p).out = k1.out)) ∧
      (Flit.typ f = 2 →
        (k1.unacked = [] → exec (.flitNak f) s = .next (s.setPort p k1)) ∧
        (k1.unacked ≠ [] → 8 ≤ k1.replays → exec (.flitNak f) s = .next ((s.setPort p k1).killPort p)) ∧
        (k1.unacked ≠ [] → k1.replays < 8 → k1.waitq = [] → (∀ g ∈ k1.unacked, nth false k1.xoffTx (Flit.vc g) = false) →
          exec (.flitNak f) s =
            .next (s.setPort p { k1 with resend := [], out := k1.out ++ k1.unacked.map (again k1), replays := k1.replays + 1, lastAck := s.pcc })) ∧
        (∀ a g b, k1.unacked = a ++ g :: b → k1.replays < 8 → (∀ h ∈ a, nth false k1.xoffTx (Flit.vc h) = false) →
          nth false k1.xoffTx (Flit.vc g) = true →
          exec (.flitNak f) s =
            .next (s.setPort p { k1 with resend := g :: b, out := k1.out ++ a.map (again k1), replays := k1.replays + 1, lastAck := s.pcc }))) ∧
      (Flit.typ f = 3 → ∃ t, exec (.flitXoff f) s = .next t ∧ t = { s with ports := t.ports } ∧ (∀ q, q ≠ p → t.port q = s.port q) ∧
        ∃ l, t.port p = { k1 with xoffTx := l } ∧ ∀ v, nth false l v = if v = Flit.vc f then true else nth false k1.xoffTx v) ∧
      (Flit.typ f = 4 → ∃ t, exec (.flitXon f) s = .next t ∧ t = { s with ports := t.ports } ∧ (∀ q, q ≠ p → t.port q = s.port q) ∧
        (∀ v, nth false (t.port p).xoffTx v = if v = Flit.vc f then false else nth false k1.xoffTx v) ∧
        (k1.waitq = [] → k1.resend = [] → (t.port p).out = k1.out) ∧
        (∀ g r, k1.resend = g :: r → Flit.vc g = Flit.vc f → ∃ o, (t.port p).out = k1.out ++ again k1 g :: o) ∧
        ∀ m r, k1.resend = [] → k1.waitq = (Flit.vc f, m) :: r → k1.unacked.length < 2047 →
          ∃ o, (t.port p).out = k1.out ++ Flit.build ((k1.seqTx + 1) % 4096) k1.seqRx 1 (Flit.vc f) m :: o))) ∧
  (∀ (s : State) p, s.agent = .unit p →
    let k := s.port p
    let again := fun (k : Port) (g : List Byte) => Flit.build (Flit.seq g) k.seqRx 1 (Flit.vc g) (Flit.pay g)
    let late := k.st = 2 ∧ k.unacked ≠ [] ∧ k.lastAck + 4096 ≤ s.pcc
    let dead := k.st = 2 ∧ k.lastGood + 2 ^ 20 ≤ s.pcc
    (late → k.replays < 8 → k.waitq = [] → (∀ g ∈ k.unacked, nth false k.xoffTx (Flit.vc g) = false) → exec .replayTimeout s =
      .next (s.setPort p { k with resend := [], out := k.out ++ k.unacked.map (again k), replays := k.replays + 1, lastAck := s.pcc })) ∧
    (late → k.replays < 8 → ∃ o l, exec .replayTimeout s = .next (s.setPort p o) ∧ o.st = 2 ∧ o.replays = k.replays + 1 ∧ o.out = k.out ++ l) ∧
    (late → 8 ≤ k.replays → exec .replayTimeout s = .next (s.killPort p)) ∧
    (¬ late → exec .replayTimeout s = .next s) ∧ (¬ dead → exec .portDead s = .next s) ∧
    (∀ i, (i = Instr.portDead ∧ dead) ∨ (i = .portctlHold ∧ k.st = 2) →
      ∃ t, exec i s = .next t ∧ t.port p = { k with st := if i = .portDead then 3 else 0, unacked := [], resend := [], waitq := [] } ∧
        (∀ m ∈ k.unacked.map Flit.pay ++ k.waitq.map (·.2), Msg.kind m = 3 → Msg.src m = s.pkg →
          t.poisoned (paKeyAt s (Msg.dst m) (Msg.second m / 32 * 32)) 32 = true) ∧
        (i = .portctlHold → t.mem = s.mem ∧ t.regs = s.regs) ∧ t.cores = s.cores ∧ t.harts = s.harts ∧ t.yard = s.yard) ∧
    (k.st ≠ 2 → exec .portctlHold s = .next s) ∧
    (k.st = 0 ∨ k.st = 3 → exec .portctlRetrain s = .next (s.setPort p { k with st := 1, first := false })) ∧
    (k.st ≠ 0 → k.st ≠ 3 → exec .portctlRetrain s = .next s) ∧
    (∀ far, k.st ≠ 1 → ∀ ok, exec (.portTrainEnd ok far) s = .next s) ∧
    (∀ far, k.st = 1 →
      exec (.portTrainEnd true far) s = .next (s.setPort p { st := 2, fails := 0, lastAck := s.pcc, lastGood := s.pcc, first := k.first, out := k.out }) ∧
      (far = true ∨ k.first = false → exec (.portTrainEnd false far) s =
        .next ((s.setPort p { k with st := 3, fails := min 15 (k.fails + 1) }).postError 3 3 p 0)) ∧
      (far = false → k.first = true → exec (.portTrainEnd false far) s = .next (s.setPort p { k with st := 0 })))) ∧
  (∀ (s : State) p m, s.agent = .unit p →
    ∃ k : Port, (∀ e ∈ k.rx, e ∈ (s.port p).rx) ∧ k.unacked = (s.port p).unacked ∧ k.seqTx = (s.port p).seqTx ∧ k.seqRx = (s.port p).seqRx ∧
    ∃ s1 : State, (s1 = s ∨ s1 = s.setPort p k) ∧ s1 = s.takeRx p m ∧
      let src := Msg.src m
      let key := paKeyAt s s.pkg (Msg.second m / 32 * 32)
      let low := Msg.second m % 32
      let wide := fun (off : Nat) => if 0x20000 ≤ off ∧ off < 0x24000 then 4 else 8
      let answer := fun (s2 : State) (kind : Nat) (d : List Byte) =>
        let x := Msg.build kind src s.pkg (Msg.tid m) (Msg.second m) d
        match s2.routePort (p / 16) src with
        | some q => s2.setPort q ((s2.port q).send s2.pcc 1 x)
        | none => { s2 with unrouted := s2.unrouted ++ [(p / 16, x)] }
      (Msg.dst m ≠ s.pkg → ∀ i ∈ [Instr.rdreq m, .rdrsp m, .wrreq m, .wrack m, .yardMsg m, .stepMsg m, .collMsg m],
        exec i s = .next (match s1.routePort (p / 16) (Msg.dst m) with
          | some q => s1.setPort q ((s1.port q).send s.pcc (Msg.vcOf (Msg.kind m)) m)
          | none => { s1 with unrouted := s1.unrouted ++ [(p / 16, m)] })) ∧
      (Msg.dst m = s.pkg →
        (paRef s key = none → exec (.rdreq m) s = .next (answer s1 2 [])) ∧
        (∀ r, paRef s key = some r →
          ((∀ off, r.kind ≠ .regs off) → exec (.rdreq m) s = .next (answer s1 2 (s.bytes r.key 32))) ∧
          (∀ off, r.kind = .regs off →
            exec (.rdreq m) s = .next (answer s1 2 (tab (32 / wide off) fun i => leBytes (wide off) (s.regRead (off + wide off * i)).toNat).flatten))) ∧
        ((∀ e ∈ s.reads, e.tid ≠ some (Msg.tid m)) → exec (.rdrsp m) s = .next s1) ∧
        (∀ e, s.reads.find? (fun x => x.tid == some (Msg.tid m)) = some e →
          let rs := s.reads.map fun x => if x.tid = some (Msg.tid m) then { x with tid := none, here := true } else x
          let own := Dirty.sector e.key ∈ s.dirty ∨ (Tbl.find s.linkFail e.key).isSome = true ∨ ∃ x ∈ s.trans, paKeyAt s x.2.1 (x.2.2 / 32 * 32) = e.key
          (peerRegs4 e.key = none → own → exec (.rdrsp m) s = .next { s1 with reads := rs }) ∧
          (peerRegs4 e.key = none → ¬ own → exec (.rdrsp m) s = .next { s1.write e.key (Msg.data m) with reads := rs }) ∧
          ∀ off n, peerRegs4 e.key = some (off, n) → bitsOf e.key 44 11 ≠ s.pkg →
            ∃ t, exec (.rdrsp m) s = .next t ∧ t = { s1 with reads := rs, peerRegs := t.peerRegs } ∧
              ∀ i, i < 32 / n → t.preg (bitsOf e.key 44 11) (off + n * i) = BitVec.ofNat 64 (leNat (((Msg.data m).drop (n * i)).take n))) ∧
        (s.pageLocked key = false →
          (paRef s key = none → exec (.wrreq m) s = .next (answer s1 4 [])) ∧
          ∀ r, paRef s key = some r →
            ((∀ off, r.kind ≠ .regs off) → exec (.wrreq m) s = .next (answer ((s1.write r.key (Msg.data m)).noteRemote [r.key]) 4 [])) ∧
            ∀ off, r.kind = .regs off →
              let at_ := low / wide off * wide off
              exec (.wrreq m) s =
                .next (answer (s1.regWrite (off + at_) (BitVec.ofNat 64 (leNat (((Msg.data m).drop at_).take (wide off))))) 4 [])) ∧
        (s.pageLocked key = true → exec (.wrreq m) s = .next { s1 with linkHeld := s.linkHeld ++ [(key, p, m)] }) ∧
        exec (.wrack m) s = .next { s1 with trans := Tbl.erase s.trans (Msg.tid m) } ∧
        ((src, Msg.tid m) ∈ s.applied → ∀ i ∈ [Instr.yardMsg m, .stepMsg m, .collMsg m], exec i s = .next s1) ∧
        ((src, Msg.tid m) ∉ s.applied →
          exec (.stepMsg m) s = .next { s1 with applied := (src, Msg.tid m) :: s.applied } ∧
          (∃ t, exec (.yardMsg m) s = .next t ∧ t.applied = (src, Msg.tid m) :: s.applied ∧ t.yard = s.yard ∧ t.cores = s.cores ∧
            (Msg.second m = 0 ∨ 4 < Msg.second m → t = { s1 with applied := t.applied }) ∧
            (Msg.second m = 2 → t.hcache = s.hcache.filter (fun e => e.1 / 128 != leNat ((Msg.data m).take 8)) ∧
              t.outbox = s.outbox ++ [(5, src, 3, leBytes 8 (leNat ((Msg.data m).take 8)))]) ∧
            (Msg.second m = 4 → t = { s1.postNotice 2 0 with applied := t.applied })) ∧
          ∃ t, exec (.collMsg m) s = .next t ∧ t = { s1 with applied := (src, Msg.tid m) :: s.applied, contribs := t.contribs } ∧
            ∃ x ∈ t.contribs, x.grp = leNat ((Msg.data m).take 8) ∧ x.tag = bitsOf (Msg.second m) 0 32 ∧ x.instr = bitsOf (Msg.second m) 62 2 ∧
              x.src = src ∧ Tbl.find x.pcs (bitsOf (Msg.second m) 32 30) = some ((Msg.data m).drop 8)))) ∧
  ∀ (s : State) key (bs : List Byte), s.MemOk →
    (∀ i, i < bs.length → (s.write key bs).byte (key + i) = nth 0#8 bs i) ∧ ∀ a, (∀ i, i < bs.length → a ≠ key + i) → (s.write key bs).byte a = s.byte a

/-! ## Power, supply and the host -/

/-- R87, R450 to R453, R455, R458: power, supply, error records and the CXL host.  The model's own choices are those of log entries 8 (a first
reading below the guard), 9 (the HDM range, the mailbox, a fetch from the host) and 39 (one level for the package, the TYPE 5 record, the
start of the count, a trip that stays in reset). -/
def Obligations.LeaveHeatMarginsAndTheHost : Prop :=
  (∀ (s : State) c a d, s.agent = .seq c .ct →
    (2 ^ 32 ≤ (s.rx a).toNat → exec (.pleave a d) s = .next (s.raiseCt c FCode.illop 0x26 0#64)) ∧
    ((s.rx a).toNat = 0 ∨ ((s.rx a).toNat < 2 ^ 32 ∧ (s.core c).forkOut = false) →
      ∃ t, exec (.pleave a d) s = .next t ∧ Wrote (s.dropBooking c) t d 0#64 (s.pc + 4#64)) ∧
    ((s.rx a).toNat < 2 ^ 32 → 0 < (s.rx a).toNat → (s.core c).forkOut = true → 2 ≤ s.therm →
      ∃ t, exec (.pleave a d) s = .next t ∧ Wrote (s.dropBooking c) t d 0#64 (s.pc + 4#64)) ∧
    ((s.rx a).toNat < 2 ^ 32 → 0 < (s.rx a).toNat → (s.core c).forkOut = true →
      bookGrant (((s.dropBooking c).gov (c / 256)).books.map (·.2)) ((s.dropBooking c).gov (c / 256)).gbook s.pcc (s.rx a).toNat = none →
      ∃ t, exec (.pleave a d) s = .next t ∧ Wrote (s.dropBooking c) t d 0#64 (s.pc + 4#64)) ∧
    (∀ n, (s.rx a).toNat < 2 ^ 32 → 0 < (s.rx a).toNat → (s.core c).forkOut = true → s.therm < 2 →
      bookGrant (((s.dropBooking c).gov (c / 256)).books.map (·.2)) ((s.dropBooking c).gov (c / 256)).gbook s.pcc (s.rx a).toNat = some n →
      s.pcc + 16 ≤ n ∧ n ≤ s.pcc + 2 ^ 20 ∧ (s.rx a).toNat ≤ 2 ^ 24 ∧
      ∃ t s1, exec (.pleave a d) s = .next t ∧ Wrote s1 t d (BitVec.ofNat 64 n) (s.pc + 4#64) ∧ OnlyCore s s1 c ∧
        (s1.gov (c / 256)).books = ((s.dropBooking c).gov (c / 256)).books ++ [(c, { grant := n, dur := (s.rx a).toNat })])) ∧
  (∀ (s : State) d, s.agent = .unit d →
    let g := s.gov d
    let tokens := if s.therm = 0 then g.gtok else if s.therm = 1 then max 1 (g.gtok / 4) else 0
    let n := min g.reqs.length (tokens - (g.held.length + (g.freed.filter fun t => decide (s.pcc < t)).length))
    ∃ t, exec .governorGrant s = .next t ∧ t = { s with govs := t.govs, cores := t.cores } ∧
      (0 < n → t.gov d = { g with reqs := g.reqs.drop n, held := g.held ++ (g.reqs.take n).map (·.2) }) ∧ (n = 0 → t = s) ∧
      (∀ b, b ≠ d → t.gov b = s.gov b) ∧
      (∀ k c e q, (k, c, e) ∈ g.reqs.take n → engOf e = some q → ((t.core c).eng q).leaveOk = true) ∧
      ∀ c, (∀ k e, (k, c, e) ∉ g.reqs.take n) → t.core c = s.core c) ∧
  (∀ (s : State) r,
    let level := if s.ttrip ≤ r then 3 else if s.thot ≤ r then 2 else if s.twarm ≤ r then 1 else 0
    let bh := if r < s.thot then some (s.belowHot.getD s.pcc) else none
    let bw := if r < s.twarm then some (s.belowWarm.getD s.pcc) else none
    (s.therm < 3 → level = 3 → exec (.thermChange r) s = .next { State.reset with fresh := s.fresh, hostMem := s.hostMem, inReset := true }) ∧
    (s.therm < level → level ≠ 3 →
      exec (.thermChange r) s = .next (State.postError { s with belowHot := bh, belowWarm := bw, therm := level } 5 5 0 0)) ∧
    (level ≤ s.therm → exec (.thermChange r) s = .next { s with belowHot := bh, belowWarm := bw })) ∧
  (∀ (s : State),
    let long := fun (x : Option Nat) => ∃ t, x = some t ∧ t + 2 ^ 20 ≤ s.pcc
    (s.therm = 2 → long s.belowHot → ¬ long s.belowWarm → exec .thermDropTimer s = .next (State.postError { s with therm := 1 } 5 5 0 0)) ∧
    ((s.therm = 2 ∧ long s.belowHot ∧ long s.belowWarm) ∨ (s.therm = 1 ∧ long s.belowWarm) →
      exec .thermDropTimer s = .next (State.postError { s with therm := 0 } 5 5 0 0)) ∧
    ((s.therm = 2 ∧ ¬ long s.belowHot) ∨ (s.therm = 1 ∧ ¬ long s.belowWarm) ∨ s.therm = 0 ∨ 3 ≤ s.therm → exec .thermDropTimer s = .next s)) ∧
  (∀ (s : State) typ un index addr,
    let size := (s.reg 0xA008).toNat
    let full := size = 0 ∨ size ≤ (s.reg 0xA010 - s.reg 0xA018).toNat
    let t := s.postError typ un index addr
    (full → t = { s with regs := t.regs } ∧ t.reg 0xA020 = s.reg 0xA020 + 1#64 ∧ ∀ o, o ≠ 0xA020 → t.reg o = s.reg o) ∧
    (¬ full →
      let key := paKeyAt s s.pkg ((s.reg 0xA000).toNat + 32 * ((s.reg 0xA010).toNat % size))
      t = { s with regs := t.regs, mem := t.mem, poison := t.poison, l2Poison := t.l2Poison, noise := t.noise } ∧ t.reg 0xA010 = s.reg 0xA010 + 1#64 ∧
      (∀ o, o ≠ 0xA010 → t.reg o = s.reg o) ∧
      (s.MemOk →
        t.num key 8 = s.pcc % 2 ^ 64 ∧ t.num (key + 8) 1 = typ % 2 ^ 8 ∧ t.num (key + 9) 1 = un % 2 ^ 8 ∧ t.num (key + 10) 2 = index % 2 ^ 16 ∧
        t.num (key + 12) 4 = 0 ∧ t.num (key + 16) 8 = addr % 2 ^ 64 ∧ t.num (key + 24) 8 = 0 ∧
        ∀ a, a < key ∨ key + 32 ≤ a → t.byte a = s.byte a))) ∧
  (∀ (s : State) c v, s.agent = .unit c →
    let k := s.cluster c
    let fall := v.toNat < 16 ∧ (16 ≤ k.margin.toNat ∨ k.target < k.vcode)
    (fall → exec (.marginMeasure v) s =
      .next (((s.setCluster c { k with
        margin := v
        degr := true
        degrSeq := if k.degr then k.degrSeq else (s.queue c).seq
        target := if k.target < k.vcode then k.vcode else k.target }).postNotice 4 c).postError
        4 4 c 0)) ∧
    (¬ fall → exec (.marginMeasure v) s = .next (s.setCluster c { k with margin := v })) ∧
    (k.vcode < k.target → exec .vcodeStep s = .next (s.setCluster c { k with vcode := k.vcode + 1 })) ∧
    (k.target < k.vcode → exec .vcodeStep s = .next (s.setCluster c { k with vcode := k.vcode - 1 })) ∧
    (k.vcode = k.target → exec .vcodeStep s = .next s)) ∧
  ∀ (s : State),
    exec .cxlLinkTrained s = .next { s with cxlUp := true } ∧
    exec .cxlLinkDown s =
      .next { s with cxlUp := false, hostDone := s.hostDone ++ s.hostReqs.map (fun r => (r.2, FCode.linkdead)), hostReqs := [] } ∧
    (∀ wr off v a bs, s.cxlUp = false → exec (.cxlMailboxAccess wr off v) s = .next s ∧ exec (.cxlMemAccess wr a bs) s = .next s) ∧
    (s.cxlUp = true →
      (∀ off v, ∃ t, exec (.cxlMailboxAccess true off v) s = .next t ∧ t = { s with cxlBox := t.cxlBox } ∧
        ∀ i, Tbl.get 0#64 t.cxlBox i = if i = off % 4096 / 8 then v else Tbl.get 0#64 s.cxlBox i) ∧
      (∀ off v, exec (.cxlMailboxAccess false off v) s =
        .next { s with cxlOut := s.cxlOut ++ [leBytes 8 (Tbl.get 0#64 s.cxlBox (off % 4096 / 8)).toNat] }) ∧
      ∀ (a : Word) (bs : List Byte),
        let key := s.cxlBase + a.toNat
        (s.cxlSize < a.toNat + bs.length →
          exec (.cxlMemAccess true a bs) s = .next s ∧
          exec (.cxlMemAccess false a bs) s = .next { s with cxlOut := s.cxlOut ++ [List.replicate bs.length 0xFF#8] }) ∧
        (a.toNat + bs.length ≤ s.cxlSize →
          exec (.cxlMemAccess false a bs) s = .next { s with cxlOut := s.cxlOut ++ [s.bytes key bs.length] } ∧
          (s.pageLocked key = true ∨ s.pageLocked (key + bs.length - 1) = true →
            exec (.cxlMemAccess true a bs) s = .next { s with cxlHeld := s.cxlHeld ++ [(key, bs)] }) ∧
          (s.pageLocked key = false → s.pageLocked (key + bs.length - 1) = false → 2 ^ 56 ≤ key → exec (.cxlMemAccess true a bs) s = .next s) ∧
          (s.pageLocked key = false → s.pageLocked (key + bs.length - 1) = false → key < 2 ^ 56 →
            ∃ t, exec (.cxlMemAccess true a bs) s = .next t ∧
              t = { s with mem := t.mem, poison := t.poison, l2Poison := t.l2Poison, dirty := t.dirty } ∧
              (s.MemOk → ∀ i, i < bs.length → t.byte (key + i) = nth 0#8 bs i) ∧
              ∀ x, (∀ i, i < bs.length → x ≠ key + i) → t.byte x = s.byte x)))

/-! ## Bring-up and trust -/

/-- R440 to R449: the boot ROM and the attestation responder.  The model's own choices are those of log entries 38 (the order 6, 8, 7, the
codes 5 and 9, FAIL only after an OFFER, slots extended after every check, the responder after the ROM), 29, 30 and 18. -/
def Obligations.BringUpAndAttestation : Prop :=
  (∀ typ seq body, Bmsg.build typ seq body =
    [0x42#8, 0x4E#8, 0x59#8, 0x56#8, BitVec.ofNat 8 typ, 1#8, 0#8, 0#8] ++ leBytes 4 seq ++ leBytes 4 body.length ++ body) ∧
  (∀ (s : State) m,
    (¬ Answers s 0x01 0x02 (· = 32) m → exec (.offer m) s = .next s) ∧
    (Answers s 0x01 0x02 (· = 32) m →
      exec (.offer m) s =
        .next (bootSent s { s.boot with port := s.unit % 2, server := (m.drop 16).take 16, device := m.drop 32 } 0x10 (leBytes 8 Config.pufTag.toNat))) ∧
    (¬ Answers s 0x10 0x11 (fun n => 1 ≤ n ∧ n ≤ 8192) m → exec (.helperRsp m) s = .next s) ∧
    (Answers s 0x10 0x11 (fun n => 1 ≤ n ∧ n ≤ 8192) m →
      (Config.pufSeed (m.drop 16) = none → exec (.helperRsp m) s = .next (s.bootFail 2)) ∧
      ∀ seed, Config.pufSeed (m.drop 16) = some seed →
        let keys := Mldsa.keyGen (Keccak.shake256 ([0x56#8, 0x59#8, 0x4E#8, 0x2D#8, 0x38#8, 0x31#8, 0x36#8, 0x30#8, 0x20#8, 0x49#8, 0x44#8] ++ seed) 32)
        ∃ t, exec (.helperRsp m) s = .next t ∧ t = { s with regs := t.regs, fresh := t.fresh, boot := t.boot, eth := t.eth } ∧
          t.boot.nonce.length = 32 ∧ t.boot.ident = Keccak.shake256 keys.1 32 ∧ t.boot.seed = seed ∧ t.boot.pub = keys.1 ∧ t.boot.priv = keys.2 ∧
          t.boot.step = 2 ∧ fld (t.reg 0xC000) 8 4 = 2 ∧ t.boot.req = 0x20 ∧ t.boot.seq = s.boot.seq + 1 ∧
          t.eth = s.eth ++ [(s.boot.port, Bmsg.build 0x20 (s.boot.seq + 1) (t.boot.nonce ++ t.boot.ident))]) ∧
    (¬ Answers s 0x20 0x21 (· = 96 + 3309) m → exec (.floorRsp m) s = .next s) ∧
    (Answers s 0x20 0x21 (· = 96 + 3309) m →
      let n := match s.boot.total with
        | none => 65536
        | some x => min 65536 (x - s.boot.image.length)
      exec (.floorRsp m) s =
        .next (bootSent (s.setReg 0xC000 (setFld (s.reg 0xC000) 8 4 3)) { s.boot with token := m.drop 16, step := 3 } 0x30
          (s.boot.ident ++ leBytes 8 s.boot.image.length ++ leBytes 4 n))) ∧
    (¬ Answers s 0x30 0x31 (fun n => 16 < n ∧ n ≤ 65552) m → exec (.imageRsp m) s = .next s) ∧
    (Answers s 0x30 0x31 (fun n => 16 < n ∧ n ≤ 65552) m →
      let off := leNat ((m.drop 16).take 8)
      let total := leNat ((m.drop 24).take 8)
      let img := s.boot.image ++ m.drop 32
      let wrong := off ≠ s.boot.image.length ∨ total < img.length ∨ (s.boot.total ≠ none ∧ s.boot.total ≠ some total)
      (wrong → exec (.imageRsp m) s = .next (s.bootFail 4)) ∧
      (¬ wrong →
        let b := { s.boot with image := img, total := some total }
        (img.length < total → exec (.imageRsp m) s =
          .next (bootSent s b 0x30 (s.boot.ident ++ leBytes 8 img.length ++ leBytes 4 (min 65536 (total - img.length))))) ∧
        (img.length = total →
          let i := Image.of img
          let w := fun n => nth 0#64 (words64 8 (img.take 64)) n
          let at4 : State := { s.setReg 0xC000 (setFld (s.reg 0xC000) 8 4 4) with boot := { b with step := 4 } }
          (¬ (5325 ≤ total ∧ fld (w 0) 0 32 = 0x56424F4C ∧ (w 1).toNat % 65536 = 0 ∧ fld (w 3) 27 5 = 0 ∧ fld (w 3) 0 16 = 0 ∧ fld (w 5) 32 32 = 0 ∧
              fld (w 5) 0 16 = 0 ∧ w 6 = 0#64 ∧ w 7 = 0#64 ∧ fld (w 4) 0 16 < fld (w 4) 16 16 ∧ fld (w 4) 16 16 < fld (w 5) 16 16 ∧
              1 ≤ fld (w 4) 32 16 ∧ fld (w 4) 32 16 ≤ 256 ∧ fld (w 4) 48 16 ≤ fld (w 4) 32 16 ∧ total = 5325 + fld (w 3) 32 32) →
            exec (.imageRsp m) s = .next (State.bootFail { s with boot := b } 5)) ∧
          (i.headBad total = false →
            let signed := Mldsa.verify ((img.drop 64).take 1952) (img.take (total - 3309)) (img.drop (total - 3309))
            (signed = false → exec (.imageRsp m) s = .next (at4.bootFail 6)) ∧
            (signed = true → s.tokenGood i = false → exec (.imageRsp m) s = .next (at4.bootFail 8)) ∧
            (signed = true → s.tokenGood i = true → fld (w 0) 32 32 < s.tokenFloor → exec (.imageRsp m) s = .next (at4.bootFail 7)) ∧
            (signed = true → s.tokenGood i = true → s.tokenFloor ≤ fld (w 0) 32 32 → i.placeBad s = false →
              ∃ t, exec (.imageRsp m) s = .next t ∧ t.boot.running = false ∧ t.boot.step = 6 ∧ fld (t.reg 0xC000) 8 4 = 6 ∧
                t.reg 0 = BitVec.ofNat 64 (fld (w 3) 16 11) ∧ t.twarm = fld (w 4) 0 16 ∧ t.thot = fld (w 4) 16 16 ∧ t.ttrip = fld (w 5) 16 16 ∧
                (∀ d, d < 8 → (t.gov d).gtok = fld (w 4) 32 16 ∧ (t.gov d).gbook = fld (w 4) 48 16) ∧
                (∀ h, h < 64 → (t.hart h).held = false ∧ (t.hart h).mode = 3 ∧ (t.hart h).pc = w 2) ∧
                (s.MemOk → ∀ n, n < i.body.length → t.byte ((w 1).toNat + n) = nth 0#8 i.body n) ∧
                t.slotBytes 0 = Keccak.shake256 (s.slotBytes 0 ++ Keccak.shake256 ((img.drop 64).take 1952) 64) 64 ∧
                t.slotBytes 1 = Keccak.shake256 (s.slotBytes 1 ++ Keccak.shake256 (img.take 64 ++ i.body) 64) 64 ∧ t.cores = s.cores))))) ∧
    (∀ r, s.boot.req = r → r ≠ 0 → Answers s r 0x7F (· = 4) m →
      exec (.errorRsp m) s = .next (s.bootFail (if s.boot.step = 1 then 1 else if s.boot.step = 2 then 3 else 4))) ∧
    (¬ Answers s s.boot.req 0x7F (· = 4) m → exec (.errorRsp m) s = .next s)) ∧
  (∀ (s : State) code, code < 256 → s.boot.step < 16 →
    let t := s.bootFail code
    t.reg 0xC000 = BitVec.ofNat 64 (s.boot.step * 256 + code) ∧ t.boot = { step := 1, retryAt := some (s.pcc + 2 ^ 30), mac := s.boot.mac } ∧
    t = { s with regs := t.regs, boot := t.boot, eth := t.eth } ∧
    (s.boot.server = [] → t.eth = s.eth) ∧
    (s.boot.server ≠ [] → t.eth = s.eth ++ [(s.boot.port, Bmsg.build 0x40 s.boot.seq
      (leBytes 4 (s.boot.step * 256 + code) ++ if s.boot.ident = [] then List.replicate 32 0#8 else s.boot.ident))])) ∧
  (∀ (s : State),
    let due := s.boot.running = true ∧ s.boot.retryAt = none ∧ s.boot.req ≠ 0 ∧ s.boot.since + 2 ^ 27 ≤ s.pcc
    (¬ due → exec .bootRequestTimeout s = .next s) ∧
    (due → 8 ≤ s.boot.tries →
      exec .bootRequestTimeout s = .next (s.bootFail (if s.boot.step = 1 then 1 else if s.boot.step = 2 then 3 else 4))) ∧
    (due → s.boot.tries < 8 → s.boot.req ≠ 1 →
      exec .bootRequestTimeout s =
        .next { s with eth := s.eth ++ [(s.boot.port, s.boot.msg)], boot := { s.boot with tries := s.boot.tries + 1, since := s.pcc } }) ∧
    (due → s.boot.tries < 8 → s.boot.req = 1 →
      let f := List.replicate 6 0xFF#8 ++ s.boot.mac ++ [0x88#8, 0xB5#8] ++ s.boot.msg
      exec .bootRequestTimeout s =
        .next { s with eth := s.eth ++ [(0, f), (1, f)], boot := { s.boot with tries := s.boot.tries + 1, since := s.pcc } }) ∧
    ((∀ n, s.boot.retryAt = some n → s.pcc < n) → exec .bootRetryTimer s = .next s) ∧
    (∀ n, s.boot.retryAt = some n → n ≤ s.pcc →
      ∃ t f, exec .bootRetryTimer s = .next t ∧ t = { s with regs := t.regs, fresh := t.fresh, boot := t.boot, eth := s.eth ++ [(0, f), (1, f)] } ∧
        t.boot = { mac := t.boot.mac, req := 1, msg := Bmsg.build 1 1 (leBytes 8 Config.pufTag.toNat), tries := 1, since := s.pcc } ∧
        (s.boot.mac ≠ [] → t.boot.mac = s.boot.mac) ∧ fld (t.reg 0xC000) 8 4 = 1 ∧ fld (t.reg 0xC000) 0 8 = fld (s.reg 0xC000) 0 8) ∧
    exec .packageResetRelease s = .next { State.reset with fresh := s.fresh, hostMem := s.hostMem } ∧
    (s.boot.running = true → ∀ r, ∀ i ∈ [Instr.getVersion r, .getCapabilities r, .negotiateAlgorithms r, .getMeasurements r, .spdmUnsupportedRequest r],
      exec i s = .next s) ∧
    (s.boot.running = false → ∀ r,
      let blocks := tab 8 s.slotBytes
      (∀ i a, (i, a) ∈ [(Instr.getVersion r, SpdmAnswer.version 1 3),
          (.getCapabilities r, .capabilities { cert := false, measSigned := true, sessions := false, keyOutOfBand := true }),
          (.negotiateAlgorithms r, .algorithms [(Config.linantVendor, 1)] [(Config.linantVendor, 2)]),
          (.spdmUnsupportedRequest r, .error 7)] → exec i s = .next { s with spdm := s.spdm ++ [a] }) ∧
      ∃ rnd, rnd.length = 32 ∧ exec (.getMeasurements r) s =
        .next { s with fresh := s.fresh + 4, spdm := s.spdm ++ [.measurements blocks (Mldsa.sign s.boot.priv (r ++ blocks.flatten) rnd)] }))
end

