-- ==== Sys2Proof/Laws/Table.lean ====
section
/-!
SUPPORT. What the sparse tables and the indexed lists answer after a write, and that writing keeps their canonical form.
-/

namespace Sys2Proof

namespace Tbl

theorem get_put_same {α : Type} (d : α) (t : Tbl α) (n : Nat) (v : α) : get d (put t n v) n = v := by
  induction t with
  | nil => simp [put, get]
  | cons e t ih =>
    obtain ⟨k, w⟩ := e
    simp only [put]
    split
    · simp [get]
    · split
      · simp [get]
      · simp only [get]; rw [if_neg (by omega)]; exact ih

theorem get_put_other {α : Type} (d : α) (t : Tbl α) (n m : Nat) (v : α) (h : m ≠ n) : get d (put t n v) m = get d t m := by
  induction t with
  | nil => simp [put, get, Ne.symm h]
  | cons e t ih =>
    obtain ⟨k, w⟩ := e
    simp only [put]
    split
    · rw [get, if_neg (Ne.symm h)]
    · split
      · next _ e => subst e; simp [get, Ne.symm h]
      · simp only [get, ih]

@[simp] theorem get_put {α : Type} (d : α) (t : Tbl α) (n m : Nat) (v : α) :
    get d (put t n v) m = if m = n then v else get d t m := by
  split
  · next h => subst h; exact get_put_same d t m v
  · next h => exact get_put_other d t n m v h

theorem put_put {α : Type} (t : Tbl α) (n : Nat) (v w : α) : put (put t n v) n w = put t n w := by
  induction t with
  | nil => simp [put]
  | cons e t ih =>
    obtain ⟨k, x⟩ := e
    simp only [put]
    split
    · simp [put]
    · split
      · simp [put]
      · next h1 h2 => simp only [put, if_neg h1, if_neg h2, ih]

/-- Every key of a list of entries lies above `k`. -/
def above {α : Type} (k : Nat) (t : Tbl α) : Prop := ∀ e ∈ t, k < e.1

theorem sorted_cons {α : Type} (k : Nat) (v : α) (t : Tbl α) : sorted ((k, v) :: t) = true ↔ above k t ∧ sorted t = true := by
  simp [sorted, above, List.all_eq_true]

theorem above_put {α : Type} {k n : Nat} {v : α} {t : Tbl α} (h : above k t) (hn : k < n) : above k (put t n v) := by
  induction t with
  | nil => intro e he; simp [put] at he; subst he; exact hn
  | cons e t ih =>
    obtain ⟨j, w⟩ := e
    have hj : k < j := h (j, w) (by simp)
    have ht : above k t := fun e he => h e (by simp [he])
    intro e he
    simp only [put] at he
    split at he
    · simp at he; rcases he with rfl | rfl | he
      · exact hn
      · exact hj
      · exact ht e he
    · split at he
      · simp at he; rcases he with rfl | he
        · exact hn
        · exact ht e he
      · simp at he; rcases he with rfl | he
        · exact hj
        · exact ih ht e he

theorem sorted_put {α : Type} (t : Tbl α) (n : Nat) (v : α) (h : sorted t = true) : sorted (put t n v) = true := by
  induction t with
  | nil => simp [put, sorted]
  | cons e t ih =>
    obtain ⟨k, w⟩ := e
    have ⟨ha, hs⟩ := (sorted_cons k w t).1 h
    simp only [put]
    split
    · next hn =>
      refine (sorted_cons n v _).2 ⟨?_, h⟩
      intro e he; simp at he; rcases he with rfl | he
      · exact hn
      · exact Nat.lt_trans hn (ha e he)
    · split
      · next hn => subst hn; exact (sorted_cons _ _ _).2 ⟨ha, hs⟩
      · exact (sorted_cons _ _ _).2 ⟨above_put ha (by omega), ih hs⟩

theorem above_erase {α : Type} {k n : Nat} {t : Tbl α} (h : above k t) : above k (erase t n) := by
  induction t with
  | nil => exact h
  | cons e t ih =>
    obtain ⟨j, w⟩ := e
    have ht : above k t := fun e he => h e (by simp [he])
    simp only [erase]
    split
    · exact ht
    · intro e he; simp at he; rcases he with rfl | he
      · exact h (j, w) (by simp)
      · exact ih ht e he

theorem sorted_erase {α : Type} (t : Tbl α) (n : Nat) (h : sorted t = true) : sorted (erase t n) = true := by
  induction t with
  | nil => exact h
  | cons e t ih =>
    obtain ⟨k, w⟩ := e
    have ⟨ha, hs⟩ := (sorted_cons k w t).1 h
    simp only [erase]
    split
    · exact hs
    · exact (sorted_cons _ _ _).2 ⟨above_erase ha, ih hs⟩

theorem all_put {α : Type} (p : α → Bool) (t : Tbl α) (n : Nat) (v : α) (h : t.all (fun e => p e.2) = true) (hv : p v = true) :
    (put t n v).all (fun e => p e.2) = true := by
  induction t with
  | nil => simp [put, hv]
  | cons e t ih =>
    obtain ⟨k, w⟩ := e
    simp only [List.all_cons, Bool.and_eq_true] at h
    simp only [put]
    split
    · simp only [List.all_cons, hv, h.1, h.2, Bool.and_self]
    · split
      · simp only [List.all_cons, hv, h.2, Bool.and_self]
      · simp only [List.all_cons, h.1, ih h.2, Bool.and_self]

theorem all_erase {α : Type} (p : α → Bool) (t : Tbl α) (n : Nat) (h : t.all (fun e => p e.2) = true) :
    (erase t n).all (fun e => p e.2) = true := by
  induction t with
  | nil => exact h
  | cons e t ih =>
    obtain ⟨k, w⟩ := e
    simp only [List.all_cons, Bool.and_eq_true] at h
    simp only [erase]
    split
    · exact h.2
    · simp only [List.all_cons, h.1, ih h.2, Bool.and_self]

theorem get_erase_same {α : Type} (d : α) (t : Tbl α) (n : Nat) (h : sorted t = true) : get d (erase t n) n = d := by
  induction t with
  | nil => rfl
  | cons e t ih =>
    obtain ⟨k, w⟩ := e
    have ⟨ha, hs⟩ := (sorted_cons k w t).1 h
    simp only [erase]
    split
    · next hk =>
      subst hk
      have : ∀ t : Tbl α, above k t → get d t k = d := by
        intro t
        induction t with
        | nil => intro _; rfl
        | cons e t ih =>
          intro ha
          have := ha e (by simp)
          obtain ⟨j, x⟩ := e
          rw [get, if_neg (by simp at this; omega)]
          exact ih fun e he => ha e (by simp [he])
      exact this t ha
    · next hk => rw [get, if_neg hk]; exact ih hs

theorem get_erase_other {α : Type} (d : α) (t : Tbl α) (n m : Nat) (h : m ≠ n) : get d (erase t n) m = get d t m := by
  induction t with
  | nil => rfl
  | cons e t ih =>
    obtain ⟨k, w⟩ := e
    simp only [erase]
    split
    · next hk => subst hk; rw [get, if_neg (Ne.symm h)]
    · simp only [get, ih]

/-- What a table in canonical form answers after a write. -/
theorem get_set {α : Type} [DecidableEq α] (d : α) (t : Tbl α) (n m : Nat) (v : α) (h : sorted t = true) :
    get d (set d t n v) m = if m = n then v else get d t m := by
  unfold set
  split
  · next hv =>
    subst hv
    split
    · next hm => subst hm; exact get_erase_same _ t m h
    · next hm => exact get_erase_other _ t n m hm
  · exact get_put d t n m v

/-- A write elsewhere leaves an entry, in any table. -/
theorem get_set_other {α : Type} [DecidableEq α] (d : α) (t : Tbl α) (n m : Nat) (v : α) (h : m ≠ n) :
    get d (set d t n v) m = get d t m := by
  unfold set
  split
  · exact get_erase_other _ t n m h
  · exact get_put_other d t n m v h

end Tbl

/-! ## Indexed lists -/

@[simp] theorem nth_fillAt {α : Type} (d : α) (l : List α) (n m : Nat) (v : α) :
    nth d (fillAt d l n v) m = if m = n then v else nth d l m := by
  induction l generalizing n m with
  | nil =>
    induction n generalizing m with
    | zero => cases m <;> simp [fillAt, nth]
    | succ n ih =>
      cases m with
      | zero => simp [fillAt, nth]
      | succ m => simp only [fillAt, nth, ih, Nat.add_right_cancel_iff]
  | cons a t ih =>
    cases n with
    | zero => cases m <;> simp [fillAt, nth]
    | succ n => cases m with
      | zero => simp [fillAt, nth]
      | succ m => simp only [fillAt, nth, ih, Nat.add_right_cancel_iff]

@[simp] theorem fit_length {α : Type} (d : α) (n : Nat) (l : List α) : (fit d n l).length = n := by
  induction n generalizing l with
  | zero => rfl
  | succ n ih => cases l <;> simp [fit, ih]

end Sys2Proof
end

