-- ==== Sys2Proof/Laws/Memory.lean ====
section
/-!
SUPPORT. Memory: a write leaves every other byte alone and gives the bytes written, and every write keeps the canonical form.
-/

namespace Sys2Proof.Machine

theorem wf_sorted {m : List Host.Cell} (h : Memory.wf m = true) : Tbl.sorted m = true := by
  simp only [Memory.wf, Bool.and_eq_true] at h; exact h.1

/-- One byte written keeps the canonical form. -/
theorem wf_set {m : List Host.Cell} (k : Nat) (b : Byte) (h : Memory.wf m = true) : Memory.wf (Tbl.set 0#8 m k b) = true := by
  simp only [Memory.wf, Bool.and_eq_true] at h ⊢
  unfold Tbl.set
  split
  · exact ⟨Tbl.sorted_erase m k h.1, Tbl.all_erase (fun b => b != 0#8) m k h.2⟩
  · next hb => exact ⟨Tbl.sorted_put m k b h.1, Tbl.all_put (fun b => b != 0#8) m k b h.2 (by simpa using hb)⟩

/-- A run of bytes written keeps the canonical form. -/
theorem wf_putBytes {m : List Host.Cell} (k : Nat) (bs : List Byte) (h : Memory.wf m = true) : Memory.wf (putBytes m k bs) = true := by
  induction bs generalizing m k with
  | nil => exact h
  | cons b t ih => exact ih (k + 1) (wf_set k b h)

/-- A byte outside a run written stays. -/
theorem get_putBytes_other (m : List Host.Cell) (k a : Nat) (bs : List Byte) (h : a < k ∨ k + bs.length ≤ a) :
    Tbl.get 0#8 (putBytes m k bs) a = Tbl.get 0#8 m a := by
  induction bs generalizing m k with
  | nil => rfl
  | cons b t ih =>
    simp only [List.length_cons] at h
    rw [putBytes, ih _ _ (by omega), Tbl.get_set_other _ _ _ _ _ (by omega)]

/-- A run written reads back. -/
theorem get_putBytes (m : List Host.Cell) (k i : Nat) (bs : List Byte) (hm : Memory.wf m = true) (h : i < bs.length) :
    Tbl.get 0#8 (putBytes m k bs) (k + i) = nth 0#8 bs i := by
  induction bs generalizing m k i with
  | nil => simp at h
  | cons b t ih =>
    rw [putBytes]
    cases i with
    | zero =>
      rw [Nat.add_zero, get_putBytes_other _ _ _ _ (by omega), Tbl.get_set _ _ _ _ _ (wf_sorted hm)]
      simp [nth]
    | succ i =>
      have := ih (Tbl.set 0#8 m k b) (k + 1) i (wf_set k b hm) (by simp at h; omega)
      rw [show k + (i + 1) = k + 1 + i by omega, this, nth]

namespace State

@[simp] theorem write_mem (s : State) (k : Nat) (bs : List Byte) : (s.write k bs).mem = putBytes s.mem k bs := rfl

/-- Reading one byte after a write elsewhere. -/
theorem byte_write_other (s : State) (k a : Nat) (bs : List Byte) (h : a < k ∨ k + bs.length ≤ a) :
    (s.write k bs).byte a = s.byte a := get_putBytes_other s.mem k a bs h

/-- Reading one byte that a write has written, in a memory in canonical form. -/
theorem byte_write (s : State) (k i : Nat) (bs : List Byte) (hm : s.MemOk) (h : i < bs.length) :
    (s.write k bs).byte (k + i) = nth 0#8 bs i := get_putBytes s.mem k i bs hm h

/-- A state with the same memory has its form. -/
theorem MemOk.of_mem {s t : State} (h : s.MemOk) (e : t.mem = s.mem) : t.MemOk := by unfold MemOk; rw [e]; exact h

/-- Every operation on memory is a write, and a write keeps the canonical form. -/
theorem memOk_write (s : State) (k : Nat) (bs : List Byte) (h : s.MemOk) : (s.write k bs).MemOk := wf_putBytes k bs h

theorem memOk_writeNum (s : State) (k n x : Nat) (h : s.MemOk) : (s.writeNum k n x).MemOk := memOk_write s k _ h

theorem memOk_setReg (s : State) (off : Nat) (w : Word) (h : s.MemOk) : (s.setReg off w).MemOk := h.of_mem rfl

theorem memOk_bumpReg (s : State) (off : Nat) (h : s.MemOk) : (s.bumpReg off).MemOk := h.of_mem rfl

theorem memOk_stir (s : State) (k : Nat) (h : s.MemOk) : (s.stir k).MemOk := by
  unfold stir; split
  · exact h.of_mem rfl
  · exact h

theorem memOk_postError (s : State) (a b c d : Nat) (h : s.MemOk) : (s.postError a b c d).MemOk := by
  unfold postError
  simp only
  split
  · exact memOk_bumpReg _ _ h
  · exact memOk_bumpReg _ _ (memOk_stir _ _ (memOk_write _ _ _ h))

theorem memOk_postNotice (s : State) (a b : Nat) (h : s.MemOk) : (s.postNotice a b).MemOk := by
  unfold postNotice
  simp only
  split
  · exact memOk_bumpReg _ _ h
  · exact memOk_bumpReg _ _ (memOk_stir _ _ (memOk_write _ _ _ h))

theorem memOk_postAbsent (s : State) (a b c d e : Nat) (h : s.MemOk) : (s.postAbsent a b c d e).MemOk := by
  unfold postAbsent
  simp only
  split
  · exact h
  · split
    · exact memOk_bumpReg _ _ h
    · split
      · exact memOk_bumpReg _ _ h
      · exact memOk_postNotice _ _ _ (h.of_mem rfl)

theorem memOk_setPreg (s : State) (p off : Nat) (w : Word) (h : s.MemOk) : (s.setPreg p off w).MemOk := by
  unfold setPreg; split
  · exact memOk_setReg _ _ _ h
  · exact h.of_mem rfl

theorem memOk_bumpPreg (s : State) (p off : Nat) (h : s.MemOk) : (s.bumpPreg p off).MemOk := memOk_setPreg _ _ _ _ h

theorem memOk_postPool (s : State) (p : Nat) (h : s.MemOk) : (s.postPool p).MemOk := by
  unfold postPool; split
  · exact memOk_postNotice _ _ _ h
  · exact h.of_mem rfl

theorem memOk_noteAt (s : State) (a b c d e : Nat) (h : s.MemOk) : (s.noteAt a b c d e).MemOk := by
  unfold noteAt; split
  · exact memOk_postAbsent _ _ _ _ _ _ h
  · exact h.of_mem rfl

theorem memOk_noteCorrected (s : State) (u i a : Nat) (h : s.MemOk) : (s.noteCorrected u i a).MemOk := by
  have hp := memOk_postError s 1 u i a h
  unfold noteCorrected
  simp only
  split
  · split
    · exact memOk_bumpReg _ _ h
    · exact hp.of_mem rfl
  · exact hp.of_mem rfl

theorem memOk_pushFrame (s : State) (p t pa : Nat) (h : s.MemOk) : (s.pushFrame p t pa).MemOk := by
  unfold pushFrame
  simp only
  split
  · exact memOk_bumpPreg _ _ _ h
  · exact memOk_bumpPreg _ _ _ (memOk_stir _ _ (memOk_write _ _ _ h))

theorem memOk_refAdd (s : State) (p pa : Nat) (h : s.MemOk) : (s.refAdd p pa).MemOk := by
  unfold refAdd
  split
  · exact h
  · simp only; split <;> exact memOk_write _ _ _ (memOk_stir _ _ h)

theorem memOk_refSub (s : State) (p pa : Nat) (h : s.MemOk) : (s.refSub p pa).MemOk := by
  unfold refSub
  simp only
  split
  · split
    · exact h
    · split
      · exact memOk_pushFrame _ _ _ _ (memOk_stir _ _ (memOk_write _ _ _ h))
      · exact memOk_stir _ _ (memOk_write _ _ _ h)
  · exact h

theorem memOk_writeKeys (s : State) (ks : List Nat) (bs : List Byte) (h : s.MemOk) : (s.writeKeys ks bs).MemOk := by
  unfold writeKeys
  generalize runs ks bs = l
  induction l generalizing s with
  | nil => exact h
  | cons r t ih => exact ih _ (memOk_write _ _ _ h)

theorem memOk_writeEntry (s : State) (k : Option Nat) (h : s.MemOk) : (s.writeEntry k).MemOk := by
  unfold writeEntry
  split
  · exact h
  · exact memOk_writeNum _ _ _ _ (memOk_writeNum _ _ _ _ (h.of_mem rfl))

theorem memOk_storedRecords (s : State) (k : Nat) (h : s.MemOk) : (s.storedRecords k).MemOk := by
  unfold storedRecords
  split
  · exact h
  · exact h.of_mem rfl

/-- One changed word, entry or sector reaches its place in memory. -/
theorem memOk_tableToMem (s : State) (d : Dirty) (h : s.MemOk) : (s.tableToMem d).MemOk := by
  have put : ∀ d k, (s.putDirty d k).MemOk := by
    intro d k
    cases d with
    | record key => exact memOk_writeNum _ _ _ _ h
    | yard key => exact memOk_writeNum _ _ _ _ h
    | ring q pos => exact memOk_writeEntry _ _ h
    | spill c => exact memOk_writeEntry _ _ h
    | sector k => exact h.of_mem rfl
    | stored k => exact memOk_storedRecords _ _ h
  unfold tableToMem
  split
  · exact h
  · split
    · exact put _ _
    · exact put _ _
    · split
      · exact h.of_mem rfl
      · exact put _ _

/-- All that has changed in a clk reaches memory (R104, R105, R108, R110, R418). -/
theorem memOk_tablesToMem (s : State) (h : s.MemOk) : s.tablesToMem.MemOk := by
  have go : ∀ (l : List Dirty) (s : State), s.MemOk → (l.foldl tableToMem s).MemOk := by
    intro l
    induction l with
    | nil => exact fun _ h => h
    | cons d l ih => exact fun s h => ih _ (memOk_tableToMem s d h)
  exact go _ _ (go _ _ (h.of_mem rfl))

/-- A new HMASK lays the bytes of a stack out anew (R438), and keeps the form. -/
theorem memOk_remask (s : State) (t : Nat) (v : Word) (h : s.MemOk) : (s.remask t v).MemOk := by
  have key : ∀ (d : Nat) (l m : List Host.Cell), Memory.wf m = true →
      Memory.wf (l.foldl (fun m e => Tbl.set 0#8 m (remaskKey t d e.1) e.2) m) = true := by
    intro d l
    induction l with
    | nil => exact fun m hm => hm
    | cons e l ih => exact fun m hm => ih _ (wf_set _ _ hm)
  unfold remask
  simp only
  split
  · exact memOk_setReg _ _ _ h
  · split <;> split <;> exact key _ _ [] rfl

end State

end Sys2Proof.Machine
end

