-- ==== Sys2Proof/Laws/State.lean ====
section
/-!
SUPPORT. What each field of the state is after each update of one part of it, and what the parts are, so that no proof unfolds a record
update.
-/

namespace Sys2Proof.Machine

namespace State

/-! ## setCore -/

@[simp] theorem setCore_core (s : State) (n m : Nat) (k : Core) : (s.setCore n k).core m = if m = n then k else s.core m := Tbl.get_put _ _ _ _ _
theorem setCore_setCore (s : State) (n : Nat) (k l : Core) : (s.setCore n k).setCore n l = s.setCore n l := by simp only [setCore, Tbl.put_put]
@[simp] theorem setCore_agenda (s : State) (n : Nat) (k : Core) : (s.setCore n k).agenda = s.agenda := rfl
@[simp] theorem setCore_turns (s : State) (n : Nat) (k : Core) : (s.setCore n k).turns = s.turns := rfl
@[simp] theorem setCore_agent (s : State) (n : Nat) (k : Core) : (s.setCore n k).agent = s.agent := rfl
@[simp] theorem setCore_fresh (s : State) (n : Nat) (k : Core) : (s.setCore n k).fresh = s.fresh := rfl
@[simp] theorem setCore_pcc (s : State) (n : Nat) (k : Core) : (s.setCore n k).pcc = s.pcc := rfl
@[simp] theorem setCore_mem (s : State) (n : Nat) (k : Core) : (s.setCore n k).mem = s.mem := rfl
@[simp] theorem setCore_poison (s : State) (n : Nat) (k : Core) : (s.setCore n k).poison = s.poison := rfl
@[simp] theorem setCore_l2Poison (s : State) (n : Nat) (k : Core) : (s.setCore n k).l2Poison = s.l2Poison := rfl
@[simp] theorem setCore_sleepUps (s : State) (n : Nat) (k : Core) : (s.setCore n k).sleepUps = s.sleepUps := rfl
@[simp] theorem setCore_yard (s : State) (n : Nat) (k : Core) : (s.setCore n k).yard = s.yard := rfl
@[simp] theorem setCore_flags (s : State) (n : Nat) (k : Core) : (s.setCore n k).flags = s.flags := rfl
@[simp] theorem setCore_ylocks (s : State) (n : Nat) (k : Core) : (s.setCore n k).ylocks = s.ylocks := rfl
@[simp] theorem setCore_seen (s : State) (n : Nat) (k : Core) : (s.setCore n k).seen = s.seen := rfl
@[simp] theorem setCore_invs (s : State) (n : Nat) (k : Core) : (s.setCore n k).invs = s.invs := rfl
@[simp] theorem setCore_plocks (s : State) (n : Nat) (k : Core) : (s.setCore n k).plocks = s.plocks := rfl
@[simp] theorem setCore_hcache (s : State) (n : Nat) (k : Core) : (s.setCore n k).hcache = s.hcache := rfl
@[simp] theorem setCore_hused (s : State) (n : Nat) (k : Core) : (s.setCore n k).hused = s.hused := rfl
@[simp] theorem setCore_domain (s : State) (n : Nat) (k : Core) : (s.setCore n k).domain = s.domain := rfl
@[simp] theorem setCore_upsets (s : State) (n : Nat) (k : Core) : (s.setCore n k).upsets = s.upsets := rfl
@[simp] theorem setCore_corrected (s : State) (n : Nat) (k : Core) : (s.setCore n k).corrected = s.corrected := rfl
@[simp] theorem setCore_harts (s : State) (n : Nat) (k : Core) : (s.setCore n k).harts = s.harts := rfl
@[simp] theorem setCore_resvs (s : State) (n : Nat) (k : Core) : (s.setCore n k).resvs = s.resvs := rfl
@[simp] theorem setCore_crs (s : State) (n : Nat) (k : Core) : (s.setCore n k).crs = s.crs := rfl
@[simp] theorem setCore_dirty (s : State) (n : Nat) (k : Core) : (s.setCore n k).dirty = s.dirty := rfl
@[simp] theorem setCore_saved (s : State) (n : Nat) (k : Core) : (s.setCore n k).saved = s.saved := rfl
@[simp] theorem setCore_lastDie (s : State) (n : Nat) (k : Core) : (s.setCore n k).lastDie = s.lastDie := rfl
@[simp] theorem setCore_target (s : State) (n : Nat) (k : Core) : (s.setCore n k).target = s.target := rfl
@[simp] theorem setCore_queues (s : State) (n : Nat) (k : Core) : (s.setCore n k).queues = s.queues := rfl
@[simp] theorem setCore_teams (s : State) (n : Nat) (k : Core) : (s.setCore n k).teams = s.teams := rfl
@[simp] theorem setCore_preempts (s : State) (n : Nat) (k : Core) : (s.setCore n k).preempts = s.preempts := rfl
@[simp] theorem setCore_reteam (s : State) (n : Nat) (k : Core) : (s.setCore n k).reteam = s.reteam := rfl
@[simp] theorem setCore_codes (s : State) (n : Nat) (k : Core) : (s.setCore n k).codes = s.codes := rfl
@[simp] theorem setCore_svcVec (s : State) (n : Nat) (k : Core) : (s.setCore n k).svcVec = s.svcVec := rfl
@[simp] theorem setCore_svcPa (s : State) (n : Nat) (k : Core) : (s.setCore n k).svcPa = s.svcPa := rfl
@[simp] theorem setCore_svcSize (s : State) (n : Nat) (k : Core) : (s.setCore n k).svcSize = s.svcSize := rfl
@[simp] theorem setCore_interps (s : State) (n : Nat) (k : Core) : (s.setCore n k).interps = s.interps := rfl
@[simp] theorem setCore_regs (s : State) (n : Nat) (k : Core) : (s.setCore n k).regs = s.regs := rfl
@[simp] theorem setCore_peerRegs (s : State) (n : Nat) (k : Core) : (s.setCore n k).peerRegs = s.peerRegs := rfl
@[simp] theorem setCore_noise (s : State) (n : Nat) (k : Core) : (s.setCore n k).noise = s.noise := rfl
@[simp] theorem setCore_dirtyGran (s : State) (n : Nat) (k : Core) : (s.setCore n k).dirtyGran = s.dirtyGran := rfl
@[simp] theorem setCore_outbox (s : State) (n : Nat) (k : Core) : (s.setCore n k).outbox = s.outbox := rfl
@[simp] theorem setCore_unrouted (s : State) (n : Nat) (k : Core) : (s.setCore n k).unrouted = s.unrouted := rfl
@[simp] theorem setCore_merges (s : State) (n : Nat) (k : Core) : (s.setCore n k).merges = s.merges := rfl
@[simp] theorem setCore_ports (s : State) (n : Nat) (k : Core) : (s.setCore n k).ports = s.ports := rfl
@[simp] theorem setCore_trans (s : State) (n : Nat) (k : Core) : (s.setCore n k).trans = s.trans := rfl
@[simp] theorem setCore_reads (s : State) (n : Nat) (k : Core) : (s.setCore n k).reads = s.reads := rfl
@[simp] theorem setCore_applied (s : State) (n : Nat) (k : Core) : (s.setCore n k).applied = s.applied := rfl
@[simp] theorem setCore_lostSecs (s : State) (n : Nat) (k : Core) : (s.setCore n k).lostSecs = s.lostSecs := rfl
@[simp] theorem setCore_linkFail (s : State) (n : Nat) (k : Core) : (s.setCore n k).linkFail = s.linkFail := rfl
@[simp] theorem setCore_govs (s : State) (n : Nat) (k : Core) : (s.setCore n k).govs = s.govs := rfl
@[simp] theorem setCore_therm (s : State) (n : Nat) (k : Core) : (s.setCore n k).therm = s.therm := rfl
@[simp] theorem setCore_belowHot (s : State) (n : Nat) (k : Core) : (s.setCore n k).belowHot = s.belowHot := rfl
@[simp] theorem setCore_belowWarm (s : State) (n : Nat) (k : Core) : (s.setCore n k).belowWarm = s.belowWarm := rfl
@[simp] theorem setCore_twarm (s : State) (n : Nat) (k : Core) : (s.setCore n k).twarm = s.twarm := rfl
@[simp] theorem setCore_thot (s : State) (n : Nat) (k : Core) : (s.setCore n k).thot = s.thot := rfl
@[simp] theorem setCore_ttrip (s : State) (n : Nat) (k : Core) : (s.setCore n k).ttrip = s.ttrip := rfl
@[simp] theorem setCore_inReset (s : State) (n : Nat) (k : Core) : (s.setCore n k).inReset = s.inReset := rfl
@[simp] theorem setCore_clusters (s : State) (n : Nat) (k : Core) : (s.setCore n k).clusters = s.clusters := rfl
@[simp] theorem setCore_shapes (s : State) (n : Nat) (k : Core) : (s.setCore n k).shapes = s.shapes := rfl
@[simp] theorem setCore_jobs (s : State) (n : Nat) (k : Core) : (s.setCore n k).jobs = s.jobs := rfl
@[simp] theorem setCore_colls (s : State) (n : Nat) (k : Core) : (s.setCore n k).colls = s.colls := rfl
@[simp] theorem setCore_contribs (s : State) (n : Nat) (k : Core) : (s.setCore n k).contribs = s.contribs := rfl
@[simp] theorem setCore_order (s : State) (n : Nat) (k : Core) : (s.setCore n k).order = s.order := rfl
@[simp] theorem setCore_tids (s : State) (n : Nat) (k : Core) : (s.setCore n k).tids = s.tids := rfl
@[simp] theorem setCore_bankq (s : State) (n : Nat) (k : Core) : (s.setCore n k).bankq = s.bankq := rfl
@[simp] theorem setCore_boot (s : State) (n : Nat) (k : Core) : (s.setCore n k).boot = s.boot := rfl
@[simp] theorem setCore_eth (s : State) (n : Nat) (k : Core) : (s.setCore n k).eth = s.eth := rfl
@[simp] theorem setCore_spdm (s : State) (n : Nat) (k : Core) : (s.setCore n k).spdm = s.spdm := rfl
@[simp] theorem setCore_cxlUp (s : State) (n : Nat) (k : Core) : (s.setCore n k).cxlUp = s.cxlUp := rfl
@[simp] theorem setCore_cxlBox (s : State) (n : Nat) (k : Core) : (s.setCore n k).cxlBox = s.cxlBox := rfl
@[simp] theorem setCore_cxlBase (s : State) (n : Nat) (k : Core) : (s.setCore n k).cxlBase = s.cxlBase := rfl
@[simp] theorem setCore_cxlSize (s : State) (n : Nat) (k : Core) : (s.setCore n k).cxlSize = s.cxlSize := rfl
@[simp] theorem setCore_hdmSet (s : State) (n : Nat) (k : Core) : (s.setCore n k).hdmSet = s.hdmSet := rfl
@[simp] theorem setCore_boxSet (s : State) (n : Nat) (k : Core) : (s.setCore n k).boxSet = s.boxSet := rfl
@[simp] theorem setCore_hostMem (s : State) (n : Nat) (k : Core) : (s.setCore n k).hostMem = s.hostMem := rfl
@[simp] theorem setCore_hostReqs (s : State) (n : Nat) (k : Core) : (s.setCore n k).hostReqs = s.hostReqs := rfl
@[simp] theorem setCore_hostDone (s : State) (n : Nat) (k : Core) : (s.setCore n k).hostDone = s.hostDone := rfl
@[simp] theorem setCore_cxlOut (s : State) (n : Nat) (k : Core) : (s.setCore n k).cxlOut = s.cxlOut := rfl
@[simp] theorem setCore_linkHeld (s : State) (n : Nat) (k : Core) : (s.setCore n k).linkHeld = s.linkHeld := rfl
@[simp] theorem setCore_cxlHeld (s : State) (n : Nat) (k : Core) : (s.setCore n k).cxlHeld = s.cxlHeld := rfl
@[simp] theorem setCore_hart (s : State) (n m : Nat) (k : Core) : (s.setCore n k).hart m = s.hart m := rfl
@[simp] theorem setCore_queue (s : State) (n m : Nat) (k : Core) : (s.setCore n k).queue m = s.queue m := rfl
@[simp] theorem setCore_interp (s : State) (n m : Nat) (k : Core) : (s.setCore n k).interp m = s.interp m := rfl
@[simp] theorem setCore_port (s : State) (n m : Nat) (k : Core) : (s.setCore n k).port m = s.port m := rfl
@[simp] theorem setCore_gov (s : State) (n m : Nat) (k : Core) : (s.setCore n k).gov m = s.gov m := rfl
@[simp] theorem setCore_cluster (s : State) (n m : Nat) (k : Core) : (s.setCore n k).cluster m = s.cluster m := rfl
@[simp] theorem setCore_byte (s : State) (n a : Nat) (k : Core) : (s.setCore n k).byte a = s.byte a := rfl

/-! ## setHart -/

@[simp] theorem setHart_hart (s : State) (n m : Nat) (k : Hart) : (s.setHart n k).hart m = if m = n then k else s.hart m := Tbl.get_put _ _ _ _ _
theorem setHart_setHart (s : State) (n : Nat) (k l : Hart) : (s.setHart n k).setHart n l = s.setHart n l := by simp only [setHart, Tbl.put_put]
@[simp] theorem setHart_agenda (s : State) (n : Nat) (k : Hart) : (s.setHart n k).agenda = s.agenda := rfl
@[simp] theorem setHart_turns (s : State) (n : Nat) (k : Hart) : (s.setHart n k).turns = s.turns := rfl
@[simp] theorem setHart_agent (s : State) (n : Nat) (k : Hart) : (s.setHart n k).agent = s.agent := rfl
@[simp] theorem setHart_fresh (s : State) (n : Nat) (k : Hart) : (s.setHart n k).fresh = s.fresh := rfl
@[simp] theorem setHart_pcc (s : State) (n : Nat) (k : Hart) : (s.setHart n k).pcc = s.pcc := rfl
@[simp] theorem setHart_mem (s : State) (n : Nat) (k : Hart) : (s.setHart n k).mem = s.mem := rfl
@[simp] theorem setHart_poison (s : State) (n : Nat) (k : Hart) : (s.setHart n k).poison = s.poison := rfl
@[simp] theorem setHart_l2Poison (s : State) (n : Nat) (k : Hart) : (s.setHart n k).l2Poison = s.l2Poison := rfl
@[simp] theorem setHart_sleepUps (s : State) (n : Nat) (k : Hart) : (s.setHart n k).sleepUps = s.sleepUps := rfl
@[simp] theorem setHart_yard (s : State) (n : Nat) (k : Hart) : (s.setHart n k).yard = s.yard := rfl
@[simp] theorem setHart_flags (s : State) (n : Nat) (k : Hart) : (s.setHart n k).flags = s.flags := rfl
@[simp] theorem setHart_ylocks (s : State) (n : Nat) (k : Hart) : (s.setHart n k).ylocks = s.ylocks := rfl
@[simp] theorem setHart_seen (s : State) (n : Nat) (k : Hart) : (s.setHart n k).seen = s.seen := rfl
@[simp] theorem setHart_invs (s : State) (n : Nat) (k : Hart) : (s.setHart n k).invs = s.invs := rfl
@[simp] theorem setHart_plocks (s : State) (n : Nat) (k : Hart) : (s.setHart n k).plocks = s.plocks := rfl
@[simp] theorem setHart_hcache (s : State) (n : Nat) (k : Hart) : (s.setHart n k).hcache = s.hcache := rfl
@[simp] theorem setHart_hused (s : State) (n : Nat) (k : Hart) : (s.setHart n k).hused = s.hused := rfl
@[simp] theorem setHart_domain (s : State) (n : Nat) (k : Hart) : (s.setHart n k).domain = s.domain := rfl
@[simp] theorem setHart_upsets (s : State) (n : Nat) (k : Hart) : (s.setHart n k).upsets = s.upsets := rfl
@[simp] theorem setHart_corrected (s : State) (n : Nat) (k : Hart) : (s.setHart n k).corrected = s.corrected := rfl
@[simp] theorem setHart_cores (s : State) (n : Nat) (k : Hart) : (s.setHart n k).cores = s.cores := rfl
@[simp] theorem setHart_resvs (s : State) (n : Nat) (k : Hart) : (s.setHart n k).resvs = s.resvs := rfl
@[simp] theorem setHart_crs (s : State) (n : Nat) (k : Hart) : (s.setHart n k).crs = s.crs := rfl
@[simp] theorem setHart_dirty (s : State) (n : Nat) (k : Hart) : (s.setHart n k).dirty = s.dirty := rfl
@[simp] theorem setHart_saved (s : State) (n : Nat) (k : Hart) : (s.setHart n k).saved = s.saved := rfl
@[simp] theorem setHart_lastDie (s : State) (n : Nat) (k : Hart) : (s.setHart n k).lastDie = s.lastDie := rfl
@[simp] theorem setHart_target (s : State) (n : Nat) (k : Hart) : (s.setHart n k).target = s.target := rfl
@[simp] theorem setHart_queues (s : State) (n : Nat) (k : Hart) : (s.setHart n k).queues = s.queues := rfl
@[simp] theorem setHart_teams (s : State) (n : Nat) (k : Hart) : (s.setHart n k).teams = s.teams := rfl
@[simp] theorem setHart_preempts (s : State) (n : Nat) (k : Hart) : (s.setHart n k).preempts = s.preempts := rfl
@[simp] theorem setHart_reteam (s : State) (n : Nat) (k : Hart) : (s.setHart n k).reteam = s.reteam := rfl
@[simp] theorem setHart_codes (s : State) (n : Nat) (k : Hart) : (s.setHart n k).codes = s.codes := rfl
@[simp] theorem setHart_svcVec (s : State) (n : Nat) (k : Hart) : (s.setHart n k).svcVec = s.svcVec := rfl
@[simp] theorem setHart_svcPa (s : State) (n : Nat) (k : Hart) : (s.setHart n k).svcPa = s.svcPa := rfl
@[simp] theorem setHart_svcSize (s : State) (n : Nat) (k : Hart) : (s.setHart n k).svcSize = s.svcSize := rfl
@[simp] theorem setHart_interps (s : State) (n : Nat) (k : Hart) : (s.setHart n k).interps = s.interps := rfl
@[simp] theorem setHart_regs (s : State) (n : Nat) (k : Hart) : (s.setHart n k).regs = s.regs := rfl
@[simp] theorem setHart_peerRegs (s : State) (n : Nat) (k : Hart) : (s.setHart n k).peerRegs = s.peerRegs := rfl
@[simp] theorem setHart_noise (s : State) (n : Nat) (k : Hart) : (s.setHart n k).noise = s.noise := rfl
@[simp] theorem setHart_dirtyGran (s : State) (n : Nat) (k : Hart) : (s.setHart n k).dirtyGran = s.dirtyGran := rfl
@[simp] theorem setHart_outbox (s : State) (n : Nat) (k : Hart) : (s.setHart n k).outbox = s.outbox := rfl
@[simp] theorem setHart_unrouted (s : State) (n : Nat) (k : Hart) : (s.setHart n k).unrouted = s.unrouted := rfl
@[simp] theorem setHart_merges (s : State) (n : Nat) (k : Hart) : (s.setHart n k).merges = s.merges := rfl
@[simp] theorem setHart_ports (s : State) (n : Nat) (k : Hart) : (s.setHart n k).ports = s.ports := rfl
@[simp] theorem setHart_trans (s : State) (n : Nat) (k : Hart) : (s.setHart n k).trans = s.trans := rfl
@[simp] theorem setHart_reads (s : State) (n : Nat) (k : Hart) : (s.setHart n k).reads = s.reads := rfl
@[simp] theorem setHart_applied (s : State) (n : Nat) (k : Hart) : (s.setHart n k).applied = s.applied := rfl
@[simp] theorem setHart_lostSecs (s : State) (n : Nat) (k : Hart) : (s.setHart n k).lostSecs = s.lostSecs := rfl
@[simp] theorem setHart_linkFail (s : State) (n : Nat) (k : Hart) : (s.setHart n k).linkFail = s.linkFail := rfl
@[simp] theorem setHart_govs (s : State) (n : Nat) (k : Hart) : (s.setHart n k).govs = s.govs := rfl
@[simp] theorem setHart_therm (s : State) (n : Nat) (k : Hart) : (s.setHart n k).therm = s.therm := rfl
@[simp] theorem setHart_belowHot (s : State) (n : Nat) (k : Hart) : (s.setHart n k).belowHot = s.belowHot := rfl
@[simp] theorem setHart_belowWarm (s : State) (n : Nat) (k : Hart) : (s.setHart n k).belowWarm = s.belowWarm := rfl
@[simp] theorem setHart_twarm (s : State) (n : Nat) (k : Hart) : (s.setHart n k).twarm = s.twarm := rfl
@[simp] theorem setHart_thot (s : State) (n : Nat) (k : Hart) : (s.setHart n k).thot = s.thot := rfl
@[simp] theorem setHart_ttrip (s : State) (n : Nat) (k : Hart) : (s.setHart n k).ttrip = s.ttrip := rfl
@[simp] theorem setHart_inReset (s : State) (n : Nat) (k : Hart) : (s.setHart n k).inReset = s.inReset := rfl
@[simp] theorem setHart_clusters (s : State) (n : Nat) (k : Hart) : (s.setHart n k).clusters = s.clusters := rfl
@[simp] theorem setHart_shapes (s : State) (n : Nat) (k : Hart) : (s.setHart n k).shapes = s.shapes := rfl
@[simp] theorem setHart_jobs (s : State) (n : Nat) (k : Hart) : (s.setHart n k).jobs = s.jobs := rfl
@[simp] theorem setHart_colls (s : State) (n : Nat) (k : Hart) : (s.setHart n k).colls = s.colls := rfl
@[simp] theorem setHart_contribs (s : State) (n : Nat) (k : Hart) : (s.setHart n k).contribs = s.contribs := rfl
@[simp] theorem setHart_order (s : State) (n : Nat) (k : Hart) : (s.setHart n k).order = s.order := rfl
@[simp] theorem setHart_tids (s : State) (n : Nat) (k : Hart) : (s.setHart n k).tids = s.tids := rfl
@[simp] theorem setHart_bankq (s : State) (n : Nat) (k : Hart) : (s.setHart n k).bankq = s.bankq := rfl
@[simp] theorem setHart_boot (s : State) (n : Nat) (k : Hart) : (s.setHart n k).boot = s.boot := rfl
@[simp] theorem setHart_eth (s : State) (n : Nat) (k : Hart) : (s.setHart n k).eth = s.eth := rfl
@[simp] theorem setHart_spdm (s : State) (n : Nat) (k : Hart) : (s.setHart n k).spdm = s.spdm := rfl
@[simp] theorem setHart_cxlUp (s : State) (n : Nat) (k : Hart) : (s.setHart n k).cxlUp = s.cxlUp := rfl
@[simp] theorem setHart_cxlBox (s : State) (n : Nat) (k : Hart) : (s.setHart n k).cxlBox = s.cxlBox := rfl
@[simp] theorem setHart_cxlBase (s : State) (n : Nat) (k : Hart) : (s.setHart n k).cxlBase = s.cxlBase := rfl
@[simp] theorem setHart_cxlSize (s : State) (n : Nat) (k : Hart) : (s.setHart n k).cxlSize = s.cxlSize := rfl
@[simp] theorem setHart_hdmSet (s : State) (n : Nat) (k : Hart) : (s.setHart n k).hdmSet = s.hdmSet := rfl
@[simp] theorem setHart_boxSet (s : State) (n : Nat) (k : Hart) : (s.setHart n k).boxSet = s.boxSet := rfl
@[simp] theorem setHart_hostMem (s : State) (n : Nat) (k : Hart) : (s.setHart n k).hostMem = s.hostMem := rfl
@[simp] theorem setHart_hostReqs (s : State) (n : Nat) (k : Hart) : (s.setHart n k).hostReqs = s.hostReqs := rfl
@[simp] theorem setHart_hostDone (s : State) (n : Nat) (k : Hart) : (s.setHart n k).hostDone = s.hostDone := rfl
@[simp] theorem setHart_cxlOut (s : State) (n : Nat) (k : Hart) : (s.setHart n k).cxlOut = s.cxlOut := rfl
@[simp] theorem setHart_linkHeld (s : State) (n : Nat) (k : Hart) : (s.setHart n k).linkHeld = s.linkHeld := rfl
@[simp] theorem setHart_cxlHeld (s : State) (n : Nat) (k : Hart) : (s.setHart n k).cxlHeld = s.cxlHeld := rfl
@[simp] theorem setHart_core (s : State) (n m : Nat) (k : Hart) : (s.setHart n k).core m = s.core m := rfl
@[simp] theorem setHart_queue (s : State) (n m : Nat) (k : Hart) : (s.setHart n k).queue m = s.queue m := rfl
@[simp] theorem setHart_interp (s : State) (n m : Nat) (k : Hart) : (s.setHart n k).interp m = s.interp m := rfl
@[simp] theorem setHart_port (s : State) (n m : Nat) (k : Hart) : (s.setHart n k).port m = s.port m := rfl
@[simp] theorem setHart_gov (s : State) (n m : Nat) (k : Hart) : (s.setHart n k).gov m = s.gov m := rfl
@[simp] theorem setHart_cluster (s : State) (n m : Nat) (k : Hart) : (s.setHart n k).cluster m = s.cluster m := rfl
@[simp] theorem setHart_byte (s : State) (n a : Nat) (k : Hart) : (s.setHart n k).byte a = s.byte a := rfl

/-! ## setQueue -/

@[simp] theorem setQueue_queue (s : State) (n m : Nat) (k : Queue) : (s.setQueue n k).queue m = if m = n then k else s.queue m := Tbl.get_put _ _ _ _ _
theorem setQueue_setQueue (s : State) (n : Nat) (k l : Queue) : (s.setQueue n k).setQueue n l = s.setQueue n l := by simp only [setQueue, Tbl.put_put]
@[simp] theorem setQueue_agenda (s : State) (n : Nat) (k : Queue) : (s.setQueue n k).agenda = s.agenda := rfl
@[simp] theorem setQueue_turns (s : State) (n : Nat) (k : Queue) : (s.setQueue n k).turns = s.turns := rfl
@[simp] theorem setQueue_agent (s : State) (n : Nat) (k : Queue) : (s.setQueue n k).agent = s.agent := rfl
@[simp] theorem setQueue_fresh (s : State) (n : Nat) (k : Queue) : (s.setQueue n k).fresh = s.fresh := rfl
@[simp] theorem setQueue_pcc (s : State) (n : Nat) (k : Queue) : (s.setQueue n k).pcc = s.pcc := rfl
@[simp] theorem setQueue_mem (s : State) (n : Nat) (k : Queue) : (s.setQueue n k).mem = s.mem := rfl
@[simp] theorem setQueue_poison (s : State) (n : Nat) (k : Queue) : (s.setQueue n k).poison = s.poison := rfl
@[simp] theorem setQueue_l2Poison (s : State) (n : Nat) (k : Queue) : (s.setQueue n k).l2Poison = s.l2Poison := rfl
@[simp] theorem setQueue_sleepUps (s : State) (n : Nat) (k : Queue) : (s.setQueue n k).sleepUps = s.sleepUps := rfl
@[simp] theorem setQueue_yard (s : State) (n : Nat) (k : Queue) : (s.setQueue n k).yard = s.yard := rfl
@[simp] theorem setQueue_flags (s : State) (n : Nat) (k : Queue) : (s.setQueue n k).flags = s.flags := rfl
@[simp] theorem setQueue_ylocks (s : State) (n : Nat) (k : Queue) : (s.setQueue n k).ylocks = s.ylocks := rfl
@[simp] theorem setQueue_seen (s : State) (n : Nat) (k : Queue) : (s.setQueue n k).seen = s.seen := rfl
@[simp] theorem setQueue_invs (s : State) (n : Nat) (k : Queue) : (s.setQueue n k).invs = s.invs := rfl
@[simp] theorem setQueue_plocks (s : State) (n : Nat) (k : Queue) : (s.setQueue n k).plocks = s.plocks := rfl
@[simp] theorem setQueue_hcache (s : State) (n : Nat) (k : Queue) : (s.setQueue n k).hcache = s.hcache := rfl
@[simp] theorem setQueue_hused (s : State) (n : Nat) (k : Queue) : (s.setQueue n k).hused = s.hused := rfl
@[simp] theorem setQueue_domain (s : State) (n : Nat) (k : Queue) : (s.setQueue n k).domain = s.domain := rfl
@[simp] theorem setQueue_upsets (s : State) (n : Nat) (k : Queue) : (s.setQueue n k).upsets = s.upsets := rfl
@[simp] theorem setQueue_corrected (s : State) (n : Nat) (k : Queue) : (s.setQueue n k).corrected = s.corrected := rfl
@[simp] theorem setQueue_cores (s : State) (n : Nat) (k : Queue) : (s.setQueue n k).cores = s.cores := rfl
@[simp] theorem setQueue_harts (s : State) (n : Nat) (k : Queue) : (s.setQueue n k).harts = s.harts := rfl
@[simp] theorem setQueue_resvs (s : State) (n : Nat) (k : Queue) : (s.setQueue n k).resvs = s.resvs := rfl
@[simp] theorem setQueue_crs (s : State) (n : Nat) (k : Queue) : (s.setQueue n k).crs = s.crs := rfl
@[simp] theorem setQueue_dirty (s : State) (n : Nat) (k : Queue) : (s.setQueue n k).dirty = s.dirty := rfl
@[simp] theorem setQueue_saved (s : State) (n : Nat) (k : Queue) : (s.setQueue n k).saved = s.saved := rfl
@[simp] theorem setQueue_lastDie (s : State) (n : Nat) (k : Queue) : (s.setQueue n k).lastDie = s.lastDie := rfl
@[simp] theorem setQueue_target (s : State) (n : Nat) (k : Queue) : (s.setQueue n k).target = s.target := rfl
@[simp] theorem setQueue_teams (s : State) (n : Nat) (k : Queue) : (s.setQueue n k).teams = s.teams := rfl
@[simp] theorem setQueue_preempts (s : State) (n : Nat) (k : Queue) : (s.setQueue n k).preempts = s.preempts := rfl
@[simp] theorem setQueue_reteam (s : State) (n : Nat) (k : Queue) : (s.setQueue n k).reteam = s.reteam := rfl
@[simp] theorem setQueue_codes (s : State) (n : Nat) (k : Queue) : (s.setQueue n k).codes = s.codes := rfl
@[simp] theorem setQueue_svcVec (s : State) (n : Nat) (k : Queue) : (s.setQueue n k).svcVec = s.svcVec := rfl
@[simp] theorem setQueue_svcPa (s : State) (n : Nat) (k : Queue) : (s.setQueue n k).svcPa = s.svcPa := rfl
@[simp] theorem setQueue_svcSize (s : State) (n : Nat) (k : Queue) : (s.setQueue n k).svcSize = s.svcSize := rfl
@[simp] theorem setQueue_interps (s : State) (n : Nat) (k : Queue) : (s.setQueue n k).interps = s.interps := rfl
@[simp] theorem setQueue_regs (s : State) (n : Nat) (k : Queue) : (s.setQueue n k).regs = s.regs := rfl
@[simp] theorem setQueue_peerRegs (s : State) (n : Nat) (k : Queue) : (s.setQueue n k).peerRegs = s.peerRegs := rfl
@[simp] theorem setQueue_noise (s : State) (n : Nat) (k : Queue) : (s.setQueue n k).noise = s.noise := rfl
@[simp] theorem setQueue_dirtyGran (s : State) (n : Nat) (k : Queue) : (s.setQueue n k).dirtyGran = s.dirtyGran := rfl
@[simp] theorem setQueue_outbox (s : State) (n : Nat) (k : Queue) : (s.setQueue n k).outbox = s.outbox := rfl
@[simp] theorem setQueue_unrouted (s : State) (n : Nat) (k : Queue) : (s.setQueue n k).unrouted = s.unrouted := rfl
@[simp] theorem setQueue_merges (s : State) (n : Nat) (k : Queue) : (s.setQueue n k).merges = s.merges := rfl
@[simp] theorem setQueue_ports (s : State) (n : Nat) (k : Queue) : (s.setQueue n k).ports = s.ports := rfl
@[simp] theorem setQueue_trans (s : State) (n : Nat) (k : Queue) : (s.setQueue n k).trans = s.trans := rfl
@[simp] theorem setQueue_reads (s : State) (n : Nat) (k : Queue) : (s.setQueue n k).reads = s.reads := rfl
@[simp] theorem setQueue_applied (s : State) (n : Nat) (k : Queue) : (s.setQueue n k).applied = s.applied := rfl
@[simp] theorem setQueue_lostSecs (s : State) (n : Nat) (k : Queue) : (s.setQueue n k).lostSecs = s.lostSecs := rfl
@[simp] theorem setQueue_linkFail (s : State) (n : Nat) (k : Queue) : (s.setQueue n k).linkFail = s.linkFail := rfl
@[simp] theorem setQueue_govs (s : State) (n : Nat) (k : Queue) : (s.setQueue n k).govs = s.govs := rfl
@[simp] theorem setQueue_therm (s : State) (n : Nat) (k : Queue) : (s.setQueue n k).therm = s.therm := rfl
@[simp] theorem setQueue_belowHot (s : State) (n : Nat) (k : Queue) : (s.setQueue n k).belowHot = s.belowHot := rfl
@[simp] theorem setQueue_belowWarm (s : State) (n : Nat) (k : Queue) : (s.setQueue n k).belowWarm = s.belowWarm := rfl
@[simp] theorem setQueue_twarm (s : State) (n : Nat) (k : Queue) : (s.setQueue n k).twarm = s.twarm := rfl
@[simp] theorem setQueue_thot (s : State) (n : Nat) (k : Queue) : (s.setQueue n k).thot = s.thot := rfl
@[simp] theorem setQueue_ttrip (s : State) (n : Nat) (k : Queue) : (s.setQueue n k).ttrip = s.ttrip := rfl
@[simp] theorem setQueue_inReset (s : State) (n : Nat) (k : Queue) : (s.setQueue n k).inReset = s.inReset := rfl
@[simp] theorem setQueue_clusters (s : State) (n : Nat) (k : Queue) : (s.setQueue n k).clusters = s.clusters := rfl
@[simp] theorem setQueue_shapes (s : State) (n : Nat) (k : Queue) : (s.setQueue n k).shapes = s.shapes := rfl
@[simp] theorem setQueue_jobs (s : State) (n : Nat) (k : Queue) : (s.setQueue n k).jobs = s.jobs := rfl
@[simp] theorem setQueue_colls (s : State) (n : Nat) (k : Queue) : (s.setQueue n k).colls = s.colls := rfl
@[simp] theorem setQueue_contribs (s : State) (n : Nat) (k : Queue) : (s.setQueue n k).contribs = s.contribs := rfl
@[simp] theorem setQueue_order (s : State) (n : Nat) (k : Queue) : (s.setQueue n k).order = s.order := rfl
@[simp] theorem setQueue_tids (s : State) (n : Nat) (k : Queue) : (s.setQueue n k).tids = s.tids := rfl
@[simp] theorem setQueue_bankq (s : State) (n : Nat) (k : Queue) : (s.setQueue n k).bankq = s.bankq := rfl
@[simp] theorem setQueue_boot (s : State) (n : Nat) (k : Queue) : (s.setQueue n k).boot = s.boot := rfl
@[simp] theorem setQueue_eth (s : State) (n : Nat) (k : Queue) : (s.setQueue n k).eth = s.eth := rfl
@[simp] theorem setQueue_spdm (s : State) (n : Nat) (k : Queue) : (s.setQueue n k).spdm = s.spdm := rfl
@[simp] theorem setQueue_cxlUp (s : State) (n : Nat) (k : Queue) : (s.setQueue n k).cxlUp = s.cxlUp := rfl
@[simp] theorem setQueue_cxlBox (s : State) (n : Nat) (k : Queue) : (s.setQueue n k).cxlBox = s.cxlBox := rfl
@[simp] theorem setQueue_cxlBase (s : State) (n : Nat) (k : Queue) : (s.setQueue n k).cxlBase = s.cxlBase := rfl
@[simp] theorem setQueue_cxlSize (s : State) (n : Nat) (k : Queue) : (s.setQueue n k).cxlSize = s.cxlSize := rfl
@[simp] theorem setQueue_hdmSet (s : State) (n : Nat) (k : Queue) : (s.setQueue n k).hdmSet = s.hdmSet := rfl
@[simp] theorem setQueue_boxSet (s : State) (n : Nat) (k : Queue) : (s.setQueue n k).boxSet = s.boxSet := rfl
@[simp] theorem setQueue_hostMem (s : State) (n : Nat) (k : Queue) : (s.setQueue n k).hostMem = s.hostMem := rfl
@[simp] theorem setQueue_hostReqs (s : State) (n : Nat) (k : Queue) : (s.setQueue n k).hostReqs = s.hostReqs := rfl
@[simp] theorem setQueue_hostDone (s : State) (n : Nat) (k : Queue) : (s.setQueue n k).hostDone = s.hostDone := rfl
@[simp] theorem setQueue_cxlOut (s : State) (n : Nat) (k : Queue) : (s.setQueue n k).cxlOut = s.cxlOut := rfl
@[simp] theorem setQueue_linkHeld (s : State) (n : Nat) (k : Queue) : (s.setQueue n k).linkHeld = s.linkHeld := rfl
@[simp] theorem setQueue_cxlHeld (s : State) (n : Nat) (k : Queue) : (s.setQueue n k).cxlHeld = s.cxlHeld := rfl
@[simp] theorem setQueue_core (s : State) (n m : Nat) (k : Queue) : (s.setQueue n k).core m = s.core m := rfl
@[simp] theorem setQueue_hart (s : State) (n m : Nat) (k : Queue) : (s.setQueue n k).hart m = s.hart m := rfl
@[simp] theorem setQueue_interp (s : State) (n m : Nat) (k : Queue) : (s.setQueue n k).interp m = s.interp m := rfl
@[simp] theorem setQueue_port (s : State) (n m : Nat) (k : Queue) : (s.setQueue n k).port m = s.port m := rfl
@[simp] theorem setQueue_gov (s : State) (n m : Nat) (k : Queue) : (s.setQueue n k).gov m = s.gov m := rfl
@[simp] theorem setQueue_cluster (s : State) (n m : Nat) (k : Queue) : (s.setQueue n k).cluster m = s.cluster m := rfl
@[simp] theorem setQueue_byte (s : State) (n a : Nat) (k : Queue) : (s.setQueue n k).byte a = s.byte a := rfl

/-! ## setInterp -/

@[simp] theorem setInterp_interp (s : State) (n m : Nat) (k : Interp) : (s.setInterp n k).interp m = if m = n then k else s.interp m := Tbl.get_put _ _ _ _ _
theorem setInterp_setInterp (s : State) (n : Nat) (k l : Interp) : (s.setInterp n k).setInterp n l = s.setInterp n l := by simp only [setInterp, Tbl.put_put]
@[simp] theorem setInterp_agenda (s : State) (n : Nat) (k : Interp) : (s.setInterp n k).agenda = s.agenda := rfl
@[simp] theorem setInterp_turns (s : State) (n : Nat) (k : Interp) : (s.setInterp n k).turns = s.turns := rfl
@[simp] theorem setInterp_agent (s : State) (n : Nat) (k : Interp) : (s.setInterp n k).agent = s.agent := rfl
@[simp] theorem setInterp_fresh (s : State) (n : Nat) (k : Interp) : (s.setInterp n k).fresh = s.fresh := rfl
@[simp] theorem setInterp_pcc (s : State) (n : Nat) (k : Interp) : (s.setInterp n k).pcc = s.pcc := rfl
@[simp] theorem setInterp_mem (s : State) (n : Nat) (k : Interp) : (s.setInterp n k).mem = s.mem := rfl
@[simp] theorem setInterp_poison (s : State) (n : Nat) (k : Interp) : (s.setInterp n k).poison = s.poison := rfl
@[simp] theorem setInterp_l2Poison (s : State) (n : Nat) (k : Interp) : (s.setInterp n k).l2Poison = s.l2Poison := rfl
@[simp] theorem setInterp_sleepUps (s : State) (n : Nat) (k : Interp) : (s.setInterp n k).sleepUps = s.sleepUps := rfl
@[simp] theorem setInterp_yard (s : State) (n : Nat) (k : Interp) : (s.setInterp n k).yard = s.yard := rfl
@[simp] theorem setInterp_flags (s : State) (n : Nat) (k : Interp) : (s.setInterp n k).flags = s.flags := rfl
@[simp] theorem setInterp_ylocks (s : State) (n : Nat) (k : Interp) : (s.setInterp n k).ylocks = s.ylocks := rfl
@[simp] theorem setInterp_seen (s : State) (n : Nat) (k : Interp) : (s.setInterp n k).seen = s.seen := rfl
@[simp] theorem setInterp_invs (s : State) (n : Nat) (k : Interp) : (s.setInterp n k).invs = s.invs := rfl
@[simp] theorem setInterp_plocks (s : State) (n : Nat) (k : Interp) : (s.setInterp n k).plocks = s.plocks := rfl
@[simp] theorem setInterp_hcache (s : State) (n : Nat) (k : Interp) : (s.setInterp n k).hcache = s.hcache := rfl
@[simp] theorem setInterp_hused (s : State) (n : Nat) (k : Interp) : (s.setInterp n k).hused = s.hused := rfl
@[simp] theorem setInterp_domain (s : State) (n : Nat) (k : Interp) : (s.setInterp n k).domain = s.domain := rfl
@[simp] theorem setInterp_upsets (s : State) (n : Nat) (k : Interp) : (s.setInterp n k).upsets = s.upsets := rfl
@[simp] theorem setInterp_corrected (s : State) (n : Nat) (k : Interp) : (s.setInterp n k).corrected = s.corrected := rfl
@[simp] theorem setInterp_cores (s : State) (n : Nat) (k : Interp) : (s.setInterp n k).cores = s.cores := rfl
@[simp] theorem setInterp_harts (s : State) (n : Nat) (k : Interp) : (s.setInterp n k).harts = s.harts := rfl
@[simp] theorem setInterp_resvs (s : State) (n : Nat) (k : Interp) : (s.setInterp n k).resvs = s.resvs := rfl
@[simp] theorem setInterp_crs (s : State) (n : Nat) (k : Interp) : (s.setInterp n k).crs = s.crs := rfl
@[simp] theorem setInterp_dirty (s : State) (n : Nat) (k : Interp) : (s.setInterp n k).dirty = s.dirty := rfl
@[simp] theorem setInterp_saved (s : State) (n : Nat) (k : Interp) : (s.setInterp n k).saved = s.saved := rfl
@[simp] theorem setInterp_lastDie (s : State) (n : Nat) (k : Interp) : (s.setInterp n k).lastDie = s.lastDie := rfl
@[simp] theorem setInterp_target (s : State) (n : Nat) (k : Interp) : (s.setInterp n k).target = s.target := rfl
@[simp] theorem setInterp_queues (s : State) (n : Nat) (k : Interp) : (s.setInterp n k).queues = s.queues := rfl
@[simp] theorem setInterp_teams (s : State) (n : Nat) (k : Interp) : (s.setInterp n k).teams = s.teams := rfl
@[simp] theorem setInterp_preempts (s : State) (n : Nat) (k : Interp) : (s.setInterp n k).preempts = s.preempts := rfl
@[simp] theorem setInterp_reteam (s : State) (n : Nat) (k : Interp) : (s.setInterp n k).reteam = s.reteam := rfl
@[simp] theorem setInterp_codes (s : State) (n : Nat) (k : Interp) : (s.setInterp n k).codes = s.codes := rfl
@[simp] theorem setInterp_svcVec (s : State) (n : Nat) (k : Interp) : (s.setInterp n k).svcVec = s.svcVec := rfl
@[simp] theorem setInterp_svcPa (s : State) (n : Nat) (k : Interp) : (s.setInterp n k).svcPa = s.svcPa := rfl
@[simp] theorem setInterp_svcSize (s : State) (n : Nat) (k : Interp) : (s.setInterp n k).svcSize = s.svcSize := rfl
@[simp] theorem setInterp_regs (s : State) (n : Nat) (k : Interp) : (s.setInterp n k).regs = s.regs := rfl
@[simp] theorem setInterp_peerRegs (s : State) (n : Nat) (k : Interp) : (s.setInterp n k).peerRegs = s.peerRegs := rfl
@[simp] theorem setInterp_noise (s : State) (n : Nat) (k : Interp) : (s.setInterp n k).noise = s.noise := rfl
@[simp] theorem setInterp_dirtyGran (s : State) (n : Nat) (k : Interp) : (s.setInterp n k).dirtyGran = s.dirtyGran := rfl
@[simp] theorem setInterp_outbox (s : State) (n : Nat) (k : Interp) : (s.setInterp n k).outbox = s.outbox := rfl
@[simp] theorem setInterp_unrouted (s : State) (n : Nat) (k : Interp) : (s.setInterp n k).unrouted = s.unrouted := rfl
@[simp] theorem setInterp_merges (s : State) (n : Nat) (k : Interp) : (s.setInterp n k).merges = s.merges := rfl
@[simp] theorem setInterp_ports (s : State) (n : Nat) (k : Interp) : (s.setInterp n k).ports = s.ports := rfl
@[simp] theorem setInterp_trans (s : State) (n : Nat) (k : Interp) : (s.setInterp n k).trans = s.trans := rfl
@[simp] theorem setInterp_reads (s : State) (n : Nat) (k : Interp) : (s.setInterp n k).reads = s.reads := rfl
@[simp] theorem setInterp_applied (s : State) (n : Nat) (k : Interp) : (s.setInterp n k).applied = s.applied := rfl
@[simp] theorem setInterp_lostSecs (s : State) (n : Nat) (k : Interp) : (s.setInterp n k).lostSecs = s.lostSecs := rfl
@[simp] theorem setInterp_linkFail (s : State) (n : Nat) (k : Interp) : (s.setInterp n k).linkFail = s.linkFail := rfl
@[simp] theorem setInterp_govs (s : State) (n : Nat) (k : Interp) : (s.setInterp n k).govs = s.govs := rfl
@[simp] theorem setInterp_therm (s : State) (n : Nat) (k : Interp) : (s.setInterp n k).therm = s.therm := rfl
@[simp] theorem setInterp_belowHot (s : State) (n : Nat) (k : Interp) : (s.setInterp n k).belowHot = s.belowHot := rfl
@[simp] theorem setInterp_belowWarm (s : State) (n : Nat) (k : Interp) : (s.setInterp n k).belowWarm = s.belowWarm := rfl
@[simp] theorem setInterp_twarm (s : State) (n : Nat) (k : Interp) : (s.setInterp n k).twarm = s.twarm := rfl
@[simp] theorem setInterp_thot (s : State) (n : Nat) (k : Interp) : (s.setInterp n k).thot = s.thot := rfl
@[simp] theorem setInterp_ttrip (s : State) (n : Nat) (k : Interp) : (s.setInterp n k).ttrip = s.ttrip := rfl
@[simp] theorem setInterp_inReset (s : State) (n : Nat) (k : Interp) : (s.setInterp n k).inReset = s.inReset := rfl
@[simp] theorem setInterp_clusters (s : State) (n : Nat) (k : Interp) : (s.setInterp n k).clusters = s.clusters := rfl
@[simp] theorem setInterp_shapes (s : State) (n : Nat) (k : Interp) : (s.setInterp n k).shapes = s.shapes := rfl
@[simp] theorem setInterp_jobs (s : State) (n : Nat) (k : Interp) : (s.setInterp n k).jobs = s.jobs := rfl
@[simp] theorem setInterp_colls (s : State) (n : Nat) (k : Interp) : (s.setInterp n k).colls = s.colls := rfl
@[simp] theorem setInterp_contribs (s : State) (n : Nat) (k : Interp) : (s.setInterp n k).contribs = s.contribs := rfl
@[simp] theorem setInterp_order (s : State) (n : Nat) (k : Interp) : (s.setInterp n k).order = s.order := rfl
@[simp] theorem setInterp_tids (s : State) (n : Nat) (k : Interp) : (s.setInterp n k).tids = s.tids := rfl
@[simp] theorem setInterp_bankq (s : State) (n : Nat) (k : Interp) : (s.setInterp n k).bankq = s.bankq := rfl
@[simp] theorem setInterp_boot (s : State) (n : Nat) (k : Interp) : (s.setInterp n k).boot = s.boot := rfl
@[simp] theorem setInterp_eth (s : State) (n : Nat) (k : Interp) : (s.setInterp n k).eth = s.eth := rfl
@[simp] theorem setInterp_spdm (s : State) (n : Nat) (k : Interp) : (s.setInterp n k).spdm = s.spdm := rfl
@[simp] theorem setInterp_cxlUp (s : State) (n : Nat) (k : Interp) : (s.setInterp n k).cxlUp = s.cxlUp := rfl
@[simp] theorem setInterp_cxlBox (s : State) (n : Nat) (k : Interp) : (s.setInterp n k).cxlBox = s.cxlBox := rfl
@[simp] theorem setInterp_cxlBase (s : State) (n : Nat) (k : Interp) : (s.setInterp n k).cxlBase = s.cxlBase := rfl
@[simp] theorem setInterp_cxlSize (s : State) (n : Nat) (k : Interp) : (s.setInterp n k).cxlSize = s.cxlSize := rfl
@[simp] theorem setInterp_hdmSet (s : State) (n : Nat) (k : Interp) : (s.setInterp n k).hdmSet = s.hdmSet := rfl
@[simp] theorem setInterp_boxSet (s : State) (n : Nat) (k : Interp) : (s.setInterp n k).boxSet = s.boxSet := rfl
@[simp] theorem setInterp_hostMem (s : State) (n : Nat) (k : Interp) : (s.setInterp n k).hostMem = s.hostMem := rfl
@[simp] theorem setInterp_hostReqs (s : State) (n : Nat) (k : Interp) : (s.setInterp n k).hostReqs = s.hostReqs := rfl
@[simp] theorem setInterp_hostDone (s : State) (n : Nat) (k : Interp) : (s.setInterp n k).hostDone = s.hostDone := rfl
@[simp] theorem setInterp_cxlOut (s : State) (n : Nat) (k : Interp) : (s.setInterp n k).cxlOut = s.cxlOut := rfl
@[simp] theorem setInterp_linkHeld (s : State) (n : Nat) (k : Interp) : (s.setInterp n k).linkHeld = s.linkHeld := rfl
@[simp] theorem setInterp_cxlHeld (s : State) (n : Nat) (k : Interp) : (s.setInterp n k).cxlHeld = s.cxlHeld := rfl
@[simp] theorem setInterp_core (s : State) (n m : Nat) (k : Interp) : (s.setInterp n k).core m = s.core m := rfl
@[simp] theorem setInterp_hart (s : State) (n m : Nat) (k : Interp) : (s.setInterp n k).hart m = s.hart m := rfl
@[simp] theorem setInterp_queue (s : State) (n m : Nat) (k : Interp) : (s.setInterp n k).queue m = s.queue m := rfl
@[simp] theorem setInterp_port (s : State) (n m : Nat) (k : Interp) : (s.setInterp n k).port m = s.port m := rfl
@[simp] theorem setInterp_gov (s : State) (n m : Nat) (k : Interp) : (s.setInterp n k).gov m = s.gov m := rfl
@[simp] theorem setInterp_cluster (s : State) (n m : Nat) (k : Interp) : (s.setInterp n k).cluster m = s.cluster m := rfl
@[simp] theorem setInterp_byte (s : State) (n a : Nat) (k : Interp) : (s.setInterp n k).byte a = s.byte a := rfl

/-! ## setPort -/

@[simp] theorem setPort_port (s : State) (n m : Nat) (k : Port) : (s.setPort n k).port m = if m = n then k else s.port m := Tbl.get_put _ _ _ _ _
theorem setPort_setPort (s : State) (n : Nat) (k l : Port) : (s.setPort n k).setPort n l = s.setPort n l := by simp only [setPort, Tbl.put_put]
@[simp] theorem setPort_agenda (s : State) (n : Nat) (k : Port) : (s.setPort n k).agenda = s.agenda := rfl
@[simp] theorem setPort_turns (s : State) (n : Nat) (k : Port) : (s.setPort n k).turns = s.turns := rfl
@[simp] theorem setPort_agent (s : State) (n : Nat) (k : Port) : (s.setPort n k).agent = s.agent := rfl
@[simp] theorem setPort_fresh (s : State) (n : Nat) (k : Port) : (s.setPort n k).fresh = s.fresh := rfl
@[simp] theorem setPort_pcc (s : State) (n : Nat) (k : Port) : (s.setPort n k).pcc = s.pcc := rfl
@[simp] theorem setPort_mem (s : State) (n : Nat) (k : Port) : (s.setPort n k).mem = s.mem := rfl
@[simp] theorem setPort_poison (s : State) (n : Nat) (k : Port) : (s.setPort n k).poison = s.poison := rfl
@[simp] theorem setPort_l2Poison (s : State) (n : Nat) (k : Port) : (s.setPort n k).l2Poison = s.l2Poison := rfl
@[simp] theorem setPort_sleepUps (s : State) (n : Nat) (k : Port) : (s.setPort n k).sleepUps = s.sleepUps := rfl
@[simp] theorem setPort_yard (s : State) (n : Nat) (k : Port) : (s.setPort n k).yard = s.yard := rfl
@[simp] theorem setPort_flags (s : State) (n : Nat) (k : Port) : (s.setPort n k).flags = s.flags := rfl
@[simp] theorem setPort_ylocks (s : State) (n : Nat) (k : Port) : (s.setPort n k).ylocks = s.ylocks := rfl
@[simp] theorem setPort_seen (s : State) (n : Nat) (k : Port) : (s.setPort n k).seen = s.seen := rfl
@[simp] theorem setPort_invs (s : State) (n : Nat) (k : Port) : (s.setPort n k).invs = s.invs := rfl
@[simp] theorem setPort_plocks (s : State) (n : Nat) (k : Port) : (s.setPort n k).plocks = s.plocks := rfl
@[simp] theorem setPort_hcache (s : State) (n : Nat) (k : Port) : (s.setPort n k).hcache = s.hcache := rfl
@[simp] theorem setPort_hused (s : State) (n : Nat) (k : Port) : (s.setPort n k).hused = s.hused := rfl
@[simp] theorem setPort_domain (s : State) (n : Nat) (k : Port) : (s.setPort n k).domain = s.domain := rfl
@[simp] theorem setPort_upsets (s : State) (n : Nat) (k : Port) : (s.setPort n k).upsets = s.upsets := rfl
@[simp] theorem setPort_corrected (s : State) (n : Nat) (k : Port) : (s.setPort n k).corrected = s.corrected := rfl
@[simp] theorem setPort_cores (s : State) (n : Nat) (k : Port) : (s.setPort n k).cores = s.cores := rfl
@[simp] theorem setPort_harts (s : State) (n : Nat) (k : Port) : (s.setPort n k).harts = s.harts := rfl
@[simp] theorem setPort_resvs (s : State) (n : Nat) (k : Port) : (s.setPort n k).resvs = s.resvs := rfl
@[simp] theorem setPort_crs (s : State) (n : Nat) (k : Port) : (s.setPort n k).crs = s.crs := rfl
@[simp] theorem setPort_dirty (s : State) (n : Nat) (k : Port) : (s.setPort n k).dirty = s.dirty := rfl
@[simp] theorem setPort_saved (s : State) (n : Nat) (k : Port) : (s.setPort n k).saved = s.saved := rfl
@[simp] theorem setPort_lastDie (s : State) (n : Nat) (k : Port) : (s.setPort n k).lastDie = s.lastDie := rfl
@[simp] theorem setPort_target (s : State) (n : Nat) (k : Port) : (s.setPort n k).target = s.target := rfl
@[simp] theorem setPort_queues (s : State) (n : Nat) (k : Port) : (s.setPort n k).queues = s.queues := rfl
@[simp] theorem setPort_teams (s : State) (n : Nat) (k : Port) : (s.setPort n k).teams = s.teams := rfl
@[simp] theorem setPort_preempts (s : State) (n : Nat) (k : Port) : (s.setPort n k).preempts = s.preempts := rfl
@[simp] theorem setPort_reteam (s : State) (n : Nat) (k : Port) : (s.setPort n k).reteam = s.reteam := rfl
@[simp] theorem setPort_codes (s : State) (n : Nat) (k : Port) : (s.setPort n k).codes = s.codes := rfl
@[simp] theorem setPort_svcVec (s : State) (n : Nat) (k : Port) : (s.setPort n k).svcVec = s.svcVec := rfl
@[simp] theorem setPort_svcPa (s : State) (n : Nat) (k : Port) : (s.setPort n k).svcPa = s.svcPa := rfl
@[simp] theorem setPort_svcSize (s : State) (n : Nat) (k : Port) : (s.setPort n k).svcSize = s.svcSize := rfl
@[simp] theorem setPort_interps (s : State) (n : Nat) (k : Port) : (s.setPort n k).interps = s.interps := rfl
@[simp] theorem setPort_regs (s : State) (n : Nat) (k : Port) : (s.setPort n k).regs = s.regs := rfl
@[simp] theorem setPort_peerRegs (s : State) (n : Nat) (k : Port) : (s.setPort n k).peerRegs = s.peerRegs := rfl
@[simp] theorem setPort_noise (s : State) (n : Nat) (k : Port) : (s.setPort n k).noise = s.noise := rfl
@[simp] theorem setPort_dirtyGran (s : State) (n : Nat) (k : Port) : (s.setPort n k).dirtyGran = s.dirtyGran := rfl
@[simp] theorem setPort_outbox (s : State) (n : Nat) (k : Port) : (s.setPort n k).outbox = s.outbox := rfl
@[simp] theorem setPort_unrouted (s : State) (n : Nat) (k : Port) : (s.setPort n k).unrouted = s.unrouted := rfl
@[simp] theorem setPort_merges (s : State) (n : Nat) (k : Port) : (s.setPort n k).merges = s.merges := rfl
@[simp] theorem setPort_trans (s : State) (n : Nat) (k : Port) : (s.setPort n k).trans = s.trans := rfl
@[simp] theorem setPort_reads (s : State) (n : Nat) (k : Port) : (s.setPort n k).reads = s.reads := rfl
@[simp] theorem setPort_applied (s : State) (n : Nat) (k : Port) : (s.setPort n k).applied = s.applied := rfl
@[simp] theorem setPort_lostSecs (s : State) (n : Nat) (k : Port) : (s.setPort n k).lostSecs = s.lostSecs := rfl
@[simp] theorem setPort_linkFail (s : State) (n : Nat) (k : Port) : (s.setPort n k).linkFail = s.linkFail := rfl
@[simp] theorem setPort_govs (s : State) (n : Nat) (k : Port) : (s.setPort n k).govs = s.govs := rfl
@[simp] theorem setPort_therm (s : State) (n : Nat) (k : Port) : (s.setPort n k).therm = s.therm := rfl
@[simp] theorem setPort_belowHot (s : State) (n : Nat) (k : Port) : (s.setPort n k).belowHot = s.belowHot := rfl
@[simp] theorem setPort_belowWarm (s : State) (n : Nat) (k : Port) : (s.setPort n k).belowWarm = s.belowWarm := rfl
@[simp] theorem setPort_twarm (s : State) (n : Nat) (k : Port) : (s.setPort n k).twarm = s.twarm := rfl
@[simp] theorem setPort_thot (s : State) (n : Nat) (k : Port) : (s.setPort n k).thot = s.thot := rfl
@[simp] theorem setPort_ttrip (s : State) (n : Nat) (k : Port) : (s.setPort n k).ttrip = s.ttrip := rfl
@[simp] theorem setPort_inReset (s : State) (n : Nat) (k : Port) : (s.setPort n k).inReset = s.inReset := rfl
@[simp] theorem setPort_clusters (s : State) (n : Nat) (k : Port) : (s.setPort n k).clusters = s.clusters := rfl
@[simp] theorem setPort_shapes (s : State) (n : Nat) (k : Port) : (s.setPort n k).shapes = s.shapes := rfl
@[simp] theorem setPort_jobs (s : State) (n : Nat) (k : Port) : (s.setPort n k).jobs = s.jobs := rfl
@[simp] theorem setPort_colls (s : State) (n : Nat) (k : Port) : (s.setPort n k).colls = s.colls := rfl
@[simp] theorem setPort_contribs (s : State) (n : Nat) (k : Port) : (s.setPort n k).contribs = s.contribs := rfl
@[simp] theorem setPort_order (s : State) (n : Nat) (k : Port) : (s.setPort n k).order = s.order := rfl
@[simp] theorem setPort_tids (s : State) (n : Nat) (k : Port) : (s.setPort n k).tids = s.tids := rfl
@[simp] theorem setPort_bankq (s : State) (n : Nat) (k : Port) : (s.setPort n k).bankq = s.bankq := rfl
@[simp] theorem setPort_boot (s : State) (n : Nat) (k : Port) : (s.setPort n k).boot = s.boot := rfl
@[simp] theorem setPort_eth (s : State) (n : Nat) (k : Port) : (s.setPort n k).eth = s.eth := rfl
@[simp] theorem setPort_spdm (s : State) (n : Nat) (k : Port) : (s.setPort n k).spdm = s.spdm := rfl
@[simp] theorem setPort_cxlUp (s : State) (n : Nat) (k : Port) : (s.setPort n k).cxlUp = s.cxlUp := rfl
@[simp] theorem setPort_cxlBox (s : State) (n : Nat) (k : Port) : (s.setPort n k).cxlBox = s.cxlBox := rfl
@[simp] theorem setPort_cxlBase (s : State) (n : Nat) (k : Port) : (s.setPort n k).cxlBase = s.cxlBase := rfl
@[simp] theorem setPort_cxlSize (s : State) (n : Nat) (k : Port) : (s.setPort n k).cxlSize = s.cxlSize := rfl
@[simp] theorem setPort_hdmSet (s : State) (n : Nat) (k : Port) : (s.setPort n k).hdmSet = s.hdmSet := rfl
@[simp] theorem setPort_boxSet (s : State) (n : Nat) (k : Port) : (s.setPort n k).boxSet = s.boxSet := rfl
@[simp] theorem setPort_hostMem (s : State) (n : Nat) (k : Port) : (s.setPort n k).hostMem = s.hostMem := rfl
@[simp] theorem setPort_hostReqs (s : State) (n : Nat) (k : Port) : (s.setPort n k).hostReqs = s.hostReqs := rfl
@[simp] theorem setPort_hostDone (s : State) (n : Nat) (k : Port) : (s.setPort n k).hostDone = s.hostDone := rfl
@[simp] theorem setPort_cxlOut (s : State) (n : Nat) (k : Port) : (s.setPort n k).cxlOut = s.cxlOut := rfl
@[simp] theorem setPort_linkHeld (s : State) (n : Nat) (k : Port) : (s.setPort n k).linkHeld = s.linkHeld := rfl
@[simp] theorem setPort_cxlHeld (s : State) (n : Nat) (k : Port) : (s.setPort n k).cxlHeld = s.cxlHeld := rfl
@[simp] theorem setPort_core (s : State) (n m : Nat) (k : Port) : (s.setPort n k).core m = s.core m := rfl
@[simp] theorem setPort_hart (s : State) (n m : Nat) (k : Port) : (s.setPort n k).hart m = s.hart m := rfl
@[simp] theorem setPort_queue (s : State) (n m : Nat) (k : Port) : (s.setPort n k).queue m = s.queue m := rfl
@[simp] theorem setPort_interp (s : State) (n m : Nat) (k : Port) : (s.setPort n k).interp m = s.interp m := rfl
@[simp] theorem setPort_gov (s : State) (n m : Nat) (k : Port) : (s.setPort n k).gov m = s.gov m := rfl
@[simp] theorem setPort_cluster (s : State) (n m : Nat) (k : Port) : (s.setPort n k).cluster m = s.cluster m := rfl
@[simp] theorem setPort_byte (s : State) (n a : Nat) (k : Port) : (s.setPort n k).byte a = s.byte a := rfl

/-! ## setGov -/

@[simp] theorem setGov_gov (s : State) (n m : Nat) (k : Gov) : (s.setGov n k).gov m = if m = n then k else s.gov m := Tbl.get_put _ _ _ _ _
theorem setGov_setGov (s : State) (n : Nat) (k l : Gov) : (s.setGov n k).setGov n l = s.setGov n l := by simp only [setGov, Tbl.put_put]
@[simp] theorem setGov_agenda (s : State) (n : Nat) (k : Gov) : (s.setGov n k).agenda = s.agenda := rfl
@[simp] theorem setGov_turns (s : State) (n : Nat) (k : Gov) : (s.setGov n k).turns = s.turns := rfl
@[simp] theorem setGov_agent (s : State) (n : Nat) (k : Gov) : (s.setGov n k).agent = s.agent := rfl
@[simp] theorem setGov_fresh (s : State) (n : Nat) (k : Gov) : (s.setGov n k).fresh = s.fresh := rfl
@[simp] theorem setGov_pcc (s : State) (n : Nat) (k : Gov) : (s.setGov n k).pcc = s.pcc := rfl
@[simp] theorem setGov_mem (s : State) (n : Nat) (k : Gov) : (s.setGov n k).mem = s.mem := rfl
@[simp] theorem setGov_poison (s : State) (n : Nat) (k : Gov) : (s.setGov n k).poison = s.poison := rfl
@[simp] theorem setGov_l2Poison (s : State) (n : Nat) (k : Gov) : (s.setGov n k).l2Poison = s.l2Poison := rfl
@[simp] theorem setGov_sleepUps (s : State) (n : Nat) (k : Gov) : (s.setGov n k).sleepUps = s.sleepUps := rfl
@[simp] theorem setGov_yard (s : State) (n : Nat) (k : Gov) : (s.setGov n k).yard = s.yard := rfl
@[simp] theorem setGov_flags (s : State) (n : Nat) (k : Gov) : (s.setGov n k).flags = s.flags := rfl
@[simp] theorem setGov_ylocks (s : State) (n : Nat) (k : Gov) : (s.setGov n k).ylocks = s.ylocks := rfl
@[simp] theorem setGov_seen (s : State) (n : Nat) (k : Gov) : (s.setGov n k).seen = s.seen := rfl
@[simp] theorem setGov_invs (s : State) (n : Nat) (k : Gov) : (s.setGov n k).invs = s.invs := rfl
@[simp] theorem setGov_plocks (s : State) (n : Nat) (k : Gov) : (s.setGov n k).plocks = s.plocks := rfl
@[simp] theorem setGov_hcache (s : State) (n : Nat) (k : Gov) : (s.setGov n k).hcache = s.hcache := rfl
@[simp] theorem setGov_hused (s : State) (n : Nat) (k : Gov) : (s.setGov n k).hused = s.hused := rfl
@[simp] theorem setGov_domain (s : State) (n : Nat) (k : Gov) : (s.setGov n k).domain = s.domain := rfl
@[simp] theorem setGov_upsets (s : State) (n : Nat) (k : Gov) : (s.setGov n k).upsets = s.upsets := rfl
@[simp] theorem setGov_corrected (s : State) (n : Nat) (k : Gov) : (s.setGov n k).corrected = s.corrected := rfl
@[simp] theorem setGov_cores (s : State) (n : Nat) (k : Gov) : (s.setGov n k).cores = s.cores := rfl
@[simp] theorem setGov_harts (s : State) (n : Nat) (k : Gov) : (s.setGov n k).harts = s.harts := rfl
@[simp] theorem setGov_resvs (s : State) (n : Nat) (k : Gov) : (s.setGov n k).resvs = s.resvs := rfl
@[simp] theorem setGov_crs (s : State) (n : Nat) (k : Gov) : (s.setGov n k).crs = s.crs := rfl
@[simp] theorem setGov_dirty (s : State) (n : Nat) (k : Gov) : (s.setGov n k).dirty = s.dirty := rfl
@[simp] theorem setGov_saved (s : State) (n : Nat) (k : Gov) : (s.setGov n k).saved = s.saved := rfl
@[simp] theorem setGov_lastDie (s : State) (n : Nat) (k : Gov) : (s.setGov n k).lastDie = s.lastDie := rfl
@[simp] theorem setGov_target (s : State) (n : Nat) (k : Gov) : (s.setGov n k).target = s.target := rfl
@[simp] theorem setGov_queues (s : State) (n : Nat) (k : Gov) : (s.setGov n k).queues = s.queues := rfl
@[simp] theorem setGov_teams (s : State) (n : Nat) (k : Gov) : (s.setGov n k).teams = s.teams := rfl
@[simp] theorem setGov_preempts (s : State) (n : Nat) (k : Gov) : (s.setGov n k).preempts = s.preempts := rfl
@[simp] theorem setGov_reteam (s : State) (n : Nat) (k : Gov) : (s.setGov n k).reteam = s.reteam := rfl
@[simp] theorem setGov_codes (s : State) (n : Nat) (k : Gov) : (s.setGov n k).codes = s.codes := rfl
@[simp] theorem setGov_svcVec (s : State) (n : Nat) (k : Gov) : (s.setGov n k).svcVec = s.svcVec := rfl
@[simp] theorem setGov_svcPa (s : State) (n : Nat) (k : Gov) : (s.setGov n k).svcPa = s.svcPa := rfl
@[simp] theorem setGov_svcSize (s : State) (n : Nat) (k : Gov) : (s.setGov n k).svcSize = s.svcSize := rfl
@[simp] theorem setGov_interps (s : State) (n : Nat) (k : Gov) : (s.setGov n k).interps = s.interps := rfl
@[simp] theorem setGov_regs (s : State) (n : Nat) (k : Gov) : (s.setGov n k).regs = s.regs := rfl
@[simp] theorem setGov_peerRegs (s : State) (n : Nat) (k : Gov) : (s.setGov n k).peerRegs = s.peerRegs := rfl
@[simp] theorem setGov_noise (s : State) (n : Nat) (k : Gov) : (s.setGov n k).noise = s.noise := rfl
@[simp] theorem setGov_dirtyGran (s : State) (n : Nat) (k : Gov) : (s.setGov n k).dirtyGran = s.dirtyGran := rfl
@[simp] theorem setGov_outbox (s : State) (n : Nat) (k : Gov) : (s.setGov n k).outbox = s.outbox := rfl
@[simp] theorem setGov_unrouted (s : State) (n : Nat) (k : Gov) : (s.setGov n k).unrouted = s.unrouted := rfl
@[simp] theorem setGov_merges (s : State) (n : Nat) (k : Gov) : (s.setGov n k).merges = s.merges := rfl
@[simp] theorem setGov_ports (s : State) (n : Nat) (k : Gov) : (s.setGov n k).ports = s.ports := rfl
@[simp] theorem setGov_trans (s : State) (n : Nat) (k : Gov) : (s.setGov n k).trans = s.trans := rfl
@[simp] theorem setGov_reads (s : State) (n : Nat) (k : Gov) : (s.setGov n k).reads = s.reads := rfl
@[simp] theorem setGov_applied (s : State) (n : Nat) (k : Gov) : (s.setGov n k).applied = s.applied := rfl
@[simp] theorem setGov_lostSecs (s : State) (n : Nat) (k : Gov) : (s.setGov n k).lostSecs = s.lostSecs := rfl
@[simp] theorem setGov_linkFail (s : State) (n : Nat) (k : Gov) : (s.setGov n k).linkFail = s.linkFail := rfl
@[simp] theorem setGov_therm (s : State) (n : Nat) (k : Gov) : (s.setGov n k).therm = s.therm := rfl
@[simp] theorem setGov_belowHot (s : State) (n : Nat) (k : Gov) : (s.setGov n k).belowHot = s.belowHot := rfl
@[simp] theorem setGov_belowWarm (s : State) (n : Nat) (k : Gov) : (s.setGov n k).belowWarm = s.belowWarm := rfl
@[simp] theorem setGov_twarm (s : State) (n : Nat) (k : Gov) : (s.setGov n k).twarm = s.twarm := rfl
@[simp] theorem setGov_thot (s : State) (n : Nat) (k : Gov) : (s.setGov n k).thot = s.thot := rfl
@[simp] theorem setGov_ttrip (s : State) (n : Nat) (k : Gov) : (s.setGov n k).ttrip = s.ttrip := rfl
@[simp] theorem setGov_inReset (s : State) (n : Nat) (k : Gov) : (s.setGov n k).inReset = s.inReset := rfl
@[simp] theorem setGov_clusters (s : State) (n : Nat) (k : Gov) : (s.setGov n k).clusters = s.clusters := rfl
@[simp] theorem setGov_shapes (s : State) (n : Nat) (k : Gov) : (s.setGov n k).shapes = s.shapes := rfl
@[simp] theorem setGov_jobs (s : State) (n : Nat) (k : Gov) : (s.setGov n k).jobs = s.jobs := rfl
@[simp] theorem setGov_colls (s : State) (n : Nat) (k : Gov) : (s.setGov n k).colls = s.colls := rfl
@[simp] theorem setGov_contribs (s : State) (n : Nat) (k : Gov) : (s.setGov n k).contribs = s.contribs := rfl
@[simp] theorem setGov_order (s : State) (n : Nat) (k : Gov) : (s.setGov n k).order = s.order := rfl
@[simp] theorem setGov_tids (s : State) (n : Nat) (k : Gov) : (s.setGov n k).tids = s.tids := rfl
@[simp] theorem setGov_bankq (s : State) (n : Nat) (k : Gov) : (s.setGov n k).bankq = s.bankq := rfl
@[simp] theorem setGov_boot (s : State) (n : Nat) (k : Gov) : (s.setGov n k).boot = s.boot := rfl
@[simp] theorem setGov_eth (s : State) (n : Nat) (k : Gov) : (s.setGov n k).eth = s.eth := rfl
@[simp] theorem setGov_spdm (s : State) (n : Nat) (k : Gov) : (s.setGov n k).spdm = s.spdm := rfl
@[simp] theorem setGov_cxlUp (s : State) (n : Nat) (k : Gov) : (s.setGov n k).cxlUp = s.cxlUp := rfl
@[simp] theorem setGov_cxlBox (s : State) (n : Nat) (k : Gov) : (s.setGov n k).cxlBox = s.cxlBox := rfl
@[simp] theorem setGov_cxlBase (s : State) (n : Nat) (k : Gov) : (s.setGov n k).cxlBase = s.cxlBase := rfl
@[simp] theorem setGov_cxlSize (s : State) (n : Nat) (k : Gov) : (s.setGov n k).cxlSize = s.cxlSize := rfl
@[simp] theorem setGov_hdmSet (s : State) (n : Nat) (k : Gov) : (s.setGov n k).hdmSet = s.hdmSet := rfl
@[simp] theorem setGov_boxSet (s : State) (n : Nat) (k : Gov) : (s.setGov n k).boxSet = s.boxSet := rfl
@[simp] theorem setGov_hostMem (s : State) (n : Nat) (k : Gov) : (s.setGov n k).hostMem = s.hostMem := rfl
@[simp] theorem setGov_hostReqs (s : State) (n : Nat) (k : Gov) : (s.setGov n k).hostReqs = s.hostReqs := rfl
@[simp] theorem setGov_hostDone (s : State) (n : Nat) (k : Gov) : (s.setGov n k).hostDone = s.hostDone := rfl
@[simp] theorem setGov_cxlOut (s : State) (n : Nat) (k : Gov) : (s.setGov n k).cxlOut = s.cxlOut := rfl
@[simp] theorem setGov_linkHeld (s : State) (n : Nat) (k : Gov) : (s.setGov n k).linkHeld = s.linkHeld := rfl
@[simp] theorem setGov_cxlHeld (s : State) (n : Nat) (k : Gov) : (s.setGov n k).cxlHeld = s.cxlHeld := rfl
@[simp] theorem setGov_core (s : State) (n m : Nat) (k : Gov) : (s.setGov n k).core m = s.core m := rfl
@[simp] theorem setGov_hart (s : State) (n m : Nat) (k : Gov) : (s.setGov n k).hart m = s.hart m := rfl
@[simp] theorem setGov_queue (s : State) (n m : Nat) (k : Gov) : (s.setGov n k).queue m = s.queue m := rfl
@[simp] theorem setGov_interp (s : State) (n m : Nat) (k : Gov) : (s.setGov n k).interp m = s.interp m := rfl
@[simp] theorem setGov_port (s : State) (n m : Nat) (k : Gov) : (s.setGov n k).port m = s.port m := rfl
@[simp] theorem setGov_cluster (s : State) (n m : Nat) (k : Gov) : (s.setGov n k).cluster m = s.cluster m := rfl
@[simp] theorem setGov_byte (s : State) (n a : Nat) (k : Gov) : (s.setGov n k).byte a = s.byte a := rfl

/-! ## setCluster -/

@[simp] theorem setCluster_cluster (s : State) (n m : Nat) (k : Cluster) : (s.setCluster n k).cluster m = if m = n then k else s.cluster m := Tbl.get_put _ _ _ _ _
theorem setCluster_setCluster (s : State) (n : Nat) (k l : Cluster) : (s.setCluster n k).setCluster n l = s.setCluster n l := by simp only [setCluster, Tbl.put_put]
@[simp] theorem setCluster_agenda (s : State) (n : Nat) (k : Cluster) : (s.setCluster n k).agenda = s.agenda := rfl
@[simp] theorem setCluster_turns (s : State) (n : Nat) (k : Cluster) : (s.setCluster n k).turns = s.turns := rfl
@[simp] theorem setCluster_agent (s : State) (n : Nat) (k : Cluster) : (s.setCluster n k).agent = s.agent := rfl
@[simp] theorem setCluster_fresh (s : State) (n : Nat) (k : Cluster) : (s.setCluster n k).fresh = s.fresh := rfl
@[simp] theorem setCluster_pcc (s : State) (n : Nat) (k : Cluster) : (s.setCluster n k).pcc = s.pcc := rfl
@[simp] theorem setCluster_mem (s : State) (n : Nat) (k : Cluster) : (s.setCluster n k).mem = s.mem := rfl
@[simp] theorem setCluster_poison (s : State) (n : Nat) (k : Cluster) : (s.setCluster n k).poison = s.poison := rfl
@[simp] theorem setCluster_l2Poison (s : State) (n : Nat) (k : Cluster) : (s.setCluster n k).l2Poison = s.l2Poison := rfl
@[simp] theorem setCluster_sleepUps (s : State) (n : Nat) (k : Cluster) : (s.setCluster n k).sleepUps = s.sleepUps := rfl
@[simp] theorem setCluster_yard (s : State) (n : Nat) (k : Cluster) : (s.setCluster n k).yard = s.yard := rfl
@[simp] theorem setCluster_flags (s : State) (n : Nat) (k : Cluster) : (s.setCluster n k).flags = s.flags := rfl
@[simp] theorem setCluster_ylocks (s : State) (n : Nat) (k : Cluster) : (s.setCluster n k).ylocks = s.ylocks := rfl
@[simp] theorem setCluster_seen (s : State) (n : Nat) (k : Cluster) : (s.setCluster n k).seen = s.seen := rfl
@[simp] theorem setCluster_invs (s : State) (n : Nat) (k : Cluster) : (s.setCluster n k).invs = s.invs := rfl
@[simp] theorem setCluster_plocks (s : State) (n : Nat) (k : Cluster) : (s.setCluster n k).plocks = s.plocks := rfl
@[simp] theorem setCluster_hcache (s : State) (n : Nat) (k : Cluster) : (s.setCluster n k).hcache = s.hcache := rfl
@[simp] theorem setCluster_hused (s : State) (n : Nat) (k : Cluster) : (s.setCluster n k).hused = s.hused := rfl
@[simp] theorem setCluster_domain (s : State) (n : Nat) (k : Cluster) : (s.setCluster n k).domain = s.domain := rfl
@[simp] theorem setCluster_upsets (s : State) (n : Nat) (k : Cluster) : (s.setCluster n k).upsets = s.upsets := rfl
@[simp] theorem setCluster_corrected (s : State) (n : Nat) (k : Cluster) : (s.setCluster n k).corrected = s.corrected := rfl
@[simp] theorem setCluster_cores (s : State) (n : Nat) (k : Cluster) : (s.setCluster n k).cores = s.cores := rfl
@[simp] theorem setCluster_harts (s : State) (n : Nat) (k : Cluster) : (s.setCluster n k).harts = s.harts := rfl
@[simp] theorem setCluster_resvs (s : State) (n : Nat) (k : Cluster) : (s.setCluster n k).resvs = s.resvs := rfl
@[simp] theorem setCluster_crs (s : State) (n : Nat) (k : Cluster) : (s.setCluster n k).crs = s.crs := rfl
@[simp] theorem setCluster_dirty (s : State) (n : Nat) (k : Cluster) : (s.setCluster n k).dirty = s.dirty := rfl
@[simp] theorem setCluster_saved (s : State) (n : Nat) (k : Cluster) : (s.setCluster n k).saved = s.saved := rfl
@[simp] theorem setCluster_lastDie (s : State) (n : Nat) (k : Cluster) : (s.setCluster n k).lastDie = s.lastDie := rfl
@[simp] theorem setCluster_target (s : State) (n : Nat) (k : Cluster) : (s.setCluster n k).target = s.target := rfl
@[simp] theorem setCluster_queues (s : State) (n : Nat) (k : Cluster) : (s.setCluster n k).queues = s.queues := rfl
@[simp] theorem setCluster_teams (s : State) (n : Nat) (k : Cluster) : (s.setCluster n k).teams = s.teams := rfl
@[simp] theorem setCluster_preempts (s : State) (n : Nat) (k : Cluster) : (s.setCluster n k).preempts = s.preempts := rfl
@[simp] theorem setCluster_reteam (s : State) (n : Nat) (k : Cluster) : (s.setCluster n k).reteam = s.reteam := rfl
@[simp] theorem setCluster_codes (s : State) (n : Nat) (k : Cluster) : (s.setCluster n k).codes = s.codes := rfl
@[simp] theorem setCluster_svcVec (s : State) (n : Nat) (k : Cluster) : (s.setCluster n k).svcVec = s.svcVec := rfl
@[simp] theorem setCluster_svcPa (s : State) (n : Nat) (k : Cluster) : (s.setCluster n k).svcPa = s.svcPa := rfl
@[simp] theorem setCluster_svcSize (s : State) (n : Nat) (k : Cluster) : (s.setCluster n k).svcSize = s.svcSize := rfl
@[simp] theorem setCluster_interps (s : State) (n : Nat) (k : Cluster) : (s.setCluster n k).interps = s.interps := rfl
@[simp] theorem setCluster_regs (s : State) (n : Nat) (k : Cluster) : (s.setCluster n k).regs = s.regs := rfl
@[simp] theorem setCluster_peerRegs (s : State) (n : Nat) (k : Cluster) : (s.setCluster n k).peerRegs = s.peerRegs := rfl
@[simp] theorem setCluster_noise (s : State) (n : Nat) (k : Cluster) : (s.setCluster n k).noise = s.noise := rfl
@[simp] theorem setCluster_dirtyGran (s : State) (n : Nat) (k : Cluster) : (s.setCluster n k).dirtyGran = s.dirtyGran := rfl
@[simp] theorem setCluster_outbox (s : State) (n : Nat) (k : Cluster) : (s.setCluster n k).outbox = s.outbox := rfl
@[simp] theorem setCluster_unrouted (s : State) (n : Nat) (k : Cluster) : (s.setCluster n k).unrouted = s.unrouted := rfl
@[simp] theorem setCluster_merges (s : State) (n : Nat) (k : Cluster) : (s.setCluster n k).merges = s.merges := rfl
@[simp] theorem setCluster_ports (s : State) (n : Nat) (k : Cluster) : (s.setCluster n k).ports = s.ports := rfl
@[simp] theorem setCluster_trans (s : State) (n : Nat) (k : Cluster) : (s.setCluster n k).trans = s.trans := rfl
@[simp] theorem setCluster_reads (s : State) (n : Nat) (k : Cluster) : (s.setCluster n k).reads = s.reads := rfl
@[simp] theorem setCluster_applied (s : State) (n : Nat) (k : Cluster) : (s.setCluster n k).applied = s.applied := rfl
@[simp] theorem setCluster_lostSecs (s : State) (n : Nat) (k : Cluster) : (s.setCluster n k).lostSecs = s.lostSecs := rfl
@[simp] theorem setCluster_linkFail (s : State) (n : Nat) (k : Cluster) : (s.setCluster n k).linkFail = s.linkFail := rfl
@[simp] theorem setCluster_govs (s : State) (n : Nat) (k : Cluster) : (s.setCluster n k).govs = s.govs := rfl
@[simp] theorem setCluster_therm (s : State) (n : Nat) (k : Cluster) : (s.setCluster n k).therm = s.therm := rfl
@[simp] theorem setCluster_belowHot (s : State) (n : Nat) (k : Cluster) : (s.setCluster n k).belowHot = s.belowHot := rfl
@[simp] theorem setCluster_belowWarm (s : State) (n : Nat) (k : Cluster) : (s.setCluster n k).belowWarm = s.belowWarm := rfl
@[simp] theorem setCluster_twarm (s : State) (n : Nat) (k : Cluster) : (s.setCluster n k).twarm = s.twarm := rfl
@[simp] theorem setCluster_thot (s : State) (n : Nat) (k : Cluster) : (s.setCluster n k).thot = s.thot := rfl
@[simp] theorem setCluster_ttrip (s : State) (n : Nat) (k : Cluster) : (s.setCluster n k).ttrip = s.ttrip := rfl
@[simp] theorem setCluster_inReset (s : State) (n : Nat) (k : Cluster) : (s.setCluster n k).inReset = s.inReset := rfl
@[simp] theorem setCluster_shapes (s : State) (n : Nat) (k : Cluster) : (s.setCluster n k).shapes = s.shapes := rfl
@[simp] theorem setCluster_jobs (s : State) (n : Nat) (k : Cluster) : (s.setCluster n k).jobs = s.jobs := rfl
@[simp] theorem setCluster_colls (s : State) (n : Nat) (k : Cluster) : (s.setCluster n k).colls = s.colls := rfl
@[simp] theorem setCluster_contribs (s : State) (n : Nat) (k : Cluster) : (s.setCluster n k).contribs = s.contribs := rfl
@[simp] theorem setCluster_order (s : State) (n : Nat) (k : Cluster) : (s.setCluster n k).order = s.order := rfl
@[simp] theorem setCluster_tids (s : State) (n : Nat) (k : Cluster) : (s.setCluster n k).tids = s.tids := rfl
@[simp] theorem setCluster_bankq (s : State) (n : Nat) (k : Cluster) : (s.setCluster n k).bankq = s.bankq := rfl
@[simp] theorem setCluster_boot (s : State) (n : Nat) (k : Cluster) : (s.setCluster n k).boot = s.boot := rfl
@[simp] theorem setCluster_eth (s : State) (n : Nat) (k : Cluster) : (s.setCluster n k).eth = s.eth := rfl
@[simp] theorem setCluster_spdm (s : State) (n : Nat) (k : Cluster) : (s.setCluster n k).spdm = s.spdm := rfl
@[simp] theorem setCluster_cxlUp (s : State) (n : Nat) (k : Cluster) : (s.setCluster n k).cxlUp = s.cxlUp := rfl
@[simp] theorem setCluster_cxlBox (s : State) (n : Nat) (k : Cluster) : (s.setCluster n k).cxlBox = s.cxlBox := rfl
@[simp] theorem setCluster_cxlBase (s : State) (n : Nat) (k : Cluster) : (s.setCluster n k).cxlBase = s.cxlBase := rfl
@[simp] theorem setCluster_cxlSize (s : State) (n : Nat) (k : Cluster) : (s.setCluster n k).cxlSize = s.cxlSize := rfl
@[simp] theorem setCluster_hdmSet (s : State) (n : Nat) (k : Cluster) : (s.setCluster n k).hdmSet = s.hdmSet := rfl
@[simp] theorem setCluster_boxSet (s : State) (n : Nat) (k : Cluster) : (s.setCluster n k).boxSet = s.boxSet := rfl
@[simp] theorem setCluster_hostMem (s : State) (n : Nat) (k : Cluster) : (s.setCluster n k).hostMem = s.hostMem := rfl
@[simp] theorem setCluster_hostReqs (s : State) (n : Nat) (k : Cluster) : (s.setCluster n k).hostReqs = s.hostReqs := rfl
@[simp] theorem setCluster_hostDone (s : State) (n : Nat) (k : Cluster) : (s.setCluster n k).hostDone = s.hostDone := rfl
@[simp] theorem setCluster_cxlOut (s : State) (n : Nat) (k : Cluster) : (s.setCluster n k).cxlOut = s.cxlOut := rfl
@[simp] theorem setCluster_linkHeld (s : State) (n : Nat) (k : Cluster) : (s.setCluster n k).linkHeld = s.linkHeld := rfl
@[simp] theorem setCluster_cxlHeld (s : State) (n : Nat) (k : Cluster) : (s.setCluster n k).cxlHeld = s.cxlHeld := rfl
@[simp] theorem setCluster_core (s : State) (n m : Nat) (k : Cluster) : (s.setCluster n k).core m = s.core m := rfl
@[simp] theorem setCluster_hart (s : State) (n m : Nat) (k : Cluster) : (s.setCluster n k).hart m = s.hart m := rfl
@[simp] theorem setCluster_queue (s : State) (n m : Nat) (k : Cluster) : (s.setCluster n k).queue m = s.queue m := rfl
@[simp] theorem setCluster_interp (s : State) (n m : Nat) (k : Cluster) : (s.setCluster n k).interp m = s.interp m := rfl
@[simp] theorem setCluster_port (s : State) (n m : Nat) (k : Cluster) : (s.setCluster n k).port m = s.port m := rfl
@[simp] theorem setCluster_gov (s : State) (n m : Nat) (k : Cluster) : (s.setCluster n k).gov m = s.gov m := rfl
@[simp] theorem setCluster_byte (s : State) (n a : Nat) (k : Cluster) : (s.setCluster n k).byte a = s.byte a := rfl

@[simp] theorem modCore_eq (s : State) (n : Nat) (f : Core → Core) : s.modCore n f = s.setCore n (f (s.core n)) := rfl
@[simp] theorem modHart_eq (s : State) (n : Nat) (f : Hart → Hart) : s.modHart n f = s.setHart n (f (s.hart n)) := rfl
@[simp] theorem modInterp_eq (s : State) (n : Nat) (f : Interp → Interp) : s.modInterp n f = s.setInterp n (f (s.interp n)) := rfl
@[simp] theorem modCt_eq (s : State) (n : Nat) (f : Ct → Ct) : s.modCt n f = s.setCore n { s.core n with ct := f (s.core n).ct } := rfl
@[simp] theorem modEng_eq (s : State) (n : Nat) (e : Eng) (f : EngSt → EngSt) : s.modEng n e f = s.setCore n ((s.core n).modEng e f) := rfl

/-! ## The agent that moves -/

@[simp] theorem turnTo_agenda (s : State) (a : Agent) (r : List Agent) : (s.turnTo a r).agenda = s.agenda := rfl
@[simp] theorem turnTo_fresh (s : State) (a : Agent) (r : List Agent) : (s.turnTo a r).fresh = s.fresh := rfl
@[simp] theorem turnTo_pcc (s : State) (a : Agent) (r : List Agent) : (s.turnTo a r).pcc = s.pcc := rfl
@[simp] theorem turnTo_mem (s : State) (a : Agent) (r : List Agent) : (s.turnTo a r).mem = s.mem := rfl
@[simp] theorem turnTo_poison (s : State) (a : Agent) (r : List Agent) : (s.turnTo a r).poison = s.poison := rfl
@[simp] theorem turnTo_l2Poison (s : State) (a : Agent) (r : List Agent) : (s.turnTo a r).l2Poison = s.l2Poison := rfl
@[simp] theorem turnTo_sleepUps (s : State) (a : Agent) (r : List Agent) : (s.turnTo a r).sleepUps = s.sleepUps := rfl
@[simp] theorem turnTo_yard (s : State) (a : Agent) (r : List Agent) : (s.turnTo a r).yard = s.yard := rfl
@[simp] theorem turnTo_flags (s : State) (a : Agent) (r : List Agent) : (s.turnTo a r).flags = s.flags := rfl
@[simp] theorem turnTo_ylocks (s : State) (a : Agent) (r : List Agent) : (s.turnTo a r).ylocks = s.ylocks := rfl
@[simp] theorem turnTo_seen (s : State) (a : Agent) (r : List Agent) : (s.turnTo a r).seen = s.seen := rfl
@[simp] theorem turnTo_invs (s : State) (a : Agent) (r : List Agent) : (s.turnTo a r).invs = s.invs := rfl
@[simp] theorem turnTo_plocks (s : State) (a : Agent) (r : List Agent) : (s.turnTo a r).plocks = s.plocks := rfl
@[simp] theorem turnTo_hcache (s : State) (a : Agent) (r : List Agent) : (s.turnTo a r).hcache = s.hcache := rfl
@[simp] theorem turnTo_domain (s : State) (a : Agent) (r : List Agent) : (s.turnTo a r).domain = s.domain := rfl
@[simp] theorem turnTo_upsets (s : State) (a : Agent) (r : List Agent) : (s.turnTo a r).upsets = s.upsets := rfl
@[simp] theorem turnTo_corrected (s : State) (a : Agent) (r : List Agent) : (s.turnTo a r).corrected = s.corrected := rfl
@[simp] theorem turnTo_cores (s : State) (a : Agent) (r : List Agent) : (s.turnTo a r).cores = s.cores := rfl
@[simp] theorem turnTo_harts (s : State) (a : Agent) (r : List Agent) : (s.turnTo a r).harts = s.harts := rfl
@[simp] theorem turnTo_resvs (s : State) (a : Agent) (r : List Agent) : (s.turnTo a r).resvs = s.resvs := rfl
@[simp] theorem turnTo_crs (s : State) (a : Agent) (r : List Agent) : (s.turnTo a r).crs = s.crs := rfl
@[simp] theorem turnTo_dirty (s : State) (a : Agent) (r : List Agent) : (s.turnTo a r).dirty = s.dirty := rfl
@[simp] theorem turnTo_saved (s : State) (a : Agent) (r : List Agent) : (s.turnTo a r).saved = s.saved := rfl
@[simp] theorem turnTo_lastDie (s : State) (a : Agent) (r : List Agent) : (s.turnTo a r).lastDie = s.lastDie := rfl
@[simp] theorem turnTo_target (s : State) (a : Agent) (r : List Agent) : (s.turnTo a r).target = s.target := rfl
@[simp] theorem turnTo_queues (s : State) (a : Agent) (r : List Agent) : (s.turnTo a r).queues = s.queues := rfl
@[simp] theorem turnTo_teams (s : State) (a : Agent) (r : List Agent) : (s.turnTo a r).teams = s.teams := rfl
@[simp] theorem turnTo_preempts (s : State) (a : Agent) (r : List Agent) : (s.turnTo a r).preempts = s.preempts := rfl
@[simp] theorem turnTo_reteam (s : State) (a : Agent) (r : List Agent) : (s.turnTo a r).reteam = s.reteam := rfl
@[simp] theorem turnTo_codes (s : State) (a : Agent) (r : List Agent) : (s.turnTo a r).codes = s.codes := rfl
@[simp] theorem turnTo_svcVec (s : State) (a : Agent) (r : List Agent) : (s.turnTo a r).svcVec = s.svcVec := rfl
@[simp] theorem turnTo_svcPa (s : State) (a : Agent) (r : List Agent) : (s.turnTo a r).svcPa = s.svcPa := rfl
@[simp] theorem turnTo_svcSize (s : State) (a : Agent) (r : List Agent) : (s.turnTo a r).svcSize = s.svcSize := rfl
@[simp] theorem turnTo_interps (s : State) (a : Agent) (r : List Agent) : (s.turnTo a r).interps = s.interps := rfl
@[simp] theorem turnTo_regs (s : State) (a : Agent) (r : List Agent) : (s.turnTo a r).regs = s.regs := rfl
@[simp] theorem turnTo_peerRegs (s : State) (a : Agent) (r : List Agent) : (s.turnTo a r).peerRegs = s.peerRegs := rfl
@[simp] theorem turnTo_noise (s : State) (a : Agent) (r : List Agent) : (s.turnTo a r).noise = s.noise := rfl
@[simp] theorem turnTo_dirtyGran (s : State) (a : Agent) (r : List Agent) : (s.turnTo a r).dirtyGran = s.dirtyGran := rfl
@[simp] theorem turnTo_outbox (s : State) (a : Agent) (r : List Agent) : (s.turnTo a r).outbox = s.outbox := rfl
@[simp] theorem turnTo_unrouted (s : State) (a : Agent) (r : List Agent) : (s.turnTo a r).unrouted = s.unrouted := rfl
@[simp] theorem turnTo_merges (s : State) (a : Agent) (r : List Agent) : (s.turnTo a r).merges = s.merges := rfl
@[simp] theorem turnTo_ports (s : State) (a : Agent) (r : List Agent) : (s.turnTo a r).ports = s.ports := rfl
@[simp] theorem turnTo_trans (s : State) (a : Agent) (r : List Agent) : (s.turnTo a r).trans = s.trans := rfl
@[simp] theorem turnTo_reads (s : State) (a : Agent) (r : List Agent) : (s.turnTo a r).reads = s.reads := rfl
@[simp] theorem turnTo_applied (s : State) (a : Agent) (r : List Agent) : (s.turnTo a r).applied = s.applied := rfl
@[simp] theorem turnTo_lostSecs (s : State) (a : Agent) (r : List Agent) : (s.turnTo a r).lostSecs = s.lostSecs := rfl
@[simp] theorem turnTo_linkFail (s : State) (a : Agent) (r : List Agent) : (s.turnTo a r).linkFail = s.linkFail := rfl
@[simp] theorem turnTo_govs (s : State) (a : Agent) (r : List Agent) : (s.turnTo a r).govs = s.govs := rfl
@[simp] theorem turnTo_therm (s : State) (a : Agent) (r : List Agent) : (s.turnTo a r).therm = s.therm := rfl
@[simp] theorem turnTo_belowHot (s : State) (a : Agent) (r : List Agent) : (s.turnTo a r).belowHot = s.belowHot := rfl
@[simp] theorem turnTo_belowWarm (s : State) (a : Agent) (r : List Agent) : (s.turnTo a r).belowWarm = s.belowWarm := rfl
@[simp] theorem turnTo_twarm (s : State) (a : Agent) (r : List Agent) : (s.turnTo a r).twarm = s.twarm := rfl
@[simp] theorem turnTo_thot (s : State) (a : Agent) (r : List Agent) : (s.turnTo a r).thot = s.thot := rfl
@[simp] theorem turnTo_ttrip (s : State) (a : Agent) (r : List Agent) : (s.turnTo a r).ttrip = s.ttrip := rfl
@[simp] theorem turnTo_inReset (s : State) (a : Agent) (r : List Agent) : (s.turnTo a r).inReset = s.inReset := rfl
@[simp] theorem turnTo_clusters (s : State) (a : Agent) (r : List Agent) : (s.turnTo a r).clusters = s.clusters := rfl
@[simp] theorem turnTo_shapes (s : State) (a : Agent) (r : List Agent) : (s.turnTo a r).shapes = s.shapes := rfl
@[simp] theorem turnTo_jobs (s : State) (a : Agent) (r : List Agent) : (s.turnTo a r).jobs = s.jobs := rfl
@[simp] theorem turnTo_colls (s : State) (a : Agent) (r : List Agent) : (s.turnTo a r).colls = s.colls := rfl
@[simp] theorem turnTo_contribs (s : State) (a : Agent) (r : List Agent) : (s.turnTo a r).contribs = s.contribs := rfl
@[simp] theorem turnTo_order (s : State) (a : Agent) (r : List Agent) : (s.turnTo a r).order = s.order := rfl
@[simp] theorem turnTo_tids (s : State) (a : Agent) (r : List Agent) : (s.turnTo a r).tids = s.tids := rfl
@[simp] theorem turnTo_bankq (s : State) (a : Agent) (r : List Agent) : (s.turnTo a r).bankq = s.bankq := rfl
@[simp] theorem turnTo_boot (s : State) (a : Agent) (r : List Agent) : (s.turnTo a r).boot = s.boot := rfl
@[simp] theorem turnTo_eth (s : State) (a : Agent) (r : List Agent) : (s.turnTo a r).eth = s.eth := rfl
@[simp] theorem turnTo_spdm (s : State) (a : Agent) (r : List Agent) : (s.turnTo a r).spdm = s.spdm := rfl
@[simp] theorem turnTo_cxlUp (s : State) (a : Agent) (r : List Agent) : (s.turnTo a r).cxlUp = s.cxlUp := rfl
@[simp] theorem turnTo_cxlBox (s : State) (a : Agent) (r : List Agent) : (s.turnTo a r).cxlBox = s.cxlBox := rfl
@[simp] theorem turnTo_cxlBase (s : State) (a : Agent) (r : List Agent) : (s.turnTo a r).cxlBase = s.cxlBase := rfl
@[simp] theorem turnTo_cxlSize (s : State) (a : Agent) (r : List Agent) : (s.turnTo a r).cxlSize = s.cxlSize := rfl
@[simp] theorem turnTo_hdmSet (s : State) (a : Agent) (r : List Agent) : (s.turnTo a r).hdmSet = s.hdmSet := rfl
@[simp] theorem turnTo_boxSet (s : State) (a : Agent) (r : List Agent) : (s.turnTo a r).boxSet = s.boxSet := rfl
@[simp] theorem turnTo_hostMem (s : State) (a : Agent) (r : List Agent) : (s.turnTo a r).hostMem = s.hostMem := rfl
@[simp] theorem turnTo_hostReqs (s : State) (a : Agent) (r : List Agent) : (s.turnTo a r).hostReqs = s.hostReqs := rfl
@[simp] theorem turnTo_hostDone (s : State) (a : Agent) (r : List Agent) : (s.turnTo a r).hostDone = s.hostDone := rfl
@[simp] theorem turnTo_cxlOut (s : State) (a : Agent) (r : List Agent) : (s.turnTo a r).cxlOut = s.cxlOut := rfl
@[simp] theorem turnTo_linkHeld (s : State) (a : Agent) (r : List Agent) : (s.turnTo a r).linkHeld = s.linkHeld := rfl
@[simp] theorem turnTo_cxlHeld (s : State) (a : Agent) (r : List Agent) : (s.turnTo a r).cxlHeld = s.cxlHeld := rfl
@[simp] theorem turnTo_core (s : State) (a : Agent) (r : List Agent) (m : Nat) : (s.turnTo a r).core m = s.core m := rfl
@[simp] theorem turnTo_hart (s : State) (a : Agent) (r : List Agent) (m : Nat) : (s.turnTo a r).hart m = s.hart m := rfl
@[simp] theorem turnTo_queue (s : State) (a : Agent) (r : List Agent) (m : Nat) : (s.turnTo a r).queue m = s.queue m := rfl
@[simp] theorem turnTo_interp (s : State) (a : Agent) (r : List Agent) (m : Nat) : (s.turnTo a r).interp m = s.interp m := rfl
@[simp] theorem turnTo_port (s : State) (a : Agent) (r : List Agent) (m : Nat) : (s.turnTo a r).port m = s.port m := rfl
@[simp] theorem turnTo_gov (s : State) (a : Agent) (r : List Agent) (m : Nat) : (s.turnTo a r).gov m = s.gov m := rfl
@[simp] theorem turnTo_cluster (s : State) (a : Agent) (r : List Agent) (m : Nat) : (s.turnTo a r).cluster m = s.cluster m := rfl
@[simp] theorem happenAt_turns (s : State) (n : Nat) (r : List (Nat × Instr)) : (s.happenAt n r).turns = s.turns := rfl
@[simp] theorem happenAt_fresh (s : State) (n : Nat) (r : List (Nat × Instr)) : (s.happenAt n r).fresh = s.fresh := rfl
@[simp] theorem happenAt_pcc (s : State) (n : Nat) (r : List (Nat × Instr)) : (s.happenAt n r).pcc = s.pcc := rfl
@[simp] theorem happenAt_mem (s : State) (n : Nat) (r : List (Nat × Instr)) : (s.happenAt n r).mem = s.mem := rfl
@[simp] theorem happenAt_poison (s : State) (n : Nat) (r : List (Nat × Instr)) : (s.happenAt n r).poison = s.poison := rfl
@[simp] theorem happenAt_l2Poison (s : State) (n : Nat) (r : List (Nat × Instr)) : (s.happenAt n r).l2Poison = s.l2Poison := rfl
@[simp] theorem happenAt_sleepUps (s : State) (n : Nat) (r : List (Nat × Instr)) : (s.happenAt n r).sleepUps = s.sleepUps := rfl
@[simp] theorem happenAt_yard (s : State) (n : Nat) (r : List (Nat × Instr)) : (s.happenAt n r).yard = s.yard := rfl
@[simp] theorem happenAt_flags (s : State) (n : Nat) (r : List (Nat × Instr)) : (s.happenAt n r).flags = s.flags := rfl
@[simp] theorem happenAt_ylocks (s : State) (n : Nat) (r : List (Nat × Instr)) : (s.happenAt n r).ylocks = s.ylocks := rfl
@[simp] theorem happenAt_seen (s : State) (n : Nat) (r : List (Nat × Instr)) : (s.happenAt n r).seen = s.seen := rfl
@[simp] theorem happenAt_invs (s : State) (n : Nat) (r : List (Nat × Instr)) : (s.happenAt n r).invs = s.invs := rfl
@[simp] theorem happenAt_plocks (s : State) (n : Nat) (r : List (Nat × Instr)) : (s.happenAt n r).plocks = s.plocks := rfl
@[simp] theorem happenAt_hcache (s : State) (n : Nat) (r : List (Nat × Instr)) : (s.happenAt n r).hcache = s.hcache := rfl
@[simp] theorem happenAt_domain (s : State) (n : Nat) (r : List (Nat × Instr)) : (s.happenAt n r).domain = s.domain := rfl
@[simp] theorem happenAt_upsets (s : State) (n : Nat) (r : List (Nat × Instr)) : (s.happenAt n r).upsets = s.upsets := rfl
@[simp] theorem happenAt_corrected (s : State) (n : Nat) (r : List (Nat × Instr)) : (s.happenAt n r).corrected = s.corrected := rfl
@[simp] theorem happenAt_cores (s : State) (n : Nat) (r : List (Nat × Instr)) : (s.happenAt n r).cores = s.cores := rfl
@[simp] theorem happenAt_harts (s : State) (n : Nat) (r : List (Nat × Instr)) : (s.happenAt n r).harts = s.harts := rfl
@[simp] theorem happenAt_resvs (s : State) (n : Nat) (r : List (Nat × Instr)) : (s.happenAt n r).resvs = s.resvs := rfl
@[simp] theorem happenAt_crs (s : State) (n : Nat) (r : List (Nat × Instr)) : (s.happenAt n r).crs = s.crs := rfl
@[simp] theorem happenAt_dirty (s : State) (n : Nat) (r : List (Nat × Instr)) : (s.happenAt n r).dirty = s.dirty := rfl
@[simp] theorem happenAt_saved (s : State) (n : Nat) (r : List (Nat × Instr)) : (s.happenAt n r).saved = s.saved := rfl
@[simp] theorem happenAt_lastDie (s : State) (n : Nat) (r : List (Nat × Instr)) : (s.happenAt n r).lastDie = s.lastDie := rfl
@[simp] theorem happenAt_target (s : State) (n : Nat) (r : List (Nat × Instr)) : (s.happenAt n r).target = s.target := rfl
@[simp] theorem happenAt_queues (s : State) (n : Nat) (r : List (Nat × Instr)) : (s.happenAt n r).queues = s.queues := rfl
@[simp] theorem happenAt_teams (s : State) (n : Nat) (r : List (Nat × Instr)) : (s.happenAt n r).teams = s.teams := rfl
@[simp] theorem happenAt_preempts (s : State) (n : Nat) (r : List (Nat × Instr)) : (s.happenAt n r).preempts = s.preempts := rfl
@[simp] theorem happenAt_reteam (s : State) (n : Nat) (r : List (Nat × Instr)) : (s.happenAt n r).reteam = s.reteam := rfl
@[simp] theorem happenAt_codes (s : State) (n : Nat) (r : List (Nat × Instr)) : (s.happenAt n r).codes = s.codes := rfl
@[simp] theorem happenAt_svcVec (s : State) (n : Nat) (r : List (Nat × Instr)) : (s.happenAt n r).svcVec = s.svcVec := rfl
@[simp] theorem happenAt_svcPa (s : State) (n : Nat) (r : List (Nat × Instr)) : (s.happenAt n r).svcPa = s.svcPa := rfl
@[simp] theorem happenAt_svcSize (s : State) (n : Nat) (r : List (Nat × Instr)) : (s.happenAt n r).svcSize = s.svcSize := rfl
@[simp] theorem happenAt_interps (s : State) (n : Nat) (r : List (Nat × Instr)) : (s.happenAt n r).interps = s.interps := rfl
@[simp] theorem happenAt_regs (s : State) (n : Nat) (r : List (Nat × Instr)) : (s.happenAt n r).regs = s.regs := rfl
@[simp] theorem happenAt_peerRegs (s : State) (n : Nat) (r : List (Nat × Instr)) : (s.happenAt n r).peerRegs = s.peerRegs := rfl
@[simp] theorem happenAt_noise (s : State) (n : Nat) (r : List (Nat × Instr)) : (s.happenAt n r).noise = s.noise := rfl
@[simp] theorem happenAt_dirtyGran (s : State) (n : Nat) (r : List (Nat × Instr)) : (s.happenAt n r).dirtyGran = s.dirtyGran := rfl
@[simp] theorem happenAt_outbox (s : State) (n : Nat) (r : List (Nat × Instr)) : (s.happenAt n r).outbox = s.outbox := rfl
@[simp] theorem happenAt_unrouted (s : State) (n : Nat) (r : List (Nat × Instr)) : (s.happenAt n r).unrouted = s.unrouted := rfl
@[simp] theorem happenAt_merges (s : State) (n : Nat) (r : List (Nat × Instr)) : (s.happenAt n r).merges = s.merges := rfl
@[simp] theorem happenAt_ports (s : State) (n : Nat) (r : List (Nat × Instr)) : (s.happenAt n r).ports = s.ports := rfl
@[simp] theorem happenAt_trans (s : State) (n : Nat) (r : List (Nat × Instr)) : (s.happenAt n r).trans = s.trans := rfl
@[simp] theorem happenAt_reads (s : State) (n : Nat) (r : List (Nat × Instr)) : (s.happenAt n r).reads = s.reads := rfl
@[simp] theorem happenAt_applied (s : State) (n : Nat) (r : List (Nat × Instr)) : (s.happenAt n r).applied = s.applied := rfl
@[simp] theorem happenAt_lostSecs (s : State) (n : Nat) (r : List (Nat × Instr)) : (s.happenAt n r).lostSecs = s.lostSecs := rfl
@[simp] theorem happenAt_linkFail (s : State) (n : Nat) (r : List (Nat × Instr)) : (s.happenAt n r).linkFail = s.linkFail := rfl
@[simp] theorem happenAt_govs (s : State) (n : Nat) (r : List (Nat × Instr)) : (s.happenAt n r).govs = s.govs := rfl
@[simp] theorem happenAt_therm (s : State) (n : Nat) (r : List (Nat × Instr)) : (s.happenAt n r).therm = s.therm := rfl
@[simp] theorem happenAt_belowHot (s : State) (n : Nat) (r : List (Nat × Instr)) : (s.happenAt n r).belowHot = s.belowHot := rfl
@[simp] theorem happenAt_belowWarm (s : State) (n : Nat) (r : List (Nat × Instr)) : (s.happenAt n r).belowWarm = s.belowWarm := rfl
@[simp] theorem happenAt_twarm (s : State) (n : Nat) (r : List (Nat × Instr)) : (s.happenAt n r).twarm = s.twarm := rfl
@[simp] theorem happenAt_thot (s : State) (n : Nat) (r : List (Nat × Instr)) : (s.happenAt n r).thot = s.thot := rfl
@[simp] theorem happenAt_ttrip (s : State) (n : Nat) (r : List (Nat × Instr)) : (s.happenAt n r).ttrip = s.ttrip := rfl
@[simp] theorem happenAt_inReset (s : State) (n : Nat) (r : List (Nat × Instr)) : (s.happenAt n r).inReset = s.inReset := rfl
@[simp] theorem happenAt_clusters (s : State) (n : Nat) (r : List (Nat × Instr)) : (s.happenAt n r).clusters = s.clusters := rfl
@[simp] theorem happenAt_shapes (s : State) (n : Nat) (r : List (Nat × Instr)) : (s.happenAt n r).shapes = s.shapes := rfl
@[simp] theorem happenAt_jobs (s : State) (n : Nat) (r : List (Nat × Instr)) : (s.happenAt n r).jobs = s.jobs := rfl
@[simp] theorem happenAt_colls (s : State) (n : Nat) (r : List (Nat × Instr)) : (s.happenAt n r).colls = s.colls := rfl
@[simp] theorem happenAt_contribs (s : State) (n : Nat) (r : List (Nat × Instr)) : (s.happenAt n r).contribs = s.contribs := rfl
@[simp] theorem happenAt_order (s : State) (n : Nat) (r : List (Nat × Instr)) : (s.happenAt n r).order = s.order := rfl
@[simp] theorem happenAt_tids (s : State) (n : Nat) (r : List (Nat × Instr)) : (s.happenAt n r).tids = s.tids := rfl
@[simp] theorem happenAt_bankq (s : State) (n : Nat) (r : List (Nat × Instr)) : (s.happenAt n r).bankq = s.bankq := rfl
@[simp] theorem happenAt_boot (s : State) (n : Nat) (r : List (Nat × Instr)) : (s.happenAt n r).boot = s.boot := rfl
@[simp] theorem happenAt_eth (s : State) (n : Nat) (r : List (Nat × Instr)) : (s.happenAt n r).eth = s.eth := rfl
@[simp] theorem happenAt_spdm (s : State) (n : Nat) (r : List (Nat × Instr)) : (s.happenAt n r).spdm = s.spdm := rfl
@[simp] theorem happenAt_cxlUp (s : State) (n : Nat) (r : List (Nat × Instr)) : (s.happenAt n r).cxlUp = s.cxlUp := rfl
@[simp] theorem happenAt_cxlBox (s : State) (n : Nat) (r : List (Nat × Instr)) : (s.happenAt n r).cxlBox = s.cxlBox := rfl
@[simp] theorem happenAt_cxlBase (s : State) (n : Nat) (r : List (Nat × Instr)) : (s.happenAt n r).cxlBase = s.cxlBase := rfl
@[simp] theorem happenAt_cxlSize (s : State) (n : Nat) (r : List (Nat × Instr)) : (s.happenAt n r).cxlSize = s.cxlSize := rfl
@[simp] theorem happenAt_hdmSet (s : State) (n : Nat) (r : List (Nat × Instr)) : (s.happenAt n r).hdmSet = s.hdmSet := rfl
@[simp] theorem happenAt_boxSet (s : State) (n : Nat) (r : List (Nat × Instr)) : (s.happenAt n r).boxSet = s.boxSet := rfl
@[simp] theorem happenAt_hostMem (s : State) (n : Nat) (r : List (Nat × Instr)) : (s.happenAt n r).hostMem = s.hostMem := rfl
@[simp] theorem happenAt_hostReqs (s : State) (n : Nat) (r : List (Nat × Instr)) : (s.happenAt n r).hostReqs = s.hostReqs := rfl
@[simp] theorem happenAt_hostDone (s : State) (n : Nat) (r : List (Nat × Instr)) : (s.happenAt n r).hostDone = s.hostDone := rfl
@[simp] theorem happenAt_cxlOut (s : State) (n : Nat) (r : List (Nat × Instr)) : (s.happenAt n r).cxlOut = s.cxlOut := rfl
@[simp] theorem happenAt_linkHeld (s : State) (n : Nat) (r : List (Nat × Instr)) : (s.happenAt n r).linkHeld = s.linkHeld := rfl
@[simp] theorem happenAt_cxlHeld (s : State) (n : Nat) (r : List (Nat × Instr)) : (s.happenAt n r).cxlHeld = s.cxlHeld := rfl
@[simp] theorem happenAt_core (s : State) (n : Nat) (r : List (Nat × Instr)) (m : Nat) : (s.happenAt n r).core m = s.core m := rfl
@[simp] theorem happenAt_hart (s : State) (n : Nat) (r : List (Nat × Instr)) (m : Nat) : (s.happenAt n r).hart m = s.hart m := rfl
@[simp] theorem happenAt_queue (s : State) (n : Nat) (r : List (Nat × Instr)) (m : Nat) : (s.happenAt n r).queue m = s.queue m := rfl
@[simp] theorem happenAt_interp (s : State) (n : Nat) (r : List (Nat × Instr)) (m : Nat) : (s.happenAt n r).interp m = s.interp m := rfl
@[simp] theorem happenAt_port (s : State) (n : Nat) (r : List (Nat × Instr)) (m : Nat) : (s.happenAt n r).port m = s.port m := rfl
@[simp] theorem happenAt_gov (s : State) (n : Nat) (r : List (Nat × Instr)) (m : Nat) : (s.happenAt n r).gov m = s.gov m := rfl
@[simp] theorem happenAt_cluster (s : State) (n : Nat) (r : List (Nat × Instr)) (m : Nat) : (s.happenAt n r).cluster m = s.cluster m := rfl
@[simp] theorem atUnit_agenda (s : State) (n : Nat) : (s.atUnit n).agenda = s.agenda := rfl
@[simp] theorem atUnit_turns (s : State) (n : Nat) : (s.atUnit n).turns = s.turns := rfl
@[simp] theorem atUnit_fresh (s : State) (n : Nat) : (s.atUnit n).fresh = s.fresh := rfl
@[simp] theorem atUnit_pcc (s : State) (n : Nat) : (s.atUnit n).pcc = s.pcc := rfl
@[simp] theorem atUnit_mem (s : State) (n : Nat) : (s.atUnit n).mem = s.mem := rfl
@[simp] theorem atUnit_poison (s : State) (n : Nat) : (s.atUnit n).poison = s.poison := rfl
@[simp] theorem atUnit_l2Poison (s : State) (n : Nat) : (s.atUnit n).l2Poison = s.l2Poison := rfl
@[simp] theorem atUnit_sleepUps (s : State) (n : Nat) : (s.atUnit n).sleepUps = s.sleepUps := rfl
@[simp] theorem atUnit_yard (s : State) (n : Nat) : (s.atUnit n).yard = s.yard := rfl
@[simp] theorem atUnit_flags (s : State) (n : Nat) : (s.atUnit n).flags = s.flags := rfl
@[simp] theorem atUnit_ylocks (s : State) (n : Nat) : (s.atUnit n).ylocks = s.ylocks := rfl
@[simp] theorem atUnit_seen (s : State) (n : Nat) : (s.atUnit n).seen = s.seen := rfl
@[simp] theorem atUnit_invs (s : State) (n : Nat) : (s.atUnit n).invs = s.invs := rfl
@[simp] theorem atUnit_plocks (s : State) (n : Nat) : (s.atUnit n).plocks = s.plocks := rfl
@[simp] theorem atUnit_hcache (s : State) (n : Nat) : (s.atUnit n).hcache = s.hcache := rfl
@[simp] theorem atUnit_hused (s : State) (n : Nat) : (s.atUnit n).hused = s.hused := rfl
@[simp] theorem atUnit_domain (s : State) (n : Nat) : (s.atUnit n).domain = s.domain := rfl
@[simp] theorem atUnit_upsets (s : State) (n : Nat) : (s.atUnit n).upsets = s.upsets := rfl
@[simp] theorem atUnit_corrected (s : State) (n : Nat) : (s.atUnit n).corrected = s.corrected := rfl
@[simp] theorem atUnit_cores (s : State) (n : Nat) : (s.atUnit n).cores = s.cores := rfl
@[simp] theorem atUnit_harts (s : State) (n : Nat) : (s.atUnit n).harts = s.harts := rfl
@[simp] theorem atUnit_resvs (s : State) (n : Nat) : (s.atUnit n).resvs = s.resvs := rfl
@[simp] theorem atUnit_crs (s : State) (n : Nat) : (s.atUnit n).crs = s.crs := rfl
@[simp] theorem atUnit_dirty (s : State) (n : Nat) : (s.atUnit n).dirty = s.dirty := rfl
@[simp] theorem atUnit_saved (s : State) (n : Nat) : (s.atUnit n).saved = s.saved := rfl
@[simp] theorem atUnit_lastDie (s : State) (n : Nat) : (s.atUnit n).lastDie = s.lastDie := rfl
@[simp] theorem atUnit_target (s : State) (n : Nat) : (s.atUnit n).target = s.target := rfl
@[simp] theorem atUnit_queues (s : State) (n : Nat) : (s.atUnit n).queues = s.queues := rfl
@[simp] theorem atUnit_teams (s : State) (n : Nat) : (s.atUnit n).teams = s.teams := rfl
@[simp] theorem atUnit_preempts (s : State) (n : Nat) : (s.atUnit n).preempts = s.preempts := rfl
@[simp] theorem atUnit_reteam (s : State) (n : Nat) : (s.atUnit n).reteam = s.reteam := rfl
@[simp] theorem atUnit_codes (s : State) (n : Nat) : (s.atUnit n).codes = s.codes := rfl
@[simp] theorem atUnit_svcVec (s : State) (n : Nat) : (s.atUnit n).svcVec = s.svcVec := rfl
@[simp] theorem atUnit_svcPa (s : State) (n : Nat) : (s.atUnit n).svcPa = s.svcPa := rfl
@[simp] theorem atUnit_svcSize (s : State) (n : Nat) : (s.atUnit n).svcSize = s.svcSize := rfl
@[simp] theorem atUnit_interps (s : State) (n : Nat) : (s.atUnit n).interps = s.interps := rfl
@[simp] theorem atUnit_regs (s : State) (n : Nat) : (s.atUnit n).regs = s.regs := rfl
@[simp] theorem atUnit_peerRegs (s : State) (n : Nat) : (s.atUnit n).peerRegs = s.peerRegs := rfl
@[simp] theorem atUnit_noise (s : State) (n : Nat) : (s.atUnit n).noise = s.noise := rfl
@[simp] theorem atUnit_dirtyGran (s : State) (n : Nat) : (s.atUnit n).dirtyGran = s.dirtyGran := rfl
@[simp] theorem atUnit_outbox (s : State) (n : Nat) : (s.atUnit n).outbox = s.outbox := rfl
@[simp] theorem atUnit_unrouted (s : State) (n : Nat) : (s.atUnit n).unrouted = s.unrouted := rfl
@[simp] theorem atUnit_merges (s : State) (n : Nat) : (s.atUnit n).merges = s.merges := rfl
@[simp] theorem atUnit_ports (s : State) (n : Nat) : (s.atUnit n).ports = s.ports := rfl
@[simp] theorem atUnit_trans (s : State) (n : Nat) : (s.atUnit n).trans = s.trans := rfl
@[simp] theorem atUnit_reads (s : State) (n : Nat) : (s.atUnit n).reads = s.reads := rfl
@[simp] theorem atUnit_applied (s : State) (n : Nat) : (s.atUnit n).applied = s.applied := rfl
@[simp] theorem atUnit_lostSecs (s : State) (n : Nat) : (s.atUnit n).lostSecs = s.lostSecs := rfl
@[simp] theorem atUnit_linkFail (s : State) (n : Nat) : (s.atUnit n).linkFail = s.linkFail := rfl
@[simp] theorem atUnit_govs (s : State) (n : Nat) : (s.atUnit n).govs = s.govs := rfl
@[simp] theorem atUnit_therm (s : State) (n : Nat) : (s.atUnit n).therm = s.therm := rfl
@[simp] theorem atUnit_belowHot (s : State) (n : Nat) : (s.atUnit n).belowHot = s.belowHot := rfl
@[simp] theorem atUnit_belowWarm (s : State) (n : Nat) : (s.atUnit n).belowWarm = s.belowWarm := rfl
@[simp] theorem atUnit_twarm (s : State) (n : Nat) : (s.atUnit n).twarm = s.twarm := rfl
@[simp] theorem atUnit_thot (s : State) (n : Nat) : (s.atUnit n).thot = s.thot := rfl
@[simp] theorem atUnit_ttrip (s : State) (n : Nat) : (s.atUnit n).ttrip = s.ttrip := rfl
@[simp] theorem atUnit_inReset (s : State) (n : Nat) : (s.atUnit n).inReset = s.inReset := rfl
@[simp] theorem atUnit_clusters (s : State) (n : Nat) : (s.atUnit n).clusters = s.clusters := rfl
@[simp] theorem atUnit_shapes (s : State) (n : Nat) : (s.atUnit n).shapes = s.shapes := rfl
@[simp] theorem atUnit_jobs (s : State) (n : Nat) : (s.atUnit n).jobs = s.jobs := rfl
@[simp] theorem atUnit_colls (s : State) (n : Nat) : (s.atUnit n).colls = s.colls := rfl
@[simp] theorem atUnit_contribs (s : State) (n : Nat) : (s.atUnit n).contribs = s.contribs := rfl
@[simp] theorem atUnit_order (s : State) (n : Nat) : (s.atUnit n).order = s.order := rfl
@[simp] theorem atUnit_tids (s : State) (n : Nat) : (s.atUnit n).tids = s.tids := rfl
@[simp] theorem atUnit_bankq (s : State) (n : Nat) : (s.atUnit n).bankq = s.bankq := rfl
@[simp] theorem atUnit_boot (s : State) (n : Nat) : (s.atUnit n).boot = s.boot := rfl
@[simp] theorem atUnit_eth (s : State) (n : Nat) : (s.atUnit n).eth = s.eth := rfl
@[simp] theorem atUnit_spdm (s : State) (n : Nat) : (s.atUnit n).spdm = s.spdm := rfl
@[simp] theorem atUnit_cxlUp (s : State) (n : Nat) : (s.atUnit n).cxlUp = s.cxlUp := rfl
@[simp] theorem atUnit_cxlBox (s : State) (n : Nat) : (s.atUnit n).cxlBox = s.cxlBox := rfl
@[simp] theorem atUnit_cxlBase (s : State) (n : Nat) : (s.atUnit n).cxlBase = s.cxlBase := rfl
@[simp] theorem atUnit_cxlSize (s : State) (n : Nat) : (s.atUnit n).cxlSize = s.cxlSize := rfl
@[simp] theorem atUnit_hdmSet (s : State) (n : Nat) : (s.atUnit n).hdmSet = s.hdmSet := rfl
@[simp] theorem atUnit_boxSet (s : State) (n : Nat) : (s.atUnit n).boxSet = s.boxSet := rfl
@[simp] theorem atUnit_hostMem (s : State) (n : Nat) : (s.atUnit n).hostMem = s.hostMem := rfl
@[simp] theorem atUnit_hostReqs (s : State) (n : Nat) : (s.atUnit n).hostReqs = s.hostReqs := rfl
@[simp] theorem atUnit_hostDone (s : State) (n : Nat) : (s.atUnit n).hostDone = s.hostDone := rfl
@[simp] theorem atUnit_cxlOut (s : State) (n : Nat) : (s.atUnit n).cxlOut = s.cxlOut := rfl
@[simp] theorem atUnit_linkHeld (s : State) (n : Nat) : (s.atUnit n).linkHeld = s.linkHeld := rfl
@[simp] theorem atUnit_cxlHeld (s : State) (n : Nat) : (s.atUnit n).cxlHeld = s.cxlHeld := rfl
@[simp] theorem atUnit_core (s : State) (n : Nat) (m : Nat) : (s.atUnit n).core m = s.core m := rfl
@[simp] theorem atUnit_hart (s : State) (n : Nat) (m : Nat) : (s.atUnit n).hart m = s.hart m := rfl
@[simp] theorem atUnit_queue (s : State) (n : Nat) (m : Nat) : (s.atUnit n).queue m = s.queue m := rfl
@[simp] theorem atUnit_interp (s : State) (n : Nat) (m : Nat) : (s.atUnit n).interp m = s.interp m := rfl
@[simp] theorem atUnit_port (s : State) (n : Nat) (m : Nat) : (s.atUnit n).port m = s.port m := rfl
@[simp] theorem atUnit_gov (s : State) (n : Nat) (m : Nat) : (s.atUnit n).gov m = s.gov m := rfl
@[simp] theorem atUnit_cluster (s : State) (n : Nat) (m : Nat) : (s.atUnit n).cluster m = s.cluster m := rfl
@[simp] theorem turnTo_agent (s : State) (a : Agent) (r : List Agent) : (s.turnTo a r).agent = a := rfl
@[simp] theorem happenAt_agent (s : State) (n : Nat) (r : List (Nat × Instr)) : (s.happenAt n r).agent = .unit n := rfl
@[simp] theorem atUnit_agent (s : State) (n : Nat) : (s.atUnit n).agent = .unit n := rfl
@[simp] theorem happenAt_unit (s : State) (n : Nat) (r : List (Nat × Instr)) : (s.happenAt n r).unit = n := rfl
@[simp] theorem atUnit_unit (s : State) (n : Nat) : (s.atUnit n).unit = n := rfl

end State

/-! ## Cores -/

namespace Core

@[simp] theorem eng_setEng (k : Core) (e f : Eng) (g : EngSt) : (k.setEng e g).eng f = if f = e then g else k.eng f := by
  cases e <;> cases f <;> rfl

@[simp] theorem setEng_ct (k : Core) (e : Eng) (g : EngSt) : (k.setEng e g).ct = k.ct := by cases e <;> rfl

@[simp] theorem modEng_eq (k : Core) (e : Eng) (f : EngSt → EngSt) : k.modEng e f = k.setEng e (f (k.eng e)) := rfl

/-- A write of an x register: read back at the register written unless it is x0, and nowhere else. -/
@[simp] theorem getX_setX (k : Core) (r q : BitVec 5) (w : Word) :
    (k.setX r w).getX q = if q = r ∧ r ≠ 0#5 then w else k.getX q := by
  unfold setX getX
  by_cases hr : r = 0#5
  · simp [hr]
  · by_cases hq : q = 0#5
    · subst hq; simp [hr, Ne.symm hr]
    · simp only [hr, hq, if_false, nth_fillAt]
      by_cases h : q = r
      · subst h; simp [hr]
      · have : q.toNat ≠ r.toNat := fun e => h (BitVec.eq_of_toNat_eq e)
        simp [h, this]

@[simp] theorem getX_zero (k : Core) : k.getX 0#5 = 0#64 := rfl

end Core

namespace Hart

@[simp] theorem getX_setX (k : Hart) (r q : BitVec 5) (w : Word) :
    (k.setX r w).getX q = if q = r ∧ r ≠ 0#5 then w else k.getX q := by
  unfold setX getX
  by_cases hr : r = 0#5
  · simp [hr]
  · by_cases hq : q = 0#5
    · subst hq; simp [hr, Ne.symm hr]
    · simp only [hr, hq, if_false, nth_fillAt]
      by_cases h : q = r
      · subst h; simp [hr]
      · have : q.toNat ≠ r.toNat := fun e => h (BitVec.eq_of_toNat_eq e)
        simp [h, this]

end Hart

end Sys2Proof.Machine
end

