-- ==== Sys2Proof/Laws/Ops.lean ====
section
/-!
SUPPORT. What the shared operations of a control sequencer and a hart do: writing a register and retiring, going to an address, entering
service.
-/

namespace Sys2Proof.Machine

namespace State

theorem rx_ct {s : State} {c : Nat} (h : s.agent = .seq c .ct) (r : BitVec 5) : s.rx r = (s.core c).getX r := by
  unfold rx; rw [h]

theorem rx_hart {s : State} {h : Nat} (e : s.agent = .hart h) (r : BitVec 5) : s.rx r = (s.hart h).getX r := by
  unfold rx; rw [e]; rfl

theorem pc_ct {s : State} {c : Nat} (h : s.agent = .seq c .ct) : s.pc = (s.core c).ct.pc := by unfold pc; rw [h]

theorem pc_hart {s : State} {h : Nat} (e : s.agent = .hart h) : s.pc = (s.hart h).pc := by unfold pc; rw [e]

theorem wx_ct {s : State} {c : Nat} (h : s.agent = .seq c .ct) (r : BitVec 5) (w : Word) :
    s.wx r w = s.setCore c ((s.core c).setX r w) := by unfold wx; rw [h]; rfl

theorem wx_hart {s : State} {h : Nat} (e : s.agent = .hart h) (r : BitVec 5) (w : Word) (hr : r ≠ 0#5) :
    s.wx r w = s.setHart h ((s.hart h).setX r w) := by unfold wx; rw [e]; simp [hr, Hart.setX]

theorem goto_ct {s : State} {c : Nat} (h : s.agent = .seq c .ct) (pc : Word) :
    s.goto pc = s.setCore c ((s.core c).retireTo pc) := by unfold goto; rw [h]; rfl

theorem goto_hart {s : State} {h : Nat} (e : s.agent = .hart h) (pc : Word) :
    s.goto pc = s.setHart h ((s.hart h).retireTo pc) := by unfold goto; rw [e]; rfl

@[simp] theorem wx_agent (s : State) (r : BitVec 5) (w : Word) : (s.wx r w).agent = s.agent := by
  unfold wx; split
  · simp
  · split <;> simp
  · rfl

@[simp] theorem wx_pc (s : State) (r : BitVec 5) (w : Word) : (s.wx r w).pc = s.pc := by
  unfold pc; rw [wx_agent]
  split
  · next c h => rw [wx_ct h]; simp [Core.setX]; split <;> rfl
  · next h e =>
    by_cases hr : r = 0#5
    · unfold wx; rw [e]; simp [hr]
    · rw [wx_hart e r w hr]; simp [Hart.setX, hr]
  · rfl

theorem done_ct {s : State} {c : Nat} (h : s.agent = .seq c .ct) (rd : BitVec 5) (v pc : Word) :
    (s.wx rd v).goto pc = s.setCore c (((s.core c).setX rd v).retireTo pc) := by
  have ha : (s.wx rd v).agent = .seq c .ct := by simp [h]
  rw [goto_ct ha, wx_ct h, setCore_setCore, setCore_core, if_pos rfl]

theorem done_hart {s : State} {g : Nat} (h : s.agent = .hart g) (rd : BitVec 5) (v pc : Word) (hr : rd ≠ 0#5) :
    (s.wx rd v).goto pc = s.setHart g (((s.hart g).setX rd v).retireTo pc) := by
  have ha : (s.wx rd v).agent = .hart g := by simp [h]
  rw [goto_hart ha, wx_hart h rd v hr, setHart_setHart, setHart_hart, if_pos rfl]

/-- A register written and a pc gone to on a control sequencer. -/
theorem ctWrote_setCore (s : State) (c : Nat) (rd : BitVec 5) (v pc : Word) :
    CtWrote s (s.setCore c (((s.core c).setX rd v).retireTo pc)) c rd v pc := by
  refine ⟨?_, ?_, ?_⟩
  · intro r; rw [setCore_core, if_pos rfl]; exact Core.getX_setX (s.core c) rd r v
  · rw [setCore_core, if_pos rfl]
    refine ⟨((s.core c).setX rd v).ct.x, ?_⟩
    simp only [Core.retireTo, Core.setX]
    split <;> rfl
  · rw [setCore_core, if_pos rfl]

/-- A register written and an address gone to: the whole effect. -/
theorem wrote_goto (s : State) (h : Scalar s) (rd : BitVec 5) (v pc : Word) : Wrote s ((s.wx rd v).goto pc) rd v pc := by
  unfold Wrote
  rcases h with ⟨c, h⟩ | ⟨g, h⟩
  · rw [h, done_ct h]; exact ctWrote_setCore s c rd v pc
  · rw [h]
    by_cases hr : rd = 0#5
    · have e : s.wx rd v = s := by unfold wx; rw [h]; simp [hr]
      simp only [e, goto_hart h]
      exact ⟨fun r => by simp [hr, Hart.getX, Hart.retireTo], ⟨(s.hart g).x, by simp [Hart.retireTo]⟩, by simp⟩
    · rw [done_hart h rd v pc hr]
      refine ⟨?_, ?_, ?_⟩
      · intro r; rw [setHart_hart, if_pos rfl]; exact Hart.getX_setX (s.hart g) rd r v
      · rw [setHart_hart, if_pos rfl]
        exact ⟨((s.hart g).setX rd v).x, by simp only [Hart.setX, Hart.retireTo]; split <;> rfl⟩
      · rw [setHart_hart, if_pos rfl]

theorem wrote_done (s : State) (h : Scalar s) (rd : BitVec 5) (v : Word) : Wrote s (s.done rd v) rd v (s.pc + 4#64) := by
  unfold done step4; rw [wx_pc]; exact wrote_goto s h rd v _

theorem wrote_only_goto (s : State) (h : Scalar s) (pc : Word) : Wrote s (s.goto pc) 0#5 0#64 pc := by
  have := wrote_goto s h 0#5 0#64 pc
  rcases h with ⟨c, h⟩ | ⟨g, h⟩
  · rw [done_ct h] at this; rw [goto_ct h]; exact this
  · have e : s.wx 0#5 0#64 = s := by unfold wx; rw [h]; rfl
    rw [e] at this; exact this

theorem wrote_step4 (s : State) (h : Scalar s) : Wrote s s.step4 0#5 0#64 (s.pc + 4#64) := wrote_only_goto s h _

end State

end Sys2Proof.Machine
end

