-- ==== Sys2Proof/Tests/Slice0.lean ====
section
/-!
SUPPORT. Tests: ill-formed terms, words of the spec decoded, single steps on small states, and a witness of the hypotheses of each
statement.
-/

namespace Sys2Proof.Tests

open Sys2Proof Sys2Proof.Machine

-- one theorem after the other: checked side by side, their threads ask for more memory than the package may use
set_option Elab.async false

/-! ## Small states -/

/-- A core whose control sequencer runs a task. -/
def coreU : Core := { crid := 1, phase := .running }

/-- Core 0 is `k`, and its control sequencer executes. -/
def atCt (k : Core) : State := { cores := [(0, k)], agent := .seq 0 .ct, domain := [0] }

/-- Core 0 is `k`, and its engine `e` executes. -/
def atEng (e : Eng) (k : Core) : State := { cores := [(0, k)], agent := .seq 0 (.eng e) }

/-- Core 0 is `k`, and something happens at unit `n`. -/
def atUnit (n : Nat) (k : Core) : State := { cores := [(0, k)], agent := .unit n }

/-- Hart 1 is `k` and executes. -/
def atHart (k : Hart) : State := { harts := [(1, k)], agent := .hart 1 }

/-- x registers: the numbers listed, from x1 on. -/
def regs (l : List Nat) : List Word := fit 0#64 32 (0#64 :: l.map (BitVec.ofNat 64))

/-- A core with x registers. -/
def coreX (l : List Nat) : Core := { coreU with ct := { x := regs l } }

/-- A view over local memory that a task may load from and store to. -/
def dataView : View := { base := 0x1000, size := 0x1000, back := .phys 0x1000, r := true, w := true, x := true, kind := .code }

def mode3 : Hart := { held := false, mode := 3 }
def mode0 : Hart := { held := false, mode := 0 }

/-- A guard that takes every word. -/
def always : Guard := ⟨false, false, 0#4, 0#2⟩

/-- Does a result exist that passes `f`? -/
def hit {α : Type} (f : α → Bool) : Rs α → Bool
  | .ok a => f a
  | .bad _ => false

theorem found {α : Type} (r : Rs α) (f : α → Bool) (h : hit f r = true) : ∃ a, r = .ok a ∧ f a = true := by
  cases r with
  | ok a => exact ⟨a, rfl, h⟩
  | bad f => exact absurd h (by simp [hit])
theorem foundIs {α : Type} [DecidableEq α] (r : Rs α) (a : α) (h : hit (fun x => decide (x = a)) r = true) : r = .ok a := by
  obtain ⟨b, e, q⟩ := found r _ h
  exact e.trans (congrArg Rs.ok (of_decide_eq_true q))

/-! ## Ill-formed terms (WellFormed) -/

theorem test_wf_csr_funct3_0 : (Instr.csrAccess 0#3 0xC00#12 0#5 1#5).wf = false := by decide
theorem test_wf_csr_funct3_4 : (Instr.csrAccess 4#3 0xC00#12 0#5 1#5).wf = false := by decide
theorem test_wf_csr : (Instr.csrAccess 1#3 0xC00#12 0#5 1#5).wf = true := by decide
theorem test_wf_shift_word : (Instr.rv64IntegerInstruction (.sh .slliw 1#5 2#5 32#6)).wf = false := by decide
theorem test_wf_shift : (Instr.rv64IntegerInstruction (.sh .slli 1#5 2#5 63#6)).wf = true := by decide
theorem test_wf_moctl : (Instr.moctl always (VrWord.ofBits 0#96)).wf = true := by decide
theorem test_wf_moctl_rd : (Instr.moctlRd always (VrWord.ofBits 0#96)).wf = false := by decide
theorem test_wf_dbars_full : (Instr.dbarsFull always (DxWord.ofBits 0#96)).wf = true := by decide
theorem test_wf_dbars_wait : (Instr.dbarsWait always (DxWord.ofBits 0#96)).wf = false := by decide
theorem test_wf_entries :
    (List.range 12).map (fun t =>
      [Instr.launch, .waitev, .skipif, .jump, .call, .ret, .signal, .publish, .preempt, .pass, .endList].map fun c =>
        (c ⟨BitVec.ofNat 64 t, 0#64, 0#64, 0#64⟩).wf) =
      (List.range 12).map fun t => (List.range 11).map fun n => n + 1 == t := by decide
theorem test_wf_unassigned : (Instr.unassignedCtEncoding 0#32).wf = false ∧ (Instr.unassignedEngineOpcode 0#96).wf = false := by decide

/-! ## Words that the spec writes out, decoded -/

-- The examples of R58, R79, R173, R416 and of the chapters of the engines.
theorem test_word_yswitch : decode32 0x06C576FB#32 = .yswitch 12#5 10#5 13#5 := by decide
theorem test_word_hhinv : decode32 0x0805F07B#32 = .hhinv 11#5 := by decide
theorem test_word_loop :
    decodeEngine .dr 0x010040030000000A00000000#96 0#96 0#96 = .loop always ⟨1#2, 3#14, 10#32, 0#32⟩ := by decide
theorem test_word_morelu : decodeEngine .ma 0x670008000000000000000000#96 0#96 0#96 =
    .morelu always ⟨1#5, 0#5, 0#5, 0#5, 0#4, false, false, 0#4, false, 0#1, 0#32, 0#16⟩ := by decide
theorem test_word_moctl : (match decodeEngine .ma 0x6C0000000000000000040000#96 0#96 0#96 with
    | .moctl g f => g == always && f.imm == 4#32 && f.sub == 0#4
    | _ => false) = true := by decide
theorem test_word_mocoll : (match decodeEngine .ma 0x6B007980000AC00000000000#96 0#96 0#96 with
    | .mocoll g f => g == always && f.d == 15#5 && f.a == 6#5 && f.imm == 0xC0000000#32
    | _ => false) = true := by decide
theorem test_word_unassigned_ct : decode32 0xFFFFFFFF#32 = .unassignedCtEncoding 0xFFFFFFFF#32 := by decide
theorem test_word_entry_end : decodeEntry ⟨0x0B#64, 0#64, 0#64, 0#64⟩ = some (.endList ⟨0x0B#64, 0#64, 0#64, 0#64⟩) := by decide
theorem test_word_entry_unknown : decodeEntry ⟨0x0C#64, 0#64, 0#64, 0#64⟩ = none := by decide

/-! ## Witnesses: encodings, steps -/

theorem witness_scalarEncodings :
    (Instr.fork 5#5).wf = true ∧ encode32 (.fork 5#5) = some 0x0002800B#32 := by decide
theorem witness_engineWords : (Instr.loop always ⟨1#2, 3#14, 10#32, 0#32⟩).wf = true ∧
    inMap .ma (.loop always ⟨1#2, 3#14, 10#32, 0#32⟩) = true ∧ inMap .fe (.loop always ⟨1#2, 3#14, 10#32, 0#32⟩) = true := by decide
theorem witness_listEntries : (Instr.endList ⟨0x0B#64, 0#64, 0#64, 0#64⟩).wf = true ∧
    encodeEntry (.endList ⟨0x0B#64, 0#64, 0#64, 0#64⟩) = some ⟨0x0B#64, 0#64, 0#64, 0#64⟩ := by decide

/-- A state in which one agent has its turn. -/
def turnOf (s : State) (a : Agent) : State := { s with turns := [a], agent := .clock }

/-- The control sequencer of core 0 stands at an instruction in a view over local memory. -/
def ctFetches : State := turnOf (atCt { coreU with ct := { pc := 0x1000#64 }, views := [dataView] }) (.seq 0 .ct)

/-- An engine that stands at the first word of a section of three slots. -/
def engineAt (g : EngSt) : EngSt :=
  { g with hdrPc := 0x1000#64, ended := false, inSec := true, hdr := BitVec.ofNat 64 (3 * 2 ^ 50), tracks := [{ num := 1#16 }] }

/-- Engine `e` of core 0 stands at the first word of a section in a view over local memory. -/
def engFetches (e : Eng) : State :=
  turnOf (atEng e ({ coreU with forkOut := true, views := [dataView] }.modEng e engineAt)) (.seq 0 (.eng e))

theorem witness_step_agenda : { atCt coreU with agenda := [(0, .wfi)] }.agenda = [(0, Instr.wfi)] := rfl
theorem witness_step_ct : ctFetches.agenda = [] ∧ ctFetches.retiring = none ∧ ctFetches.turns = [.seq 0 .ct] ∧
    (ctFetches.turnTo (.seq 0 .ct) []).ctMoves 0 = true ∧ deadlineDue (ctFetches.turnTo (.seq 0 .ct) []) 0 = false ∧
    (ctFetches.turnTo (.seq 0 .ct) []).serviceDue 0 = false ∧ (ctFetches.core 0).ct.wait = none ∧
    (ctFetches.turnTo (.seq 0 .ct) []).fetch 0 (ctFetches.core 0).ct.pc.toNat 4 = some [0#8, 0#8, 0#8, 0#8] := by decide
theorem witness_step_engine : ∀ e ∈ [Eng.fe, .ma, .dr],
    (engFetches e).agenda = [] ∧ (engFetches e).retiring = none ∧ (engFetches e).turns = [.seq 0 (.eng e)] ∧
    MayIssue (engFetches e) 0 e ∧ AtWord (engFetches e) 0 e ∧
    ((engFetches e).turnTo (.seq 0 (.eng e)) []).fetch 0 ((((engFetches e).core 0).eng e).hdrPc.toNat + 8 + 12 * ((((engFetches e).core 0).eng e).slot + 0))
      12 = some (List.replicate 12 0#8) := by
  intro e he
  simp only [List.mem_cons, List.not_mem_nil, or_false] at he
  rcases he with rfl | rfl | rfl <;> exact ⟨rfl, rfl, rfl, ⟨rfl, by decide, rfl⟩, ⟨rfl, rfl, rfl, rfl, by decide, rfl, rfl, by decide⟩, rfl⟩
theorem witness_step_nest : ∃ b, opcodeOf (wordOf b) = 0x58#8 := ⟨List.replicate 11 0#8 ++ [0x58#8], by decide⟩
theorem witness_step_redo : ∃ (g : EngSt) (w : Kept), g.redo = [w] := by
  exact ⟨{ redo := [{ w0 := 0#96, w1 := 0#96, w2 := 0#96, sec := 1#16, widx := 0 }] }, _, rfl⟩
theorem witness_step_hart :
    let s := turnOf (atHart mode3) (.hart 1)
    (s.hart 1).held = false ∧ (s.boot.running && (1 : Nat) == 0) = false ∧ (s.hart 1).wait = none ∧
      (s.turnTo (.hart 1) []).nextInterrupt 1 = none ∧ (s.turnTo (.hart 1) []).hartFetch 1 = .ok 0#32 := by
  exact ⟨rfl, rfl, rfl, by decide, rfl⟩
theorem witness_clock : State.reset.agenda = [] ∧ State.reset.retiring = none ∧ State.reset.turns = [] ∧ State.reset.inReset = false :=
  ⟨rfl, rfl, rfl, rfl⟩
theorem witness_memory : State.reset.MemOk ∧ (step State.reset matches .next _) := ⟨rfl, rfl⟩

/-! ## Witnesses: scalar instructions -/

theorem witness_scalar : Scalar (atCt coreU) ∧ Scalar (atHart mode3) ∧ Scalar (atHart mode0) :=
  ⟨.inl ⟨0, rfl⟩, .inr ⟨1, rfl⟩, .inr ⟨1, rfl⟩⟩
theorem witness_integer : rvResult (atCt (coreX [5])).rx 0#64 (.r .add 3#5 1#5 1#5) = some (3#5, 10#64) := by decide
theorem witness_jump : jumpOf (atCt (coreX [5])) (.jalr 3#12 1#5 2#5) = some (2#5, 8#64) ∧ (8#64).toNat % 4 = 0 ∧
    jumpOf (atCt (coreX [6])) (.jalr 0#12 1#5 2#5) = some (2#5, 6#64) ∧ (6#64).toNat % 4 ≠ 0 := by decide
theorem witness_branch : Rv.taken .beq ((atCt (coreX [5])).rx 1#5) ((atCt (coreX [5])).rx 0#5) = false := by decide
theorem witness_load : (atCt { coreU with views := [dataView] }).viewHeld 0 0x1000 8 1 = false ∧ (atCt { coreU with views := [dataView] }).viewLoad 0 0x1000 8 = .ok (List.replicate 8 0#8) ∧
    (∃ f, (atCt coreU).viewLoad 0 0x1000 8 = .bad f) := ⟨rfl, rfl, _, rfl⟩
theorem witness_load_hart : (atHart mode3).hartTranslate 1 0x1000 1 = .at_ 0x1000 ∧ State.inPage 0x1000 8 = 8 ∧ State.inPage 0x1FFD 8 = 3 ∧
    ((atHart mode3).hartPlace 0x1000 8).isSome = true ∧ (atHart mode3).poisoned 0x1000 8 = false ∧
    ((atHart mode3).hartPlace 0x70000000008 8).map (·.kind) = some (.regs 8) := by decide
theorem witness_store :
    let s := atCt { coreU with views := [dataView] }
    s.MemOk ∧ s.viewHeld 0 0x1000 1 2 = false ∧ s.translate 0 0x1000 1 2 = .ok [0x1000] ∧ s.pageLocked 0x1000 = false ∧
      s.ownPages (State.draftPages (s.core 0) 0x1000 1) = some s ∧ ∃ f, (atCt coreU).translate 0 0x1000 1 2 = .bad f :=
  ⟨rfl, rfl, rfl, rfl, rfl, _, rfl⟩
theorem witness_store_hart : (atHart mode3).hartTranslate 1 0x1000 2 = .at_ 0x1000 ∧ (atHart mode3).pageLocked 0x1000 = false := by decide
theorem witness_csr_read : csrNew 2#3 0#5 0#64 7#64 = none ∧ csrNew 1#3 1#5 9#64 7#64 = some 9#64 ∧
    ctCsr (atCt coreU) coreU 0x300 = none := by decide
theorem witness_csr_hart : State.hartCsrMay mode3 0x300 = true ∧ State.hartCsrMay mode0 0xC00 = false ∧ 0x300 / 1024 ≠ 3 := by decide
/-- An AMO, LR and SC of four bytes at the address in x1, x2 the source, x3 the destination. -/
def atomicWord (f5 : BitVec 5) (rs2 : BitVec 5) : BitVec 32 := f5 ++ 0#2 ++ rs2 ++ 1#5 ++ 2#3 ++ 3#5 ++ 0x2F#7
def atomicState : State := { atHart { mode3 with x := regs [0x10000000000, 5] } with mem := [(0x10000000000, 0xFE#8), (0x10000000001, 0xFF#8), (0x10000000002, 0xFF#8), (0x10000000003, 0xFF#8)] }
theorem witness_atomic : Rv.opcOf (atomicWord 0#5 2#5) = 0x2F#7 ∧ (Rv.f3Of (atomicWord 0#5 2#5), 4) ∈ [(2#3, 4), (3#3, 8)] ∧
    (atomicState.rx 1#5).toNat % 4 = 0 ∧ (atomicState.hartPlace 0x10000000000 4).map (·.key) = some 0x10000000000 ∧ atomicState.poisoned 0x10000000000 4 = false ∧
    amoVal 0 32 0xFFFFFFFE 5 = some 3 ∧ atomicState.hartTranslate 1 0x10000000000 2 = .at_ 0x10000000000 ∧ atomicState.pageLocked 0x10000000000 = false ∧
    atomicState.reserved 1 0x10000000000 4 = false ∧ { atomicState with resvs := [(1, ⟨0x10000000000, 4, [0xFE#8, 0xFF#8, 0xFF#8, 0xFF#8]⟩)] }.reserved 1 0x10000000000 4 = true := by
  decide +kernel
theorem witness_atomic_mem : atomicState.MemOk := rfl
theorem witness_float : Fl.mode 0 = some .rne ∧ fld (({ mode3 with csr := [(0x300, 0x2000#64)] } : Hart).csrOf 0x300) 13 2 ≠ 0 ∧ fld (mode3.csrOf 0x300) 13 2 = 0 := by decide
theorem witness_levels : (atCt coreU).agent = .seq 0 .ct ∧ ((atCt coreU).core 0).ct.sup = false ∧
    ((atCt { coreU with ct := { sup := true } }).core 0).ct.sup = true := ⟨rfl, rfl, rfl⟩
theorem witness_ct_fault : (atCt coreU).agent = .seq 0 .ct ∧ coreU.ct.sup = false ∧ coreU.ct.fault.v = false ∧
    State.ctFaulted { v := true, code := 9#8 } FCode.illop 0x25 = { v := true, code := 9#8, more := true } := by decide
theorem witness_sret : coreU.anyFault = false ∧ { coreU with fe := { fault := { v := true } } }.anyFault = true := by decide
theorem witness_hart : (mode3.csrOf 0x302).getLsbD 2 = false ∧ ((atHart mode3).hart 1).mode ≠ 0 ∧ ((atHart mode0).hart 1).mode = 0 := by decide
theorem witness_illegal : customOpc (Rv.opcOf 0xFFFFFF8B#32) = true ∧ encode32 (.fork 5#5) = some 0x0002800B#32 ∧
    Rv.opcOf 0x0002800B#32 = 0x0B#7 := by decide

/-! ## Witnesses: forks, guards, fault records -/

theorem witness_fork : coreU.forkOut = false ∧ ((atCt (coreX [4])).rx 1#5).toNat % 8 ≠ 0 ∧
    (atCt { coreU with views := [dataView] }).viewLoad 0 0x1000 8 = .ok (List.replicate 8 0#8) ∧
    (atCt { coreU with views := [dataView] }).viewLoad 0 (0x1000 + 8) 8 = .ok (List.replicate 8 0#8) ∧
    (atCt { coreU with views := [dataView] }).viewLoad 0 (0x1000 + 8 + 8) 8 = .ok (List.replicate 8 0#8) := ⟨rfl, by decide, rfl, rfl, rfl⟩
/-- A core on which a fork is outstanding whose streams have all ended. -/
def forkOver : Core := { coreU with forkOut := true, fe := { ended := true }, ma := { ended := true }, dr := { ended := true } }
theorem witness_rdv : rdvReady forkOver = true ∧ rdvReady { forkOver with fe := { ended := false } } = false ∧ forkOver.flying = false ∧
    { forkOver with loads := [] }.flying = false := by decide
theorem witness_rdv_waits :
    ((atUnit 0 { forkOver with ct := { wait := some ⟨.rdv, 0#5, 0#5, 0#5, 0, none⟩ } }).waiting 0 .rdv).isSome = true ∧
    forkOver.forkOut = true ∧ rdvReady forkOver = true ∧ (atUnit 0 coreU).agent = .unit 0 := by decide
/-- The control sequencer waits at an ABORTE issued in clk 0, of whose engines these have stopped. -/
def aborting (stop : Bool) (loads : List FeLoad) : State :=
  { atUnit 0 { coreU with forkOut := true, loads := loads, ct := { wait := some ⟨.aborte, 0#5, 0#5, 0#5, 0, none⟩ }
                          fe := { stopped := stop }, ma := { stopped := stop }, dr := { stopped := stop } } with pcc := 1 }
def flight1 : FeLoad :=
  { op := 0, f := ⟨0#4, 0#6, 0#5, 0#5, 0#4, false, 0#4, 0#4, 0#15, 0#32⟩, w := 0#96, sec := 1#16, widx := 0, desc := [], idx := [], mask := 0#1024, drop := [] }
theorem witness_aborte :
    (atCt forkOver).quietNow 0 = true ∧ (atCt { forkOver with fe := { inSec := true, hdr := BitVec.ofNat 64 (3 * 2 ^ 50) } }).quietNow 0 = false ∧
    ∀ stop ∈ [true, false], ∀ l ∈ [[], [flight1]],
      ((aborting stop l).waiting 0 .aborte).isSome = true ∧ (∀ w, (aborting stop l).waiting 0 .aborte = some w → w.since < (aborting stop l).pcc) ∧
        (aborting stop l).aborted 0 = stop ∧ ((aborting stop l).core 0).flying = !l.isEmpty := by
  refine ⟨by decide, by decide, ?_⟩
  intro stop hs l hl
  simp only [List.mem_cons, List.not_mem_nil, or_false] at hs hl
  rcases hs with rfl | rfl <;> rcases hl with rfl | rfl <;> exact ⟨rfl, fun _ h => Option.some.inj h ▸ by decide, rfl, rfl⟩
theorem witness_resume : ({ fault := { v := true, late := true, code := 4#8, sec := 1#16 }, inSec := true } : EngSt).fault.v = true := rfl
theorem witness_pleave :
    let s := atCt { coreX [100] with forkOut := true }
    (s.rx 1#5).toNat < 2 ^ 32 ∧ 0 < (s.rx 1#5).toNat ∧ s.therm < 2 ∧ bookGrant [] 1 0 100 = some 16 ∧ bookGrant [] 0 0 100 = none ∧
      2 ^ 32 ≤ ((atCt (coreX [2 ^ 40])).rx 1#5).toNat := by decide


/-! ## System cores: atomic, compressed and floating-point instructions -/

/-- What a hart holds after the instruction `w`: x3, the pc, the flags. -/
def hartAfter (s : State) (w : BitVec 32) : Word × Word × BitVec 8 :=
  match exec (.unassignedCtEncoding w) s with
  | .next t => ((t.hart 1).getX 3#5, (t.hart 1).pc, (t.hart 1).fcsr)
  | _ => (0#64, 0#64, 0#8)

-- The values follow from the RISC-V architecture.
theorem test_amoadd : hartAfter atomicState (atomicWord 0#5 2#5) = (BitVec.ofInt 64 (-2), 4#64, 0#8) := by decide +kernel
theorem test_sc_without_lr : hartAfter atomicState (atomicWord 3#5 2#5) = (1#64, 4#64, 0#8) := by decide +kernel
-- C.LI x3, -1; C.J -2; C.ADDI4SPN of 0 is reserved
theorem test_c_li : hartAfter atomicState 0x51FD#32 = (BitVec.allOnes 64, 2#64, 0#8) := by decide +kernel
theorem test_c_j : hartAfter (atHart { mode3 with pc := 6#64 }) 0xBFFD#32 = (0#64, 4#64, 0#8) := by decide +kernel
-- FCVT.L.D x3, f1, rtz of 2.5: inexact; FEQ.D of two signalling NaNs: invalid
def fpState (a : Word) : State := { atHart { mode3 with csr := [(0x300, 0x2000#64)], f := [0#64, a] } with pcc := 1 }
theorem test_fcvt : hartAfter (fpState 0x4004000000000000#64) (0x61#7 ++ 2#5 ++ 1#5 ++ 1#3 ++ 3#5 ++ 0x53#7) = (2#64, 4#64, 1#8) := by decide +kernel
theorem test_feq_snan : hartAfter (fpState 0x7FF0000000000001#64) (0x51#7 ++ 1#5 ++ 1#5 ++ 2#3 ++ 3#5 ++ 0x53#7) = (0#64, 4#64, 0x10#8) := by decide +kernel

/-! ## A small world of objects -/

/-- Words of memory from an address on, as cells. -/
def cells (a : Nat) (ws : List Nat) : List Host.Cell := putBytes [] a (ws.flatMap (leBytes 8 ·))

/-- The words of a Yard entry, at the entry of local number `n`. -/
def entryWords (n : Nat) (ws : List (Nat × Nat)) : List (Nat × Word) := ws.map fun e => (16 * n + e.1, BitVec.ofNat 64 e.2)

/-- Word 0 of an entry of a byte object of rank 1, and of a flag. -/
def w0Obj : Nat := 2 ^ 53 + 2 ^ 46
def w0Flag : Nat := 6 * 2 ^ 56 + 2 ^ 53 + 2 ^ 47 + 2 ^ 46

/-- An unsharded byte object of `n` bytes, of one published version, whose rights every task holds; its root block stands at 0x100000. -/
def byteObj (n : Nat) : List (Nat × Nat) := [(0, w0Obj), (1, n), (4, 1), (5, 7 * 2 ^ 61), (7, 1), (8, 0x100000), (14, 0xF8000000)]

/-- A Bench object on die 0. -/
def benchObj : List (Nat × Nat) := [(0, w0Obj), (1, 64), (5, 7 * 2 ^ 61 + 2 ^ 32), (7, 4), (8, 0), (14, 0xF8000000)]

def flagObj : List (Nat × Nat) := [(0, w0Flag), (1, 1), (5, 7 * 2 ^ 61), (14, 0xF8000000)]

/-- The tables of version 1 of `byteObj`: root, directory, leaf; its page stands at 0x130000. -/
def tables : List Host.Cell :=
  cells 0x100000 [1, 0x110000] ++ cells 0x110000 [0x120000] ++ cells 0x120000 [0x130001]

/-- Handles, with every right attenuated to none: of the byte object, the record pool, the flag, the Bench object. -/
def hObj : Nat := 0x1F00
def hFlag : Nat := 0x3F00
def hBench : Nat := 0x4F00

/-- Core 0 is `k`, its control sequencer executes, and the objects 1 to 4 stand in the Yard; 2 holds ten continuation records. -/
def world (k : Core) : State :=
  { atCt k with
    yard := entryWords 1 (byteObj 64) ++ entryWords 2 (byteObj 800) ++ entryWords 3 flagObj ++ entryWords 4 benchObj
    regs := [(0x10, 8#64), (0x20, 0x2F00#64)]
    mem := tables
    codes := [{ id := 1, base := 0, pa := 0, isize := 0, kind := 2, live := 0, frame := 0, entries := [0], nfe := 0, nma := 0, ndr := 0 }] }

/-- The same at unit 0. -/
def worldAt (k : Core) : State := { world k with agent := .unit 0 }

/-- The task of record 1 runs. -/
def running (k : Core) : State := { world k with crs := [(8, 0x60#64), (14, 0xF0000000#64)] }

/-- A view over local memory that begins with a record image of code object 1. -/
def imageIn (k : Core) : State :=
  { running { k with views := [dataView] } with mem := cells 0x1000 [2 ^ 32 + 2 * 2 ^ 14] ++ tables }

theorem world_mem : (world coreU).MemOk ∧ (imageIn coreU).MemOk := ⟨rfl, rfl⟩

/-! ## Witnesses: tasks and teams -/

theorem witness_tspawn : CtUser (imageIn (coreX [0x1000])) 0 ∧ ((imageIn (coreX [0x1000])).rx 1#5).toNat % 64 = 0 ∧
    ∃ bs, (imageIn (coreX [0x1000])).viewLoad 0 ((imageIn (coreX [0x1000])).rx 1#5).toNat 64 = .ok bs ∧
      (imageIn (coreX [0x1000])).spawnFails (words64 8 bs) 0 0 0 0 false = none ∧ (imageIn (coreX [0x1000])).askCrid = some 2 :=
  ⟨⟨rfl, rfl⟩, by decide, _, rfl, rfl, rfl⟩
theorem witness_tspawn_fails : CtUser (running { coreX [0x1000, 128] with views := [dataView] }) 0 ∧
    ((running (coreX [0x1000, 128])).rx 2#5).toNat = 128 ∧ ((running (coreX [8])).rx 1#5).toNat % 64 ≠ 0 ∧
    (∃ bs, (running { coreX [0x1000] with views := [dataView] }).viewLoad 0 0x1000 64 = .ok bs ∧
      (running { coreX [0x1000] with views := [dataView] }).spawnFails (words64 8 bs) 0 0 0 0 false = some 5) ∧
    ∃ f, (running (coreX [0x1000])).viewLoad 0 0x1000 64 = .bad f :=
  ⟨⟨rfl, rfl⟩, by decide, by decide, ⟨_, rfl, rfl⟩, _, rfl⟩
theorem witness_tcont :
    let s := imageIn (coreX [0x1000])
    (s.core 0).cont = 0 ∧ (∃ bs, s.viewLoad 0 0x1000 64 = .ok bs ∧ s.imageOk (words64 8 bs) = true) ∧ s.freeCrid = some 2 ∧
      ((world { coreU with cont := 2 }).core 0).cont ≠ 0 ∧
      ∃ bs, (running { coreX [0x1000] with views := [dataView] }).viewLoad 0 0x1000 64 = .ok bs ∧
        (running { coreX [0x1000] with views := [dataView] }).imageOk (words64 8 bs) = false :=
  ⟨rfl, ⟨_, rfl, rfl⟩, rfl, by decide, _, rfl, rfl⟩
theorem witness_trigger : (running coreU).fromLaunch 1 = false ∧
    { world coreU with crs := [(8, 0x60#64)] }.fromLaunch 1 = true ∧ { world coreU with crs := [(8, 0x60#64)] }.crTrg 1 = false ∧
    { world coreU with crs := [(8, 0x70#64)] }.crTrg 1 = true := by decide
theorem witness_texit : exitReady (running coreU) 0 = true ∧ exitReady (running { forkOver with fe := { ended := false } }) 0 = false ∧
    let w : Core := { coreU with ct := { wait := some ⟨.texit, 0#5, 0#5, 0#5, 0, none⟩ } }
    ((worldAt w).waiting 0 .texit).isSome = true ∧ w.failed = none ∧ exitReady (worldAt w) 0 = true ∧
      (({ w with failed := some (1, 0) } : Core).failed.isSome = true ∧ { w with failed := some (1, 0) }.flying = false ∧
        ∀ x, { worldAt w with pcc := 1 }.waiting 0 .texit = some x → x.since < 1) :=
  ⟨by decide, by decide, by decide, rfl, by decide, rfl, by decide, fun _ h => Option.some.inj h ▸ by decide⟩
theorem witness_tyield : ((running coreU).core 0).crid ≠ 0 ∧ ((running coreU).core 0).crid ∈ (running coreU).gangOf ((running coreU).core 0).crid ∧
    ((running coreU).core 0).phase = .running ∧ ((running coreU).core 0).failed = none := by decide
theorem witness_tinfo : ((running (coreX [7])).rx 1#5).toNat = 7 ∧ 7 < ((running (coreX [8])).rx 1#5).toNat := by decide

/-- Task 1 is in team 1 of two members, of which the other is task 2. -/
def teamed (k : Core) (size : Nat) (arrived : Bool) : State :=
  { running k with teams := [(1, { id := 1, size := size, joined := 2, members := [⟨1, 0, false, false, false⟩, ⟨2, 1, arrived, false, false⟩] })] }
/-- Task 1 is in no team; team 1 has one member, task 2. -/
def joinable (k : Core) (size : Nat) : State :=
  { running k with teams := [(1, { id := 1, size := size, joined := 1, members := [⟨2, 0, false, false, false⟩] })] }

theorem witness_tjoin :
    (teamed (coreX [0, 256]) 2 false).teamOf 1 ≠ 0 ∧ (running (coreX [0, 256])).teamOf 1 = 0 ∧ (running coreU).team 9 = none ∧
    ((joinable coreU 2).team 1).isSome = true ∧ 1 / 4096 = (0 : Nat) / 256 ∧ 4097 / 4096 ≠ (0 : Nat) / 256 ∧
    (running coreU).freeTeam (0 / 256) = some 1 ∧
    (∃ m, (joinable coreU 2).team 1 = some m ∧ (joinable coreU 2).teamOf 1 = 0 ∧ ¬ m.size ≤ m.members.length + (m.conts.filter fun x => !m.members.any fun y => y.rank = x.2).length) ∧
    (∃ m, (joinable coreU 1).team 1 = some m ∧ (joinable coreU 1).teamOf 1 = 0 ∧ m.size ≤ m.members.length + (m.conts.filter fun x => !m.members.any fun y => y.rank = x.2).length) :=
  ⟨by decide, by decide, by decide, by decide, by decide, by decide, by decide +kernel, ⟨_, rfl, by decide, by decide⟩, _, rfl, by decide, by decide⟩
theorem witness_tleave : (running coreU).team ((running coreU).teamOf 1) = none ∧
    ∃ m, (teamed coreU 2 false).team ((teamed coreU 2 false).teamOf 1) = some m ∧ m.id = (teamed coreU 2 false).teamOf 1 ∧ 1 < m.size ∧ m.conts = [] :=
  ⟨rfl, _, rfl, by decide, by decide, rfl⟩
theorem witness_tbar : ∀ arrived, (teamed coreU 2 arrived).teamOf 1 ≠ 0 ∧ ∃ m, (teamed coreU 2 arrived).team ((teamed coreU 2 arrived).teamOf 1) = some m ∧
    m.id = (teamed coreU 2 arrived).teamOf 1 ∧ (∃ x ∈ m.members, x.crid = 1 ∧ x.left = false) ∧
    (((m.members.map fun x => if x.crid = 1 then { x with arrived := true } else x).filter (·.arrived)).length = m.size ↔ arrived = true) := by
  intro a
  cases a <;> exact ⟨by decide, _, rfl, by decide, ⟨_, .head _, rfl, rfl⟩, by decide⟩
theorem witness_tbar_done : ∀ arrived ∈ [true, false],
    let s : State := { worldAt { coreU with ct := { wait := some ⟨.tbar, 0#5, 0#5, 3#5, 0, none⟩ } } with
      teams := [(1, { id := 1, size := 1, joined := 1, members := [⟨1, 0, arrived, false, false⟩] })] }
    (s.waiting 0 .tbar).isSome = true ∧ ∃ m, s.team (s.teamOf (s.core 0).crid) = some m ∧ m.id = s.teamOf (s.core 0).crid ∧
      (((m.members.filter (·.arrived)).length = m.size ∧ 0 < m.size) ↔ arrived = true) := by
  intro a h
  simp only [List.mem_cons, List.not_mem_nil, or_false] at h
  rcases h with rfl | rfl <;> exact ⟨by decide, _, rfl, by decide, by decide⟩

/-! ## Witnesses: objects, views, flags -/

/-- The object's operands: x1 a handle, x2 the number given. -/
def objX (h n : Nat) : Core := coreX [h, n]
/-- A core that waits at an instruction of the kind given, with xs1 = x1, xs2 = x2 and xd = x3. -/
def waitsAt (k : Core) (kind : WaitKind) : Core := { k with ct := { k.ct with wait := some ⟨kind, 1#5, 2#5, 3#5, 0, none⟩ } }
/-- An entry's fields added to the world's. -/
def withYard (s : State) (l : List (Nat × Nat)) : State := { s with yard := l.foldl (fun t e => Tbl.put t e.1 (BitVec.ofNat 64 e.2)) s.yard }

theorem witness_object_checks :
    objectUse (world (objX hObj 2)) (.oclaim 2#5 1#5 3#5) = none ∧
    (objectUse (world (objX hObj 1)) (.oclaim 2#5 1#5 3#5)).isSome = true ∧
    { world (objX hObj 1) with ylocks := [(1, 1)] }.entryLocked (BitVec.ofNat 64 hObj) = true ∧
    (world (objX hObj 1)).entryLocked (BitVec.ofNat 64 hObj) = false := by decide
theorem witness_object_faults : (∃ f, (world coreU).lookup ((world coreU).principal 0) 0x6F00#64 = .bad f) ∧
    ∃ l f, (world coreU).lookup ((world coreU).principal 0) 0x1000#64 = .ok l ∧
      (world coreU).checkRights ((world coreU).principal 0) 0x1000#64 l Right.read false = some f := ⟨⟨_, rfl⟩, _, _, rfl, rfl⟩
/-- A published byte object at package 5, to which no live route leads; the cluster's handle cache holds its entry. -/
def hPeer : Nat := 5 * 2 ^ 41 + hObj
def peerWorld (k : Core) : State :=
  { world k with
    domain := [0, 5], peerRegs := [(2 ^ 21 * 5 + 0x10, 8#64)], hcache := [(128 * (5 * 2 ^ 29 + 1), tab 16 fun w => (world coreU).yw 1 w)] }
theorem witness_object_unreached :
    let s := peerWorld (objX hPeer 1)
    objectUse s (.opub 1#5 3#5) = some (BitVec.ofNat 64 hPeer, Right.publish, false, true) ∧ objectAtHome s (.opub 1#5 3#5) = true ∧
      (s.entryLocked (BitVec.ofNat 64 hPeer) && (true || !s.cached (s.principal 0) (BitVec.ofNat 64 hPeer))) = false ∧
      hit (fun _ => true) (s.lookup (s.principal 0) (BitVec.ofNat 64 hPeer)) = true ∧ s.liveRoute (Handle.home (BitVec.ofNat 64 hPeer)) = false ∧
      objectAtHome (peerWorld (objX hPeer 1)) (.oinfo 2#5 1#5 3#5) = false ∧
      ({ s with ylocks := [(5 * 2 ^ 29 + 1, 1)] }.entryLocked (BitVec.ofNat 64 hPeer) && (false || !s.cached (s.principal 0) (BitVec.ofNat 64 hPeer))) = false := by
  decide +kernel
theorem witness_granted : ∃ l, Granted (world (objX hObj 1)) 0 (BitVec.ofNat 64 hObj) Right.write false true l ∧ l.bench = false :=
  ⟨_, ⟨rfl, rfl, fun _ => rfl, rfl⟩, rfl⟩
theorem witness_granted_bench : ∃ l, Granted (world (objX hBench 0)) 0 (BitVec.ofNat 64 hBench) Right.write false true l ∧ l.bench = true :=
  ⟨_, ⟨rfl, rfl, fun _ => rfl, rfl⟩, rfl⟩
theorem witness_oclaim_tries :
    Tries (world (objX hObj 1)) 0 .oclaim 1#5 2#5 3#5 (.oclaim 2#5 1#5 3#5) .oclaimDecide (.oclaim 2#5 1#5 3#5) ∧
    Tries (worldAt (waitsAt (objX hObj 1) .oclaim)) 0 .oclaim 1#5 2#5 3#5 (.oclaim 2#5 1#5 3#5) .oclaimDecide .oclaimDecide :=
  ⟨.inl ⟨rfl, rfl⟩, .inr ⟨rfl, rfl, _, rfl, rfl, rfl, rfl⟩⟩
theorem witness_oclaim : ∃ l, (world (objX hObj 0)).lookup ((world (objX hObj 0)).principal 0) (BitVec.ofNat 64 hObj) = .ok l ∧
    (world coreU).hkind 1 = 0 ∧ (world coreU).liven 1 ≠ 4 ∧ (world coreU).curv 1 ≠ 2 ^ 32 - 1 ∧
    (world coreU).openDraft 1 l = none ∧ (∃ s, { world coreU with mem := [] }.openDraft 1 l = some s) ∧
    (withYard (world coreU) [(25, 2 ^ 30 + 2 ^ 32)]).hkind 1 ≠ 0 ∧
    (withYard (world coreU) [(20, 4), (26, 3 + 2 * 2 ^ 32), (27, 1)]).liven 1 = 4 ∧ (withYard (world coreU) [(20, 2 ^ 32 - 1)]).curv 1 = 2 ^ 32 - 1 ∧
    (teamed coreU 2 false).teamOf 1 ≠ 0 ∧ (running coreU).teamOf 1 = 0 :=
  ⟨_, rfl, rfl, by decide, by decide, rfl, ⟨_, rfl⟩, by decide, by decide, by decide, by decide, rfl⟩
/-- The byte object is claimed by task 1. -/
def claimed (k : Core) : State := withYard (world k) [(25, 2 ^ 30 + 2 ^ 32)]
theorem witness_opub :
    (claimed coreU).holds ((claimed coreU).principal 0) 1 = true ∧ (world coreU).holds ((world coreU).principal 0) 1 = false ∧
    (∃ l, (claimed (objX hObj 0)).lookup ((claimed (objX hObj 0)).principal 0) (BitVec.ofNat 64 hObj) = .ok l ∧ (claimed coreU).draftFails 1 l = 0) ∧
    (withYard (claimed coreU) [(16, w0Obj + 2 ^ 49)]).yw 1 0 &&& 0x2000000000000#64 ≠ 0#64 ∧ ((claimed coreU).yw 1 0).getLsbD 49 = false ∧
    Tries (worldAt (waitsAt (objX hObj 0) .opub)) 0 .opub 1#5 2#5 3#5 (.opub 1#5 3#5) .opubPublishPoint .opubPublishPoint :=
  ⟨rfl, rfl, ⟨_, rfl, rfl⟩, by decide, by decide, .inr ⟨rfl, rfl, _, rfl, rfl, rfl, rfl⟩⟩
/-- The draft, version 2, has its page at 0x140000, and a store to it has been lost. -/
def lossy (k : Core) : State :=
  { claimed k with
    mem := cells 0x100000 [1, 0x110000, 2, 0x150000] ++ cells 0x110000 [0x120000] ++ cells 0x120000 [0x130001] ++ cells 0x150000 [0x160000] ++
      cells 0x160000 [0x140001]
    linkFail := [(0x140000, 1)], poison := [0x140000] }
theorem witness_opub_lost : ∃ l, (lossy (objX hObj 0)).lookup ((lossy (objX hObj 0)).principal 0) (BitVec.ofNat 64 hObj) = .ok l ∧
    0 < (lossy (objX hObj 0)).draftFails 1 l ∧ (lossy coreU).MemOk := ⟨_, rfl, by decide, rfl⟩
theorem witness_osub : (∃ l, Granted (world (objX hObj 1)) 0 (BitVec.ofNat 64 hObj) Right.read false false l) ∧
    ((world (objX hObj 1)).rx 2#5).toNat ≤ (world (objX hObj 1)).curv 1 ∧ (world (objX hObj 2)).curv 1 < ((world (objX hObj 2)).rx 2#5).toNat ∧
    Tries (worldAt (waitsAt (objX hObj 2) .osub)) 0 .osub 1#5 2#5 3#5 (.osub 2#5 1#5 3#5) .osubComplete .osubComplete :=
  ⟨⟨_, rfl, rfl, fun _ => rfl, rfl⟩, by decide, by decide, .inr ⟨rfl, rfl, _, rfl, rfl, rfl, rfl⟩⟩
theorem witness_flags : (∃ l, Granted (world (objX hFlag 1)) 0 (BitVec.ofNat 64 hFlag) Right.read true false l) ∧
    (∃ l, Granted (world (objX hFlag 1)) 0 (BitVec.ofNat 64 hFlag) Right.publish true true l) ∧
    ((world coreU).rx 2#5).ule ((world coreU).flag 3) = true ∧ ((world (objX hFlag 1)).rx 2#5).ule ((world (objX hFlag 1)).flag 3) = false ∧
    Tries (worldAt (waitsAt (objX hFlag 1) .flacq)) 0 .flacq 1#5 2#5 3#5 (.flacq 2#5 1#5 3#5) .flacqComplete .flacqComplete :=
  ⟨⟨_, rfl, rfl, fun _ => rfl, rfl⟩, ⟨_, rfl, rfl, fun _ => rfl, rfl⟩, by decide, by decide, .inr ⟨rfl, rfl, _, rfl, rfl, rfl, rfl⟩⟩
theorem witness_pins : (∃ l, Granted (world (objX hObj 1)) 0 (BitVec.ofNat 64 hObj) Right.read false true l ∧ l.bench = false) ∧
    (world coreU).verSlot 1 1 = some 3 ∧ (world coreU).pinOf 1 3 ≠ 2 ^ 32 - 1 ∧ (world coreU).verSlot 1 7 = none ∧
    (withYard (world coreU) [(28, 2 ^ 32 - 1)]).pinOf 1 3 = 2 ^ 32 - 1 ∧ (1, 1, 1) ∈ ({ coreU with opins := [(1, 1, 1)] } : Core).opins ∧
    ∃ l, Granted (world (objX hBench 1)) 0 (BitVec.ofNat 64 hBench) Right.read false true l ∧ l.bench = true :=
  ⟨⟨_, ⟨rfl, rfl, fun _ => rfl, rfl⟩, rfl⟩, rfl, by decide, rfl, by decide, by decide, _, ⟨rfl, rfl, fun _ => rfl, rfl⟩, rfl⟩
theorem witness_oview_draft :
    let s := claimed (coreX [hObj, 2 ^ 64 - 1])
    s.rx 2#5 = BitVec.allOnes 64 ∧ ∃ l, Granted s 0 (s.rx 1#5) Right.write false false l ∧ l.bench = false ∧
      s.checkVer (s.principal 0) (Handle.key (s.rx 1#5)) l .draft = none := ⟨by decide, _, ⟨rfl, rfl, fun _ => rfl, rfl⟩, rfl, rfl⟩
theorem witness_oview_version :
    let s := world (objX hObj 0)
    (s.rx 2#5).toNat < 2 ^ 32 ∧ ∃ l, Granted s 0 (s.rx 1#5) Right.read false false l ∧ l.bench = false ∧
      s.checkVer (s.principal 0) (Handle.key (s.rx 1#5)) l (.ver (s.curv 1)) = none := ⟨by decide, _, ⟨rfl, rfl, fun _ => rfl, rfl⟩, rfl, rfl⟩
theorem witness_oview_live :
    let s := world (objX hBench 0)
    s.rx 2#5 = 0#64 ∧ ∃ l, Granted s 0 (s.rx 1#5) Right.read false false l ∧ l.bench = true := ⟨by decide, _, ⟨rfl, rfl, fun _ => rfl, rfl⟩, rfl⟩
/-- A view that leaves no room above it. -/
def wide : View := { dataView with base := 0x400000000000, size := 2 ^ 48 - 0x400000000000 }
theorem witness_view_base : State.viewBase coreU 0x10000 = some 0x400000000000 ∧ State.viewBase { coreU with views := [wide] } 0x10000 = none ∧
    { coreU with views := [wide] }.views.length < 256 := by decide
theorem witness_ounview : let s := world { coreX [0x1000] with views := [dataView] }
    let t := world { coreX [0x1000] with views := [{ dataView with kind := .made }] }
    (∀ y ∈ ((world coreU).core 0).views, y.base ≠ ((world coreU).rx 1#5).toNat) ∧
      (∃ y, (s.core 0).views.find? (fun v => v.base = (s.rx 1#5).toNat) = some y ∧ y.kind ≠ .made) ∧
      ∃ y, (t.core 0).views.find? (fun v => v.base = (t.rx 1#5).toNat) = some y ∧ y.kind = .made :=
  ⟨by decide, ⟨_, rfl, by decide⟩, _, rfl, rfl⟩
theorem witness_items : (∃ l, Granted (world (objX hObj 9)) 0 (BitVec.ofNat 64 hObj) 0 false false l) ∧ ((world (objX hObj 9)).rx 2#5).toNat = 9 ∧
    ((world (objX hObj 11)).rx 2#5).toNat = 11 ∧ ((world (objX hObj 0)).rx 2#5).toNat = 0 := ⟨⟨_, rfl, rfl, fun _ => rfl, rfl⟩, by decide, by decide, by decide⟩
theorem witness_pairs : let s := world { coreX [0x1000] with views := [dataView] }
    (∃ bs, s.viewLoad 0 0x1000 16 = .ok bs) ∧ (∃ f, (world coreU).viewLoad 0 0x1000 16 = .bad f) ∧
      (∀ n ∈ [1, 2], s.viewHeld 0 0x1000 16 n = false) ∧ ∃ ks s1 keys, s.translate 0 0x1000 16 2 = .ok ks ∧ (∀ k ∈ ks, s.pageLocked k = false) ∧
        s.ownPages (State.draftPages (s.core 0) 0x1000 16) = some s1 ∧ s1.translate 0 0x1000 16 2 = .ok keys :=
  ⟨⟨_, rfl⟩, ⟨_, rfl⟩, by decide, _, _, _, rfl, by decide, rfl, rfl⟩
/-- A view of the draft of object 1, whose entry is locked and in no handle cache; task 1 had to wait in the clk before. -/
theorem witness_view_held :
    let v : View := { dataView with back := .draft 1 (BitVec.ofNat 64 hObj), kind := .made }
    let s : State := { claimed { coreX [0x1000] with views := [v] } with ylocks := [(1, 1)] }
    (∀ n ∈ [1, 2], s.viewHeld 0 0x1000 16 n = true) ∧
      (∃ w, ({ coreU with storeHeld := some 4 } : Core).storeHeld = some w ∧ w + 1 = 5) ∧
      hit (fun _ => true) ((world { coreX [0x1000] with views := [{ v with back := .version 1 (BitVec.ofNat 64 hObj) 1, w := false }] }).translate 0 0x1000 16 2) = false :=
  ⟨by decide +kernel, ⟨4, rfl, rfl⟩, by decide +kernel⟩

/-! ## Witnesses: the system cores -/

/-- Hart 1 in M executes with the x registers listed, in the world of objects. -/
def foreman (l : List Nat) : State := { world {} with harts := [(1, { mode3 with x := regs l })], agent := .hart 1 }

theorem witness_yard_user : (atHart mode0).agent = .hart 1 ∧ ((atHart mode0).hart 1).mode = 0 ∧ (encode32 (.yrd 1#5 3#5)).isSome = true ∧
    (encode32 (.ywr 2#5 1#5)).isSome = true ∧ (encode32 (.ylock 1#5 3#5)).isSome = true ∧ (encode32 (.yswitch 2#5 1#5 3#5)).isSome = true ∧
    (encode32 (.hhinv 1#5)).isSome = true ∧ (encode32 (.pghash 2#5 1#5)).isSome = true := by decide
theorem witness_yard : HartPriv (foreman [0x1004]) 1 ∧ (foreman [0x1004]).selectorBad 0x1004#64 = false ∧ (foreman []).selectorBad 0x8000#64 = true ∧
    (foreman []).holdsLock 1 1 = false ∧ { foreman [] with ylocks := [(1, 1)] }.holdsLock 1 1 = true ∧ ((foreman []).yw 1 0).getLsbD 46 = true ∧
    subf 0x1004#64 = 4 ∧ subf 0x1000#64 = 0 ∧ subf 0x1001#64 = 1 ∧ subf 0x1002#64 = 2 ∧ (foreman []).acked 1 1 = true ∧
    { foreman [] with invs := [(1, 1, [0])] }.acked 1 1 = false ∧ (∃ e ∈ { foreman [] with hcache := [(128, [])] }.hcache, e.1 / 128 = 1 ∧ e.1 % 128 = 0) :=
  ⟨⟨rfl, by decide⟩, by decide, by decide, by decide, by decide, by decide, by decide, by decide, by decide, by decide, by decide, by decide, _, .head _,
    by decide, by decide⟩
theorem witness_ylock_release :
    let k : Hart := { mode3 with x := regs [0x1000], wait := some (true, 0#5, 1#5, 3#5) }
    ({ atHart k with agent := .unit 1 }.hart 1).wait = some (true, 0#5, 1#5, 3#5) ∧ { atHart k with agent := .unit 1 }.acked 1 1 = true := by decide
theorem witness_pages : (foreman []).localPlace 0x120000 8 = some 0x120000 ∧ (foreman []).localPlace 0x120004 8 = none ∧
    (foreman []).touchesYard 0x120000 8 = false ∧ { foreman [] with regs := [(0x8, 0#64), (0x10, 8#64)] }.touchesYard 0 8 = true ∧
    (foreman []).pageLimit 1 0x130000 = false ∧
    { foreman [] with plocks := [(0, 1, 0), (8, 1, 0), (16, 1, 0), (24, 1, 0)] }.pageLimit 1 0x130000 = true ∧
    { foreman [] with plocks := [(0x120000, 1, 0x130000)] }.holdsPage 1 0x120000 = true ∧ (foreman []).holdsPage 1 0x120000 = false ∧
    State.pteOk 0x130001 = true ∧ State.pteOk 0x130004 = false := by decide
theorem witness_commit :
    let k : Hart := { mode3 with x := regs [0x120000], wait := some (false, 2#5, 1#5, 3#5) }
    { atHart k with agent := .unit 1 }.localPlace (({ atHart k with agent := .unit 1 }.hart 1).getX 1#5).toNat 8 = some 0x120000 := by decide
theorem witness_pghash : (foreman []).localPlace 0x130000 65536 = some 0x130000 ∧ (foreman []).localPlace 0x120020 32 = some 0x120020 ∧
    (foreman []).localPlace 0x130010 65536 = none ∧ (foreman []).touchesYard 0x130000 65536 = false ∧ (foreman []).poisoned 0x130000 65536 = false ∧
    (foreman []).pageLocked 0x120020 = false ∧ { foreman [] with plocks := [(0, 1, 0x120000)] }.pageLocked 0x120020 = true :=
  ⟨by decide, by decide, by decide, by decide, by decide +kernel, by decide, by decide⟩

/-! ## Witnesses: hand-over -/

/-- Task 1 is in team 1, a list of one page with the flag stands at 0x1000, and the page (of a token tile order) is claimed by the team. -/
def handing (page : List (Nat × Nat)) (team : Nat) (k : Core) : State :=
  { world { k with views := [dataView] } with
    yard := entryWords 1 page ++ entryWords 3 flagObj
    crs := [(8, 0x60#64)]
    teams := [(1, { id := 1, size := 1, joined := 1, members := [⟨1, 0, false, false, false⟩] })]
    mem := cells 0x1000 [hFlag, 2 ^ 32 + team, hObj] ++ tables }
/-- A page of keys and values, claimed by team 1, whose rights it holds. -/
def kvPage : List (Nat × Nat) :=
  [(0, 0x11 * 2 ^ 56 + 3 * 2 ^ 53 + 2 ^ 46 + 3 * 2 ^ 32), (1, 2 + 64 * 2 ^ 32), (2, 64), (4, 1), (5, 7 * 2 ^ 61), (7, 1), (8, 0x100000),
   (9, 2 ^ 31 + 2 ^ 32), (14, 0xFB000001)]
/-- The same, whose pins are as many as can be. -/
def kvFull : List (Nat × Nat) := kvPage ++ [(12, 2 ^ 32 - 1)]
/-- The list as it reads. -/
def handed (team : Nat) : HandList := { flag := BitVec.ofNat 64 hFlag, team := team, pages := [BitVec.ofNat 64 hObj] }

theorem witness_hand_list : ∀ team ∈ [1, 2], HandReads (handing kvPage team (coreX [0x1000, 1])) 0 0x1000#64 (handed team) := by
  intro team h
  simp only [List.mem_cons, List.not_mem_nil, or_false] at h
  rcases h with rfl | rfl <;>
    exact ⟨rfl, by decide, by decide, by decide,
      fun i h => match i, h with
        | 0, _ => ⟨_, rfl, rfl⟩
        | 1, _ => ⟨_, rfl, rfl⟩,
      fun i h => match i, h with
        | 0, _ => ⟨_, rfl, rfl⟩⟩
theorem witness_kvhand :
    let s := handing kvPage 1 (coreX [0x1000, 1])
    (s.principal 0).team ≠ 0 ∧ ((world coreU).principal 0).team = 0 ∧ (∃ l, Granted s 0 (handed 1).flag Right.publish true true l) ∧
    s.team 1 ≠ none ∧ s.team 2 = none ∧ s.handFails (s.principal 0) [(0, BitVec.ofNat 64 hObj)] = none ∧
    s.draftFails 1 (layoutOf 0 (s.entry 1)) = 0 ∧ (s.yw 1 0).getLsbD 49 = false ∧
    (withYard s [(16, 2 ^ 49)]).yw 1 0 = 0x2000000000000#64 ∧ ((withYard s [(25, 0)]).handFails (s.principal 0) [(0, BitVec.ofNat 64 hObj)]).isSome = true :=
  ⟨by decide, by decide, ⟨_, rfl, rfl, fun _ => rfl, rfl⟩, by decide, by decide, by decide, rfl, by decide, by decide, by decide⟩
theorem witness_kvhand_checks : HandChecks (handing kvPage 1 (coreX [0x1000, 1])) 0 (handed 1).pages := by
  intro h m
  obtain rfl : h = BitVec.ofNat 64 hObj := List.mem_singleton.mp m
  exact ⟨rfl, _, rfl, rfl, rfl, rfl⟩
theorem witness_kvtake :
    let s := handing kvPage 1 (coreX [0x1000, 1])
    let t := handing kvPage 1 (coreX [0x1000, 0])
    (∃ l, Granted s 0 (handed 1).flag Right.read true false l) ∧ (s.flag 3).ult (s.rx 2#5) = true ∧ (t.flag 3).ult (t.rx 2#5) = false ∧
    t.entryLocked (BitVec.ofNat 64 hObj) = false ∧ t.takeFails (t.principal 0) [(0, BitVec.ofNat 64 hObj)] = none ∧
    (∃ w, (handing kvFull 1 coreU).takeFails (t.principal 0) [(0, BitVec.ofNat 64 hObj)] = some (.inr w)) ∧
    Tries { s with agent := .unit 0, cores := [(0, waitsAt { coreX [0x1000, 1] with views := [dataView] } .kvtake)] } 0 .kvtake 1#5 2#5 3#5
      (.kvtake 2#5 1#5 3#5) .kvtakeComplete .kvtakeComplete :=
  ⟨⟨_, rfl, rfl, fun _ => rfl, rfl⟩, by decide, by decide, rfl, rfl, ⟨_, rfl⟩, .inr ⟨rfl, rfl, _, rfl, rfl, rfl, rfl⟩⟩

/-! ## Witnesses: copy jobs -/

/-- An image of a shape of one element. -/
def shape1 : List Nat := [2 ^ 32 + 1, 2 ^ 32 + 1, 1, 2 ^ 23, 1, 0, 0, 0, 0, 0, 0, 0]
/-- A card that copies one element of the byte object into the Bench object. -/
def card1 : List Nat := [0, 2 ^ 48, 0, 0, hObj, 0, 2 ^ 28 + 2 ^ 25, hBench, 0, 2 ^ 28 + 2 ^ 26, 0, 0, 0, 0, 0, 0]
/-- The card stands at 0x1000, its shape belongs to the task, and both objects are of rank 2. -/
def copying (k : Core) : State :=
  withYard { world { k with views := [dataView] } with
      mem := cells 0x1000 card1 ++ tables
      shapes := [(0, { owner := 1, isTeam := false, id := 1, w := shape1.map (BitVec.ofNat 64) })] }
    [(16, 2 * 2 ^ 53 + 2 ^ 46), (17, 4 + 16 * 2 ^ 32), (64, 2 * 2 ^ 53 + 2 ^ 46), (65, 4 + 16 * 2 ^ 32)]
/-- The job that the card makes. -/
def job1 : Job :=
  { jid := 1, ord := 0, crid := 1, team := 0, cls := 0, code := 0, core := 0, die := 0, card := card1.map (BitVec.ofNat 64),
    shapes := [shape1.map (BitVec.ofNat 64), shape1.map (BitVec.ofNat 64), [], []], vers := [1, 0, 0, 0],
    foot := [{ key := 1, ver := 1, w := false, lo := [0, 0, 0, 0, 0], hi := [0, 0, 0, 0, 0] },
      { key := 4, ver := 0, w := true, lo := [0, 0, 0, 0, 0], hi := [0, 0, 0, 0, 0] }],
    tdone := 0, st := 0 }
/-- Its regions: layouts and versions. -/
def regions1 : List (Nat × Layout × Nat) := [(0, layoutOf 0 ((copying coreU).entry 1), 1), (1, layoutOf 0 ((copying coreU).entry 4), 0)]
theorem witness_cjob_passes : JobPasses (copying (coreX [0x1000, 0])) 0 job1 regions1 :=
  ⟨rfl, rfl, ⟨rfl, rfl, rfl, rfl⟩, ⟨rfl, rfl, rfl, rfl, rfl, rfl, rfl⟩, by decide, by decide, by decide, by decide, by decide, rfl, by decide +kernel,
    by decide +kernel, by decide +kernel, by decide +kernel, by decide +kernel, by decide +kernel⟩
theorem witness_cjob_card : ∃ bs, (copying (coreX [0x1000, 0])).viewLoad 0 0x1000 128 = .ok bs ∧ (job1.card == words64 16 bs) = true :=
  found _ _ (by decide +kernel)
theorem witness_cjob : job1.tdone = 0 ∧ 0 < job1.nt ∧ ((copying coreU).jobsOf 1).length < 16 ∧
    16 ≤ ({ copying coreU with jobs := List.replicate 16 job1 }.jobsOf 1).length := ⟨rfl, by decide, by decide, by decide⟩

/-! ## Witnesses: the moves of a copy job, shapes, barriers -/

/-- The job's table entry is `j`, and it is the job of the happening. -/
def jobState (k : Core) (js : List Job) : State := { copying k with jobs := js, agent := .unit 1 }
/-- A job that fills a ring of one slot. -/
def ringJob : Job := { job1 with card := (setAt (setAt card1 1 (2 ^ 48 + 2 ^ 38 + 2 ^ 24)) 9 0).map (BitVec.ofNat 64) }
theorem witness_copy_tile :
    (jobState coreU [job1]).jobs.find? (fun x => State.jobUnit x = (jobState coreU [job1]).unit) = some job1 ∧
    job1.ended = false ∧ { job1 with st := 3 }.ended = true ∧ (jobState coreU [job1]).jobHeld job1 = false ∧
    (jobState coreU [job1, { job1 with jid := 2, ord := 1 }]).jobHeld { job1 with jid := 2, ord := 1 } = true ∧
    ringJob.bmode ≠ 0 ∧ (jobState coreU [ringJob]).passed ringJob = false ∧ (jobState coreU [ringJob]).ringOpen ringJob = true ∧
    (jobState coreU [ringJob]).outranked ringJob = false ∧ (jobState { coreU with cb := List.replicate 16 true } [ringJob]).ringOpen ringJob = false ∧
    (jobState { coreU with cbOwner := [(0, 1)] } [ringJob]).passed ringJob = true ∧ job1.bmode = 0 ∧ job1.st ≠ 2 := by decide
def tileEnd (f : TileEnd → Bool) (s : State) (j : Job) : Bool := f (s.workTile j)
theorem witness_tile_ends :
    let j := { job1 with st := 2 }
    tileEnd (fun e => match e with | .wrote s => decide (s.jobs = [j]) | _ => false) (jobState coreU [j]) j = true ∧
    tileEnd (fun e => match e with | .fault _ => true | _ => false) (jobState coreU [j]) { j with vers := [2, 0, 0, 0] } = true ∧
    tileEnd (fun e => match e with | .wait => true | _ => false) { jobState coreU [j] with ylocks := [(1, 1)] } j = true ∧
    j.tdone + 1 = j.nt ∧ j.orphan = false ∧ { ringJob with card := setAt ringJob.card 1 0x2004001000000#64 }.tdone + 1 ≠
      { ringJob with card := setAt ringJob.card 1 0x2004001000000#64 }.nt := by decide +kernel
/-- The task claims the byte object, whose draft shares the page of version 1; no frame is free. -/
theorem witness_tile_pool :
    let j := { job1 with st := 2, vers := [0, 0, 0, 0]
                         card := [0, 2 ^ 48, 0, 0, hBench, 0, 2 ^ 28 + 2 ^ 25, hObj, 0, 2 ^ 28 + 2 ^ 26 + 2 ^ 24, 0, 0, 0, 0, 0, 0].map (BitVec.ofNat 64) }
    let s := { withYard (jobState coreU [j]) [(25, 2 ^ 30 + 2 ^ 32)] with
      regs := [(0x10, 8#64), (0x18, 0x20000000#64), (0x20, 0x2F00#64)]
      mem := cells 0x100000 [1, 0x110000, 2, 0x150000] ++ cells 0x110000 [0x120000] ++ cells 0x120000 [0x130001] ++ cells 0x150000 [0x160000] ++
        cells 0x160000 [0x130001] ++ cells (0x20000000 + 8 * 0x13) [2] }
    tileEnd (fun e => match e with | .pool => true | _ => false) s j = true := by decide +kernel

/-- The control sequencer waits at a CWAIT for job 1. -/
def cwaiting (js : List Job) : State := { copying (waitsAt (coreX [1]) .cwait) with jobs := js, agent := .unit 0 }
theorem witness_cwait :
    Tries (cwaiting [job1]) 0 .cwait 1#5 2#5 3#5 (.cwait 1#5 3#5) .cwaitComplete .cwaitComplete ∧
    (cwaiting [job1]).findJob 0 1#64 = some job1 ∧ (cwaiting []).findJob 0 1#64 = none ∧
    (cwaiting [{ job1 with st := 3 }]).findJob 0 1#64 = some { job1 with st := 3 } ∧ (cwaiting [job1]).cwaitStuck 0 job1 = false ∧
    (let w := waitsAt (coreX [1]) .cwait
     { cwaiting [ringJob] with cores := [(0, { w with cb := List.replicate 16 true })] }.cwaitStuck 0 ringJob = true) ∧
    2 ^ 33 ≤ (2 ^ 33 : Nat) :=
  ⟨.inr ⟨rfl, rfl, _, rfl, rfl, rfl, rfl⟩, by decide, by decide, by decide, by decide, by decide, by decide⟩

/-- An image of a shape, or one that breaks R336, stands at 0x1000. -/
def shaping (k : Core) (ws : List Nat) : State := { copying k with mem := cells 0x1000 ws ++ tables }
theorem witness_cbinit :
    (copying coreU).findShape 0 1 2 = none ∧ ((copying coreU).findShape 0 1 1).isSome = true ∧
    (∃ bs, (shaping coreU shape1).viewLoad 0 0x1000 96 = .ok bs ∧ (!shapeImageBad (words64 12 bs)) = true) ∧
    (∃ bs, (shaping coreU [0]).viewLoad 0 0x1000 96 = .ok bs ∧ shapeImageBad (words64 12 bs) = true) ∧
    ((copying coreU).shapes.filter fun e => e.1 = 0).length < 256 ∧ (0x1010 : Nat) % 32 ≠ 0 :=
  ⟨by decide, by decide, found _ _ (by decide +kernel), found _ _ (by decide +kernel), by decide, by decide⟩
theorem witness_cbq : bitOf 0x10 4 = true ∧ bitsOf 0x10 8 2 = 0 ∧ bitsOf 0x300 8 2 = 3 ∧ bitsOf 0x20F 8 2 = 2 ∧ bitOf 0x20F 4 = false ∧
    coreU.owned 15 = false ∧ { coreU with cbOwner := [(15, 1)] }.owned 15 = true := by decide

/-! ## Witnesses: collectives -/

/-- The tables of version 1 of `byteObj` and of version 2, whose page stands at 0x140000. -/
def tables2 : List Host.Cell :=
  cells 0x100000 [1, 0x110000, 2, 0x150000] ++ cells 0x110000 [0x120000] ++ cells 0x120000 [0x130001] ++ cells 0x150000 [0x160000] ++
    cells 0x160000 [0x140001]
/-- A published object of 32-bit integers (1), its like as a draft of the task (6), and a group of this package alone (5). -/
def grouped (k : Core) (card : List Nat) : State :=
  { world { k with views := [dataView] } with
    yard := entryWords 1 [(0, 5 * 2 ^ 56 + 2 ^ 53 + 2 ^ 46), (1, 2), (4, 1), (5, 7 * 2 ^ 61), (7, 1), (8, 0x100000), (14, 0xF8000000)] ++
      entryWords 5 [(0, 4 * 2 ^ 56 + 2 ^ 53 + 2 ^ 46), (1, 1), (4, 1), (5, 7 * 2 ^ 61), (7, 1), (8, 0x100000), (14, 0xF8000000)] ++
      entryWords 6 [(0, 5 * 2 ^ 56 + 2 ^ 53 + 2 ^ 46), (1, 2), (4, 1), (5, 7 * 2 ^ 61), (7, 1), (8, 0x100000), (9, 2 ^ 30 + 2 ^ 32), (14, 0xF8000000)]
    mem := cells 0x1000 card ++ tables2 }
/-- A card of CLAR from object 1 into object 6 over group 5. -/
def clarCard : List Nat := [0x1F00, 0x6F00, 0x5F00, 0, 0, 0, 0, 0]
def clarK : ClCard := { instr := 0, tag := 7, src := 0x1F00#64, dst := 0x6F00#64, grp := 0x5F00#64, root := 0, op := 0, svsel := 0 }
theorem witness_collective_card : ∃ bs, (grouped (coreX [0x1000, 7]) clarCard).viewLoad 0 0x1000 64 = .ok bs ∧
    (!clCardBad 0 (words64 8 bs) && words64 8 bs == clarCard.map (BitVec.ofNat 64)) = true := found _ _ (by decide +kernel)
theorem witness_collective_bad : clCardBad 0 [0#64, 0#64, 0#64, 1#64 <<< 40] = true := by decide
/-- The state of the witness, and the layout of its object `n`. -/
def clState : State := grouped (coreX [0x1000, 7]) clarCard
def clLay (n : Nat) : Layout := layoutOf 0 (clState.entry n)
theorem witness_collective_walks : ∀ h, clState.entryLocked h = false := fun _ => rfl
theorem witness_collective : CollPasses clState 0 clarK (clLay 1) (clLay 6) (clLay 5) [0] :=
  ⟨by decide +kernel, fun h _ _ => witness_collective_walks h, foundIs _ _ (by decide +kernel), foundIs _ _ (by decide +kernel),
    foundIs _ _ (by decide +kernel), by decide +kernel, by decide +kernel, by decide⟩
theorem witness_collective_room : (grouped coreU clarCard).pkg ∈ [0] ∧ ((grouped coreU clarCard).collsOf 1).length < 8 := by decide
/-- A collective of the group, alone, that is accepted. -/
def coll1 : Coll :=
  { cid := 1, ord := 0, crid := 1, team := 0, cls := 0, code := 0, die := 0, instr := 0, tag := 7, grp := 0x5F00#64, grpVer := 1, src := 0x1F00#64
    srcVer := 1, dst := 0x6F00#64, root := 0, op := 0, rank := 0, members := [0], start := 0, foot := [] }
theorem witness_collective_refused : (∃ x ∈ [coll1], x.grp.toNat / 2 ^ 12 = clarK.grp.toNat / 2 ^ 12 ∧ x.tag = clarK.tag ∧ x.instr = 0) ∧
    8 ≤ ({ grouped coreU clarCard with colls := List.replicate 8 { coll1 with tag := 8 } }.collsOf 1).length := by decide
/-- What each member sends: two elements, and the pieces that hold it. -/
def contribution (fmt : Nat) : List Byte := contribHead 1 fmt 0 0 [2, 0, 0, 0, 0] 8 ++ leBytes 4 1 ++ leBytes 4 2
def pieces (bs : List Byte) : Tbl (List Byte) := (List.range (piecesOf bs).length).zip (piecesOf bs)
/-- Collective 1 has read its own contribution, and those of the members given have arrived. -/
def collecting (own : Option (List Byte)) (ms : List Nat) (cs : List (Nat × List Byte)) : State :=
  { grouped coreU clarCard with
    agent := .unit 1
    colls := [{ coll1 with own := own, members := ms }]
    contribs := cs.map fun e => { grp := 0x5F00 / 2 ^ 12, tag := 7, instr := 0, src := e.1, pcs := pieces e.2 } }
theorem witness_collective_complete :
    let b := contribution 5
    let s := collecting (some b) [0] [(0, b)]
    let k := { coll1 with own := some b }
    s.colls.find? (fun c => c.cid = s.unit) = some k ∧ k.status = none ∧ s.claimHeld k.claim = false ∧ coll1.own = none ∧
      s.contribOf k 0 = some b ∧ s.allArrived k = true ∧ s.walkReady k.principal k.dst = true ∧
      (∃ bs, (collecting (some b) [0, 1] [(0, b), (1, contribution 4)]).contribOf { k with members := [0, 1] } 1 = some bs ∧ bs.take 56 ≠ b.take 56) ∧
      (collecting (some b) [0, 1] [(0, b)]).contribOf { k with members := [0, 1] } 1 = none ∧ s.liveRoute 1 = false ∧
      { s with domain := [0, 1], ports := [(16, { st := 2 })], regs := [(0x10, 8#64), (0x7200 + 8, 16#64)] }.pkg = 0 ∧
      (∃ w, { k with status := some w }.status.isSome = true) ∧ s.allArrived { k with members := [0, 1] } = false :=
  ⟨by decide +kernel, rfl, by decide, rfl, by decide +kernel, by decide +kernel, by decide, ⟨_, rfl, by decide +kernel⟩, by decide, by decide, by decide,
    ⟨0#64, rfl⟩, by decide⟩
/-- Where the destination's elements stand. -/
def clPlace (t : List Nat) : State.Place := { key := 0x140000 + 4 * nth 0 t 0, bit := 0, bits := 32, page := 0 }
/-- Every element of the destination resolves, its page is locked by no one, and the draft has its page. -/
theorem witness_collective_writes :
    let s := collecting (some (contribution 5)) [0] [(0, contribution 5)]
    let l := layoutOf 0 (s.entry 6)
    (recHeads l.fmt (elemCount l)).map (unlinear l.rank l.ext) = [[0, 0, 0, 0, 0], [1, 0, 0, 0, 0]] ∧
    (hit (fun p => decide (p = clPlace [0])) (s.resolve coll1.principal coll1.dst l [0, 0, 0, 0, 0] Right.write .draft) &&
      hit (fun p => decide (p = clPlace [1])) (s.resolve coll1.principal coll1.dst l [1, 0, 0, 0, 0] Right.write .draft)) = true ∧
    s.pageLocked 0x140000 = false ∧
    s.pagesOf coll1.dst l .draft [(({ elem := 0, t := [0, 0, 0, 0, 0], val := some 0 } : StEl), clPlace [0])] [] = [0] ∧
    (s.ownPages [(6, 0)]).map State.mem = some s.mem := by decide +kernel
theorem witness_clwait : Tries { collecting none [0] [] with cores := [(0, waitsAt (coreX [1]) .clwait)], agent := .unit 0 } 0 .clwait 1#5 2#5 3#5
    (.clwait 1#5 3#5) .clwaitComplete .clwaitComplete ∧
    (collecting none [0] []).colls.find? (fun k => k.cid = (1#64).toNat && k.crid == 1 && !k.orphan) = some coll1 ∧
    (collecting none [0] []).colls.find? (fun k => k.cid = (2#64).toNat && k.crid == 1 && !k.orphan) = none :=
  ⟨.inr ⟨rfl, rfl, _, rfl, rfl, rfl, rfl⟩, by decide, by decide⟩

/-! ## Witnesses: engine words -/

/-- Words of the families with every field zero. -/
def lp0 : LpWord := ⟨0#2, 0#14, 0#32, 0#32⟩
def st0 : StWord := ⟨0#4, 0#6, 0#5, 0#5, 0#4, false, 0#4, 0#4, 0#15, 0#32⟩
def vr0 : VrWord := ⟨0#5, 0#5, 0#5, 0#5, 0#4, false, false, 0#4, false, 0#1, 0#32, 0#16⟩

/-- An engine of core 0 stands within a section of nine slots. -/
def atWord (e : Eng) (k : Core) : State :=
  atEng e (k.modEng e fun g => { g with ended := false, inSec := true, hdr := BitVec.ofNat 64 (9 * 2 ^ 50), tracks := [{ num := 1#16 }] })

theorem witness_executes : ∀ e ∈ [Eng.fe, .ma, .dr], Executes (atWord e coreU) 0 e always := by
  intro e h
  simp only [List.mem_cons, List.not_mem_nil, or_false] at h
  rcases h with rfl | rfl | rfl <;> exact ⟨rfl, rfl, fun _ => rfl⟩
theorem witness_loops : (((atWord .ma coreU).core 0).eng .ma).loops.length = 4 ∧
    loopIllop 3 3 true (((atWord .ma coreU).core 0).eng .ma) = false ∧ (nth {} (((atWord .ma coreU).core 0).eng .ma).loops 3).active = false ∧
    (nth {} (setAt (List.replicate 4 ({} : LoopLv)) 3 { active := true }) 3).active = true ∧ 1 + 8 - 1 < 2 ^ 32 := by decide
theorem witness_estop : ((atWord .dr coreU).core 0).win = [] ∧ updatesApplied (atWord .dr coreU) 0 = true ∧ ((atWord .dr coreU).core 0).scFail = false ∧
    ({} : LpUse).breaks { lp0 with imm := 1#32 } = true := by decide
theorem witness_guards : guardBreaks ⟨true, false, 3#4, 0#2⟩ = false ∧ nth 0#2 ((atWord .ma coreU).core 0).gSeen 15 = 0#2 ∧
    nth 0#2 (setAt (List.replicate 16 0#2) 15 2#2) 15 = (if false then 3#2 else 2#2) ∧
    nth 0#2 (setAt (List.replicate 16 0#2) 15 3#2) 15 = (if true then 3#2 else 2#2) := by decide

/-! ## Witnesses: words of FE -/

/-- FE of core 0 stands at a word of a task whose frame, at 0x1000, begins with the words given; the objects of `world` stand in the Yard. -/
def framed (ws : List Nat) (k : Core) : State :=
  let s := atWord .fe { k with views := [{ dataView with kind := .frame }] }
  { world {} with cores := s.cores, agent := s.agent, mem := cells 0x1000 ws ++ tables }
/-- A binding of the object to a descriptor: plane byte tile 2 by 2 along positions 0 and 1. -/
def image1 : List Nat := [hObj, 2 * 2 ^ 13 + 2 * 2 ^ 6 + 2 ^ 21, 0, 0, 0, 0, 0, 0]
def rank2 (s : State) : State := withYard s [(16, 2 * 2 ^ 53 + 2 ^ 46), (17, 4 + 16 * 2 ^ 32)]
theorem witness_unbound : descInUse coreU 0 = false ∧ Tbl.sorted coreU.sd = true ∧ (coreU.desc 0).length = 8 := by decide
theorem witness_sbind_frame : (((rank2 (framed image1 coreU)).core 0).frame = some { dataView with kind := .frame }) ∧
    (0x1000 : Nat) ≤ dataView.size ∧ 0x1000 % 64 = 0 := ⟨rfl, by decide, by decide⟩
theorem witness_sbind :
    let s := rank2 (framed image1 coreU)
    ∃ bs, s.viewLoad 0 0x1000 64 = .ok bs ∧
      (let img := words64 8 bs
       !Desc.imageBad img && s.walkReady (s.principal 0) (Desc.handle img) &&
         hit (fun l => decide (Desc.rax img < l.rank) && decide (Desc.cax img < l.rank) && !l.bench && !Desc.draft img &&
             (s.checkRights (s.principal 0) (Desc.handle img) l Right.read false).isNone &&
             (s.checkVer (s.principal 0) 1 l (.ver (s.curv 1))).isNone && (s.pin 1 (s.curv 1)).isSome)
           (s.lookup (s.principal 0) (Desc.handle img))) = true := found _ _ (by decide +kernel)
theorem witness_sscale :
    let s := framed [hObj, 2 ^ 32 * 5 + 64 * 2 ^ 16, 0, 0] coreU
    ∃ bs, s.viewLoad 0 0x1000 32 = .ok bs ∧
      (let img := words64 4 bs
       fld (nth 0#64 img 1) 0 16 == 0 && fld (nth 0#64 img 1) 16 16 == 64 && nth 0#64 img 2 == 0#64 && nth 0#64 img 3 == 0#64 &&
         s.walkReady (s.principal 0) (nth 0#64 img 0) &&
         hit (fun l => decide (l.fmt = 0) && decide (l.rank = 1) && !l.bench && (s.checkRights (s.principal 0) (nth 0#64 img 0) l Right.read false).isNone &&
             (s.pin 1 (s.curv 1)).isSome) (s.lookup (s.principal 0) (nth 0#64 img 0))) = true := found _ _ (by decide +kernel)
/-- The descriptor is bound to the object as version 1. -/
def boundTo (k : Core) : Core := { k with sd := [(0, [BitVec.ofNat 64 hObj, BitVec.ofNat 64 (2 ^ 32 + nth 0 image1 1), 0#64, 0#64, 0#64, 0#64, 0#64, 0#64])] }
theorem witness_waits : nth false { coreU with cb := List.replicate 16 true }.cb 15 = true ∧ nth false coreU.cb 15 = false ∧ coreU.loads = [] ∧
    coreU.owned 15 = false ∧ { coreU with cbOwner := [(15, 1)] }.owned 15 = true := by decide
theorem witness_load_forms : ({ st0 with sub := 7#4 }).sub.toNat ≤ 7 ∧ badDest st0 = false ∧ ({ st0 with me := true }).me = true ∧
    (coreU.loads.length < 8) ∧ (∀ op < 4, loadHazard coreU op st0 = false ∧ loadCold coreU op st0 = false) ∧ Desc.handle (coreU.desc 0) = 0#64 ∧
    shapeBad 0 ((boundTo coreU).desc 0) = false ∧ Desc.tr ((boundTo coreU).desc 0) ≤ 16 ∧ Desc.handle ((boundTo coreU).desc 0) ≠ 0#64 := by decide
theorem witness_load_object :
    let s := rank2 (framed [] (boundTo coreU))
    let d := (s.core 0).desc 0
    s.walkReady (s.principal 0) (Desc.handle d) = true ∧
      hit (fun l => !shapeBadFor 0 d l && formTakes 0 l.fmt) (s.lookup (s.principal 0) (Desc.handle d)) = true ∧
      hit (fun l => kindTakes 1 l.fmt) (s.lookup (s.principal 0) (Desc.handle d)) = true ∧
      ∀ e ∈ usedIdx { st0 with sub := 5#4 } d ((s.core 0).activeList false 0 false), (s.core 0).poisV 0 e = false := by decide +kernel

/-! ## Witnesses: words of MA -/

theorem witness_vector : VectorReady (atWord .ma coreU) 0 always { d := .v, a := .v, b := .v, bi := true, subUsed := true, subMax := 2 }
    { vr0 with d := 1#5 } 1 4 := ⟨⟨rfl, rfl, fun _ => rfl⟩, by decide, by decide, by decide, by decide⟩
theorem witness_vector_forms :
    ({ d := .w, a := .w, b := .w, bi := true } : VForm).illop { vr0 with d := 30#5, a := 2#5 } = none ∧
    ({ d := .p, a := .p, b := .p, mask := false, zm := false } : VForm).illop { vr0 with d := 15#5 } = none ∧
    ({ d := .v, immBits := 32 } : VForm).illop { vr0 with imm := BitVec.allOnes 32 } = none ∧
    ({ d := .v, a := .v, immBits := 32, immMax := 63, subUsed := true, subMax := 7, zm := false } : VForm).illop { vr0 with imm := 63#32, sub := 7#4 } = none := by
  decide
theorem witness_vector_poison :
    let k : Core := { coreU with vPois := [512] }
    let F : VForm := { d := .v, a := .v }
    k.poisonedAt F { vr0 with a := 1#5 } (k.activeList false 0 true) = some 0 ∧ coreU.poisonedAt F vr0 (coreU.activeList false 0 true) = none := by
  decide +kernel
theorem witness_due : let q : MaPend := { due := 4, dst := [.v 1 (List.replicate 1024 (some 5#32))], sec := 1#16 }
    { coreU with vPend := [q] }.vPend = [q] ∧ q.due ≤ 4 ∧ (List.replicate 1024 (some 5#32)).length = 1024 := ⟨rfl, Nat.le_refl _, List.length_replicate⟩
/-- A nest of one level of two iterations: FP32 addition of v1 and v2 into v0. -/
def nest1 : NestWord :=
  { op := 0x10#8, d := 0#5, a := 1#5, b := 2#5, pm := 0#4, me := false, nl := 1#3, rd := false, e0 := 1#12, e1 := 0#12, e2 := 0#12, e3 := 0#12
    w1 := BitVec.ofNat 96 (0xFE * 2 ^ 88 + 2 ^ 59 + 2 ^ 50 + 2 ^ 41), w2 := BitVec.ofNat 96 (0xFE * 2 ^ 88) }
theorem witness_nest : nestIllop nest1 ((atWord .ma coreU).core 0).ma = none ∧ (nestOp 0x10 false).isSome = true ∧
    (∀ r ∈ [0, 1, 2], coreU.awakeV (coreU.rotV r) = true) ∧ wportHit coreU (0 + 1 + 4) (coreU.outV 0 []) = false := by decide
/-- R47, R53: a zero bit that is set, a level too many, and words 1 and 2 that are none. -/
theorem test_nest_details :
    let en := ((atWord .ma coreU).core 0).ma
    nestIllop { nest1 with w2 := BitVec.ofNat 96 (0xFE * 2 ^ 88 + 1) } en = some 0x11 ∧ nestIllop { nest1 with nl := 6#3 } en = some 0x12 ∧
      nestIllop { nest1 with w1 := 0#96 } en = some 0x13 := by decide
theorem witness_nest_clean : ∀ o, nestOp 0x10 false = some o → (nestRun coreU nest1 o).bad = none := by
  intro o h
  obtain rfl : _ = o := Option.some.inj h
  decide +kernel
theorem witness_banks : bankSt coreU 2 15 = .awake ∧ bankSt { coreU with bankV := [.awake, .awake, .awake, .asleep] } 0 3 = .asleep ∧
    bankSt { coreU with bankM := [.awake, .off] } 1 1 = .off ∧ bankSt { coreU with bankM := [.awake, .waking 160 true] } 1 1 = .waking 160 true ∧
    bankFree coreU 0 0 3 = true ∧ 16 * 2 + 15 = 47 := by decide
theorem witness_vsleep_effect :
    let k : Core := { coreU with
      views := [dataView]
      ma := { hdrPc := 0x1000#64, ended := false, inSec := true, hdr := BitVec.ofNat 64 (3 * 2 ^ 50), tracks := [{ num := 1#16 }], hold := .vsleep (some 0) } }
    let s := { atUnit 0 k with mem := putBytes [] 0x1008 (leBytes 12 (0x59 * 2 ^ 88 + 17 * 2 ^ 16)) }
    headInstr s 0 .ma = some (.vsleep ⟨false, false, 0#4, 0#2⟩ { vr0 with imm := 17#32 }) ∧ (s.core 0).ma.hold = .vsleep (some 0) ∧
      bankFree (s.core 0) 0 1 1 = true := by decide +kernel
theorem witness_vlive : liveMax (atWord .ma coreU) 0 = 16 ∧ ({ vr0 with imm := 16#32 }).imm.toNat ≤ 16 ∧ 16 < ({ vr0 with imm := 17#32 }).imm.toNat := by
  decide

/-! ## Witnesses: moment words -/

theorem witness_moment : ({ d := .m, a := .m, b := .m, subUsed := true } : VForm).illop { vr0 with d := 1#5 } = none ∧ Tbl.get 0 coreU.unitBusy 5 ≤ 0 ∧
    coreU.cold { d := .m, a := .m, b := .m, subUsed := true } { vr0 with d := 1#5 } = false ∧ usesRhov coreU { b := true, rho := true } = false ∧
    wportHit coreU (0 + 12) [MaDst.m 1 []] = false := by decide
def moVal (m v : Nat) (nv : Bool) : MoRes → Bool
  | .val a b c => a == m && b == v && c == nv
  | .flt _ _ => false
def moFlt (code d : Nat) : MoRes → Bool
  | .val _ _ _ => false
  | .flt a b => a == code && b == d
/-- The sum of 2 with variance 1 and 3 with variance 2, in every element of an active row. -/
theorem witness_moment_values :
    (List.range 8).all (fun e =>
      let k : Core := { coreU with m := [(0, List.replicate 1024 (0x40000000#32, 0x3F800000#32)), (2, List.replicate 1024 (0x40400000#32, 0x40000000#32))] }
      let F : VForm := { d := .m, a := .m, b := .m, subUsed := true }
      let f := { vr0 with d := 1#5, b := 2#5 }
      let u : MoUse := { b := true, rho := true }
      moVal 0x40A00000 0x40400000 false (moElem u false (fun x => Mo.add x false) (nth {} (moArgs k F f u) e)) && !moPois k F f u e) = true := by
  decide +kernel
theorem witness_moment_faults :
    moFlt FCode.negvar 1 (moElem {} false (fun x => Mo.sq x) { va := 0xBF800000 }) = true ∧ Mo.negC 0xBF800000 = true ∧
    moPois { coreU with mPois := [0] } { d := .m, a := .m } vr0 {} 0 = true := by decide +kernel
theorem witness_moctl : (0x3F7#32 &&& 0xFFFFFC08#32) = 0#32 ∧ wportHit coreU (0 + 2) (coreU.outV 0 []) = false ∧ coreU.awakeV (coreU.rotV 0) = true ∧
    (∀ e < 8, coreU.poisM 0 e = false) := by decide

/-! ## Witnesses: matrix words -/

/-- MA stands in a stamped section whose first clk is `base`. -/
def stamped (base : Nat) (k : Core) : State :=
  atEng .ma (k.modEng .ma fun g => { g with ended := false, inSec := true, hdr := BitVec.ofNat 64 (9 * 2 ^ 50 + 2 ^ 48), stampBase := base, tracks := [{ num := 1#16 }] })
def mm0 : MmWord := { stamp := 0#16, arr := 0#2, acc := 0#8, sa := 0#6, sb := 1#6, pl := 2#5, sub := 0#4, imm := 0#16, z0 := 0#17 }
/-- A product queued for clk 64. -/
def mmq : MqEntry := { opc := 0x80#8, w := mm0, sec := 1#16, widx := 0, stamp := 64 }
theorem witness_matrix_issue :
    Executes (stamped 64 coreU) 0 .ma always ∧ ((stamped 64 coreU).core 0).ma.hdr.getLsbD 48 = true ∧ ((atWord .ma coreU).core 0).ma.hdr.getLsbD 48 = false ∧
    MmUse.breaks { slots := true, sb := true, pl := true } mm0 = false ∧ MmUse.breaks {} mm0 = true ∧ (∀ t ∈ mmq.tiles, coreU.awakeA t = true) ∧
    (∃ t ∈ mmq.tiles, { coreU with bankA := setAt (List.replicate 16 .awake) 0 .off }.awakeA t = false) ∧ arrayAbsent (stamped 64 coreU) 0 mm0 = false ∧
    arrayAbsent { stamped 64 coreU with crs := [(8, 0x8000#64)] } 0 { mm0 with arr := 2#2 } = true ∧ 8 ≤ (List.replicate 8 mmq).length ∧
    25 < ({ mm0 with pl := 26#5 }).pl.toNat ∧ ({ mm0 with imm := 64#16 }).imm = 64#16 :=
  ⟨⟨rfl, rfl, fun _ => rfl⟩, by decide, by decide, by decide, by decide, by decide, ⟨_, .head _, by decide⟩, by decide, by decide, by decide, by decide, rfl⟩
/-- The slots of a product are filled with two planes. -/
def planes : Tbl Slot := [(0, { valid := true, bytes := [(0x1FF0, 2#8)] }), (1, { valid := true, bytes := [(0x1FF0, 1#8), (0x1FF4, 2#8)] })]
theorem witness_matrix_start :
    nextStart { coreU with mq := [mmq] } 64 = some mmq ∧ (∀ x ∈ mmq.units, Tbl.get 0 coreU.arrBusy x ≤ 64) ∧
    (∃ r ∈ mmq.reads, slotReady coreU mmq.pl r = false) ∧ (∀ r ∈ mmq.reads, slotReady { coreU with slots := planes } mmq.pl r = true) ∧
    (atUnit 0 { coreU with mq := [mmq] }).jobWrites 0 0 = false := by decide
theorem witness_matrix_write : let r : MRun := { cmd := mmq, arr := 0, start := 64, due := 90, slots := [] }
    nextWrite { coreU with mrun := [r] } 90 = some r := by decide

/-! ## Witnesses: drain words -/

def dx0 : DxWord := { acc := 0#8, slot := 0#6, sd := 0#4, rm := 0#3, fmt := 0#8, cb := 0#4, vi := 0#5, sub := 0#4, z32 := 0#6, imm := 0#32 }
/-- A drain of tile 0 as bytes, into a slot or an object. -/
def drainW (slot : Bool) : DxWord := { dx0 with fmt := 1#8, sub := if slot then 1#4 else 0#4, imm := 0x3F800000#32 }
/-- Object 1 holds signed bytes, and its draft is the task's; the descriptor is bound to the draft. -/
def draining (k : Core) : State :=
  let d := [BitVec.ofNat 64 hObj, BitVec.ofNat 64 (2 ^ 5 + nth 0 image1 1), 0#64, 0#64, 0#64, 0#64, 0#64, 0#64]
  let s := atWord .dr { k with sd := [(0, d)] }
  withYard { world {} with cores := s.cores, agent := s.agent } [(16, 2 ^ 56 + 2 * 2 ^ 53 + 2 ^ 46), (17, 4 + 16 * 2 ^ 32), (25, 2 ^ 30 + 2 ^ 32)]
def drIn (f : Core → Bool) (s : State) : Bool := f (s.core 0)
theorem witness_drain_slot : drainIllop .plain (drainW true) = none ∧ drBusy coreU [] = false ∧ DrainKind.takes .plain 1 = true ∧ coreU.awakeA 0 = true ∧
    rawEnd 1 1024 ≤ 0x1FF0 ∧ (drainW true).sub.getLsbD 0 = true ∧ (drainW false).sub.getLsbD 0 = false ∧
    coreU.awakeV 0 = true ∧ coreU.poisV 0 0 = false := by decide
theorem witness_drain_values :
    (match drainResult .plain (drainW true) false { valid := true } {} 0 (tab 4 fun n => (n, [])) with
      | .inr r => !r.2.2
      | .inl _ => false) = true ∧
    (match drainResult .plain (drainW true) false { valid := true, poison := [(2, 0x07)] } {} 0 (tab 4 fun n => (n, [])) with
      | .inr _ => false
      | .inl r => r.2 == 2) = true := by decide +kernel
theorem witness_drain_object :
    let s := draining coreU
    let d := (s.core 0).desc 0
    drainIllop .plain (drainW false) = none ∧ Desc.handle d ≠ 0#64 ∧ s.walkReady (s.principal 0) (Desc.handle d) = true ∧
      hit (fun l => !destShape d l.fmt (some l.rank) (Desc.tr d) (Desc.tc d) && l.fmt == 1 && (destVer s 0 d (some l)).isNone) (s.lookup (s.principal 0) (Desc.handle d)) = true ∧
      hit (fun l => (destVer s 0 ((boundTo coreU).desc 0) (some l)).isSome) (s.lookup (s.principal 0) (Desc.handle d)) = true := by decide +kernel
theorem witness_drain_commit : Tbl.sorted coreU.tiles = true ∧ Tbl.find ({} : Tile).poison 0 = none ∧ (({} : Tile).ra 0).overflows = false ∧
    ((({} : Tile).ra 0).loss && true) = false := by decide
/-- A RAW slot of two by two signed bytes, and a slot of planes. -/
def raw22 : Slot := rawSlot 1 2 2 [1, 2, 3, 4] []
def plane22 : Slot := { raw22 with bytes := Tbl.set 0#8 raw22.bytes 0x1FF0 1#8 }
theorem witness_dstore :
    let s := draining { coreU with slots := [(0, raw22)] }
    let d := (s.core 0).desc 0
    drBusy (s.core 0) [0] = false ∧ raw22.form = 0 ∧ plane22.form = 1 ∧ raw22.fmt = 1 ∧ raw22.tr = Desc.tr d ∧ raw22.tc = Desc.tc d ∧ raw22.tr ≤ 16 ∧
      hit (fun l => !destShape d raw22.fmt (some l.rank) raw22.tr raw22.tc && l.fmt == 1 && !isMx l.fmt && !isSmb l.fmt && (destVer s 0 d (some l)).isNone &&
        (destCells d (some l)).all fun e => !slotPois raw22 l.fmt 4 (2 * e.1 + e.2.1)) (s.lookup (s.principal 0) (Desc.handle d)) = true ∧
      (coreU.desc 0).length = 8 ∧ Desc.handle (coreU.desc 0) = 0#64 ∧ coreU.poisV 0 0 = false := by decide +kernel

/-! ## Witnesses: Bench words, barriers, KVAPP -/

/-- The Bench object of die 0, of 32-bit integers, bound to descriptor 0 as a tile of two elements. -/
def benching (k : Core) : State :=
  let d := [BitVec.ofNat 64 hBench, BitVec.ofNat 64 (2 ^ 32 + 2 ^ 13 + 2 * 2 ^ 6), 0#64, 0#64, 0#64, 0#64, 0#64, 0#64]
  let s := atWord .dr { k with sd := [(0, d)] }
  withYard { world {} with cores := s.cores, agent := s.agent } [(64, 5 * 2 ^ 56 + 2 ^ 53 + 2 ^ 46)]
theorem witness_bkupd :
    let s := benching coreU
    let d := (s.core 0).desc 0
    updIllop dx0 = none ∧ drBusy (s.core 0) [] = false ∧ Desc.handle d ≠ 0#64 ∧ Desc.tr d ≤ 16 ∧
      hit (fun l => l.bench && s.benchHere (s.principal 0) l && l.fmt == 5 && (leastFault (updErrs (s.core 0) true dx0 d l)).isNone &&
        (leastFault (updErrs (s.core 0) true { dx0 with sub := 6#4 } d { l with fmt := 0 })).isSome &&
        (leastFault (updErrs (s.core 0) false dx0 d l)).isSome &&
        (destCells d (some l)).all fun e => (updElem (s.core 0) dx0 l [((s.core 0).drV 0).toArray] ((s.core 0).physM 0).toArray ((s.core 0).tile 0)
          (64 * e.1 + e.2.1)).1.isEmpty) (s.lookup (s.principal 0) (Desc.handle d)) = true ∧
      ((s.core 0).stores.any DrStore.updates) = false := by decide +kernel
/-- The window is bound, and the index register holds the index that says none in its element 1. -/
def windowed : Core :=
  { coreU with winBind := some { handle := BitVec.ofNat 64 hBench, l0 := 0, op := 0, fmt := 5 }, v := [(0, 3#32 :: BitVec.allOnes 32 :: List.replicate 1022 0#32)] }
theorem witness_xacc : windowed.awakeV 0 = true ∧ windowed.awakeV 1 = true ∧ windowOut (benching windowed) 0 + 2 ≤ 1024 ∧
    (List.range 2).filter (fun j => nth 0 (windowed.drV 0) j != 2 ^ 32 - 1) = [0] ∧ windowed.drPois 0 0 = false ∧ coreU.winBind = none ∧
    ({ dx0 with imm := 1024#32 }).imm.toNat = 1024 := by decide +kernel
theorem witness_xflush : updatesApplied ((benching coreU).flushWindow 0) 0 = true ∧
    updatesApplied ((benching { windowed with win := [⟨3, 5#32⟩] }).flushWindow 0) 0 = false ∧
    (({ (benching { coreU with scFail := true }) with agent := .unit 0 }).core 0).scFail = true := by decide +kernel
/-- DR holds at the word `w`, the first of its section. -/
def drHolds (h : Hold) (w : Nat) (k : Core) : State :=
  { atUnit 0 { k with views := [dataView], dr := { hold := h, ended := false, inSec := true, hdr := BitVec.ofNat 64 (3 * 2 ^ 50), hdrPc := 0x1000#64 } } with
    mem := putBytes [] 0x1008 (leBytes 12 w) }
theorem witness_dbars :
    (coreU.full 15 = false ∧ coreU.owned 15 = false) ∧ { coreU with cb := List.replicate 16 true }.full 15 = true ∧
    ((drHolds .dbarsFull (0x16 * 2 ^ 88) coreU).core 0).dr.hold = .dbarsFull ∧
    headInstr (drHolds .dbarsFull (0x16 * 2 ^ 88) coreU) 0 .dr = some (.dbarsFull ⟨false, false, 0#4, 0#2⟩ dx0) := by decide +kernel
/-- A KV page as a draft of the task, bound to descriptor 0. -/
def appending (k : Core) (tord : Nat) : State :=
  let d := [BitVec.ofNat 64 hObj, BitVec.ofNat 64 (2 ^ 5 + 2 ^ 13 + 2 ^ 6), 0#64, 0#64, 0#64, 0#64, 0#64, 0#64]
  let s := atWord .dr { k with sd := [(0, d)] }
  { world {} with
    cores := s.cores, agent := s.agent, mem := tables2
    yard := entryWords 1 [(0, 0x11 * 2 ^ 56 + 3 * 2 ^ 53 + 2 ^ 46 + tord * 2 ^ 32), (1, 2 + 64 * 2 ^ 32), (2, 64), (4, 1), (5, 7 * 2 ^ 61), (7, 1), (8, 0x100000),
      (9, 2 ^ 30 + 2 ^ 32), (14, 0xF8000000)] }
theorem witness_kvapp :
    let s := appending coreU 3
    let d := (s.core 0).desc 0
    Desc.gone d = false ∧ Desc.published d = false ∧ Desc.draft d = true ∧ Desc.draft ((boundTo coreU).desc 0) = false ∧ fmtListed 0x11 = true ∧ fmtListed 0xFF = false ∧
    hit (fun l => l.tord == 3 && l.fmt == 0x11 && decide (l.e 2 ≤ 512) &&
        hit (fun p => decide (p.key = 0x140000)) (s.resolve (s.principal 0) (Desc.handle d) l [0, 0, 0, 0, 0] Right.write (State.destSel d)))
      (s.lookup (s.principal 0) (Desc.handle d)) = true ∧
    hit (fun l => l.tord == 0) ((appending coreU 0).lookup (s.principal 0) (Desc.handle d)) = true ∧ coreU.poisV 0 575 = false := by decide +kernel

/-! ## Witnesses: loads, stores and updates take effect -/

/-- A load in flight of the object's first two by two bytes, into a slot or a register. -/
def load1 (op : Nat) : FeLoad :=
  { op := op, f := { st0 with sub := if op = 0 then 0#4 else 1#4 }, w := 0#96, sec := 1#16, widx := 0, desc := (boundTo coreU).desc 0
    idx := List.replicate 1024 0, mask := BitVec.allOnes 1024, drop := [] }
def loading (x : FeLoad) : State := { rank2 (framed [] { coreU with loads := [x] }) with agent := .unit 0 }
def tileHit (f : TileGot → Bool) (s : State) (x : FeLoad) : Bool :=
  hit (fun l => f (readTile s (s.principal 0) x l)) (s.lookup (s.principal 0) (Desc.handle x.desc))
theorem witness_load_resolve :
    ((loading (load1 0)).core 0).loads = [load1 0] ∧ Desc.sh (load1 0).desc = 0#64 ∧ (loading (load1 0)).walkReady ((loading (load1 0)).principal 0)
      (Desc.handle (load1 0).desc) = true ∧ loadKind (load1 1).f ≤ 1 ∧ (load1 1).drop.contains 0 = false := by decide +kernel
theorem witness_load_tile :
    (tileHit (fun r => match r with | .ok _ => true | _ => false) (loading (load1 0)) (load1 0) &&
     tileHit (fun r => match r with | .elem _ _ _ => true | _ => false) { loading (load1 0) with mem := [] } (load1 0) &&
     hit (fun l => hit (fun _ => true) (Rs.ok l)) ((loading (load1 2)).lookup ((loading (load1 2)).principal 0) (Desc.handle (load1 2).desc))) = true := by
  decide +kernel
/-- Two stores of DR in flight: into a slot, and of an element of the draft. -/
def stored (work : DrWork) (s : State) (dr : List Word) : State :=
  { s with agent := .unit 0, cores := [(0, { coreU with stores := [{ w := 0#96, sec := 1#16, widx := 0, desc := dr, work := work }] })] }
def draftDesc (w1 : Nat) : List Word := [BitVec.ofNat 64 hObj, BitVec.ofNat 64 (2 ^ 5 + w1), 0#64, 0#64, 0#64, 0#64, 0#64, 0#64]
/-- The draft of the object has its own page. -/
def drafted : State := { withYard (world coreU) [(16, 2 ^ 56 + 2 * 2 ^ 53 + 2 ^ 46), (17, 4 + 16 * 2 ^ 32), (25, 2 ^ 30 + 2 ^ 32)] with mem := tables2 }
def storeEl (t : List Nat) : StEl := { elem := 0, t := t, val := some 7 }
def placed (f : Placed → Bool) (s : State) (els : List StEl) (h : Word) (v : VSel) : Bool :=
  hit (fun l => f (placeEls s (s.principal 0) h l Right.write v els)) (s.lookup (s.principal 0) h)
theorem witness_store_accept :
    ((stored (.slots [(0, raw22)]) drafted (draftDesc 0)).core 0).stores.length = 1 ∧
    placed (fun r => match r with | .ok l => l.all fun e => decide (e.2.key = 0x140005) && !drafted.pageLocked e.2.key | .bad _ _ _ => false) drafted
      [storeEl [0, 5, 0, 0, 0]] (BitVec.ofNat 64 hObj) .draft = true ∧
    placed (fun r => match r with | .ok _ => false | .bad _ _ _ => true) drafted [storeEl [4, 0, 0, 0, 0]] (BitVec.ofNat 64 hObj) .draft = true ∧
    (drafted.ownPages [(1, 0)]).map State.mem = some drafted.mem ∧
    placed (fun r => match r with | .ok l => l.length == 1 | .bad _ _ _ => false) (benching coreU) [storeEl [1, 0, 0, 0, 0]] (BitVec.ofNat 64 hBench) (.ver 1) = true :=
  ⟨rfl, by decide +kernel, by decide +kernel, by decide +kernel, by decide +kernel⟩
/-- A request on its way to a bank of die 0. -/
def bankReq (gen : Nat) : BankReq :=
  { core := 0, crid := 1, key := 4, gen := gen, pa := 0x60000000000, size := 4, op := 0, fmt := 5, x := 3, cmp := 0, win := false }
theorem witness_bank :
    (∀ g ∈ [0, 1], [bankReq g].find? (fun r => decide (r.pa / 2 ^ 32 % 8 = 0)) = some (bankReq g)) ∧ ((world coreU).yw 4 0).getLsbD 46 = true ∧
    fld ((world coreU).yw 4 0) 0 12 = 0 ∧ (world coreU).poisoned 0x60000000000 4 = false ∧
    { world coreU with poison := [0x60000000000] }.poisoned 0x60000000000 4 = true ∧
    ((world coreU).cores.find? fun e => decide (e.2.crid = 1)).isSome = true ∧ (world coreU).MemOk :=
  ⟨by decide, by decide, by decide, by decide, by decide, by decide, rfl⟩
theorem witness_kvapp_apply :
    let s := stored (.token 0 (List.replicate 128 0x3F800000)) (appending coreU 3) (draftDesc (2 ^ 13 + 2 ^ 6))
    let h := BitVec.ofNat 64 hObj
    (s.ownPages [(1, 0)]).map State.mem = some s.mem ∧ s.pageLocked 0x140000 = false ∧
    s.num (0x140000 + 256 * 64) 8 / 2 ^ 9 % 2 ^ 23 = 0 ∧ s.num (0x140000 + 256 * 64) 8 % 128 < 64 ∧ s.poisoned (0x140000 + 256 * 64) 8 = false ∧
    hit (fun l =>
      let at_ := fun (e : List Nat × Bool) => match s.kvPlace (s.principal 0) h l .draft e with
        | .ok p => some p
        | .bad _ => none
      (State.kvCells l 0).all (fun e => (at_ e).isSome) &&
        match s.kvStores at_ l 0 (List.replicate 128 0x3F800000) 0 false with
        | none => false
        | some r => r.1.all fun w => !s.pageLocked w.1.key && w.1.page == 0) (s.lookup (s.principal 0) h) = true := by decide +kernel

/-! ## Witnesses: sections -/

/-- MA stands at a section header in a view over local memory. -/
def atHead (h : Nat) (k : Core) : State :=
  { atUnit 0 { k with views := [dataView], forkOut := true, ma := { ended := false, hdrPc := 0x1000#64 } } with mem := cells 0x1000 [h] }
/-- Headers: of one word, of none, of another number, asking for a stamp without leave, that waits for section 1 of FE. -/
def headers : List Nat :=
  [2 ^ 50 + 2 ^ 32 + 0xFFFFFFFF, 2 ^ 32 + 0xFFFFFFFF, 2 ^ 50 + 2 ^ 33 + 0xFFFFFFFF, 2 ^ 50 + 2 ^ 48 + 2 ^ 32 + 0xFFFFFFFF, 2 ^ 50 + 2 ^ 32 + 0x1FFFF]
theorem witness_header :
    (∀ h ∈ headers, State.atHeader ((atHead h coreU).core 0) .ma 0 = true ∧ (atHead h coreU).headerAt 0 .ma = some (BitVec.ofNat 64 h)) ∧
    headers.map (fun h => State.headerFault (BitVec.ofNat 64 h) 1#16) = [none, some 3, some 4, some 5, none] ∧
    State.waitMet 0#16 0xFFFF#16 = true ∧ State.waitMet 0#16 1#16 = false ∧ State.waitMet 1#16 1#16 = true ∧ State.waitMet 0x8000#16 1#16 = true ∧
    State.waitMet 0x8001#16 1#16 = false := by decide
theorem witness_issue_on :
    let g := ((atWord .ma coreU).core 0).ma
    g.redo = [] ∧ g.len = 9 ∧ (∀ n < 4, (nth {} g.loops n).active = false) ∧
    (let l : LoopLv := { active := true, ls := 1, le := 4, lc := 2 }
     l.le = 4 ∧ 1 < l.lc ∧ l.rot = false ∧ l.ls < g.len) := by decide
theorem witness_retire : State.frontDone { tracks := [{ num := 1#16, issued := true }] } = true ∧
    State.frontDone { tracks := [{ num := 1#16, issued := true, flight := 1 }] } = false ∧
    ({ num := 1#16, issued := true, token := true } : Track).token = true := by decide
/-- The control sequencer waits at RDV while a fork is outstanding. -/
def atRdv : Core := { waitsAt coreU .rdv with forkOut := true }
/-- Every engine but the one that stands somewhere has ended its stream. -/
def others (k : Core) : Core := { k with fe := { ended := true }, dr := { ended := true } }
/-- The same of FE. -/
def feHolds (h : Hold) (w : Nat) (k : Core) : State :=
  { atUnit 0 { k with views := [dataView], fe := { hold := h, ended := false, inSec := true, hdr := BitVec.ofNat 64 (3 * 2 ^ 50), hdrPc := 0x1000#64 } } with
    mem := putBytes [] 0x1008 (leBytes 12 w) }
theorem witness_holds :
    ({ wmLeft := some 0, ended := false } : EngSt).fault.v = false ∧
    ((drHolds .guard ((2 ^ 7 + 3 * 4) * 2 ^ 80) coreU).fetch 0 0x1008 12).isSome = true ∧
    headInstr (drHolds .gwait (0x04 * 2 ^ 88 + 15) coreU) 0 .dr = some (.gwait ⟨false, false, 0#4, 0#2⟩ { lp0 with imm := 15#32 }) ∧
    headInstr (feHolds .swaitb (0x18 * 2 ^ 88) coreU) 0 .fe = some (.swaitb ⟨false, false, 0#4, 0#2⟩ st0) ∧
    headInstr (feHolds .srel (0x19 * 2 ^ 88) coreU) 0 .fe = some (.srel ⟨false, false, 0#4, 0#2⟩ st0) ∧
    { coreU with dr := { fault := { v := true } } }.anyFault = true ∧ coreU.ct.sup = false ∧ coreU.phase = .running := by decide +kernel
theorem witness_stalls :
    guardStuck (drHolds .gwait (0x04 * 2 ^ 88 + 15) atRdv) 0 .dr = true ∧ forkStuck (atHead (2 ^ 50 + 2 ^ 32 + 0x1FFFF) (others coreU)) 0 = true ∧
    swaitbStuck (feHolds .swaitb (0x18 * 2 ^ 88) atRdv) 0 = true ∧
    dbarsStuck (drHolds .dbarsWait (0x16 * 2 ^ 88 + 2 ^ 38) { atRdv with cb := List.replicate 16 true }) 0 = true := by decide +kernel

/-! ## Witnesses: command lists -/

/-- Interpreter 2 runs and stands at an entry, in the world of objects with the running task 1. -/
def listing (k : Interp) : State := { running coreU with agent := .unit 2, interps := [(2, { k with st := 1 })] }
/-- An interpreter that holds at the entry. -/
def heldAt (h : ClHold) : Interp := { hold := some h }
def entry (w0 w1 w2 w3 : Nat) : ClEntry := ⟨BitVec.ofNat 64 w0, BitVec.ofNat 64 w1, BitVec.ofNat 64 w2, BitVec.ofNat 64 w3⟩
/-- Legal entries of every kind: LAUNCH of one task to die 7, and of a team of two; WAITEV on a trigger and on the flag; SKIPIF; JUMP; CALL;
SIGNAL; PUBLISH; PREEMPT of die 0 and of team 1; PASS; RET; END. -/
def eLaunch : ClEntry := entry (7 * 2 ^ 33 + 2 ^ 36 + 1) hObj 0 100
def eTeam : ClEntry := entry (2 ^ 48 + 2 ^ 36 + 2 ^ 8 + 1) hObj 0 100
def eWait : ClEntry := entry (2 ^ 48 + 2 ^ 8 + 2) 0 0 0
def eWaitFlag : ClEntry := entry 2 hFlag 1 0
def eSkip : ClEntry := entry (3 * 2 ^ 48 + 3) hObj 0 5
def eJump : ClEntry := entry 4 0 7 0
def eCall : ClEntry := entry 5 hObj 7 0
def eSignal : ClEntry := entry 6 hFlag 9 0
def ePublish : ClEntry := entry 7 hObj 8 77
def ePreempt : ClEntry := entry (2 ^ 48 + 8) 100 10 0
def ePass : ClEntry := entry (8 * 2 ^ 48 + 9) hObj 3 0
def eEnd : ClEntry := entry 0x0B 0 0 0

theorem witness_list_legal :
    [Instr.launch eLaunch, .launch eTeam, .waitev eWait, .waitev eWaitFlag, .skipif eSkip, .jump eJump, .call eCall, .signal eSignal, .publish ePublish,
      .preempt ePreempt, .pass ePass, .ret eEnd, .endList eEnd].map entryLegal =
    [some (eLaunch, true), some (eTeam, true), some (eWait, true), some (eWaitFlag, true), some (eSkip, true), some (eJump, true), some (eCall, true),
      some (eSignal, true), some (ePublish, true), some (ePreempt, true), some (ePass, true), some (eEnd, true), some (eEnd, true)] ∧
    entryLegal (.pass (entry (9 * 2 ^ 48 + 9) 0 0 0)) = some (entry (9 * 2 ^ 48 + 9) 0 0 0, false) := by decide
theorem witness_list_at : (listing {}).unit = 2 ∧ ((listing {}).interp 2).st = 1 ∧ ((listing { stack := [(0#64, 1#64)] }).interp 2).stack = [(0#64, 1#64)] ∧
    8 ≤ (List.replicate 8 (0#64, 1#64)).length := by decide
theorem witness_list_tries :
    ListTries (listing {}) 2 eWait (.waitev eWait) (.waitev eWait) { entry := eWait, start := 0 }
      ((listing {}).setInterp 2 { (listing {}).interp 2 with busyTo := max ((listing {}).interp 2).busyTo (0 + 16) }) ∧
    ∃ first, decodeEntry eWait = some first ∧ first = .waitev eWait ∧
      ListTries (listing (heldAt { entry := eWait, start := 0 })) 2 eWait first .clEntryResume { entry := eWait, start := 0 }
        (listing (heldAt { entry := eWait, start := 0 })) :=
  ⟨⟨rfl, by decide, .inl ⟨rfl, rfl, rfl, rfl, rfl⟩⟩, _, rfl, by decide, ⟨rfl, by decide, .inr ⟨rfl, rfl, rfl, rfl, rfl⟩⟩⟩
theorem witness_list_resume : ∀ e ∈ [eLaunch, eTeam, eWaitFlag, eSkip, eSignal, ePublish, ePreempt, ePass],
    (decodeEntry e).bind (fun i => (entryLegal i).map (·.1)) = some e := by decide
theorem witness_list_skipif : (listing {}).entryLocked (BitVec.ofNat 64 hObj) = false ∧
    hit (fun bs => bs.length == 8) ((listing {}).listRead 2 (BitVec.ofNat 64 hObj) 0 8).1 = true ∧
    hit (fun _ => true) ((listing {}).listRead 2 (BitVec.ofNat 64 hObj) 64 8).1 = false ∧
    { listing {} with ylocks := [(1, 1)] }.entryLocked (BitVec.ofNat 64 hObj) = true := by decide +kernel
theorem witness_list_flags :
    (hit (fun _ => true) ((listing {}).listCheck 2 (BitVec.ofNat 64 hFlag) Right.read true) &&
      hit (fun _ => true) ((listing {}).listCheck 2 (BitVec.ofNat 64 hFlag) Right.publish true)) = true ∧
    hit (fun _ => true) ((listing {}).listCheck 2 (BitVec.ofNat 64 hObj) Right.read true) = false := by decide +kernel
/-- The draft's own tables can be made: no table of the version stands in the root block. -/
theorem witness_list_publish :
    let s : State := { listing {} with mem := tables2, yard := Tbl.put (listing {}).yard 20 2#64 }
    (s.pcc - 0) % 64 = 0 ∧ hit (fun l => decide (8 + 8 ≤ objBytes l) && decide (objBytes l < 57 + 8)) (s.listCheck 2 (BitVec.ofNat 64 hObj) (Right.write + Right.publish) false) = true ∧
      (listing {}).hkind 1 = 0 ∧ (listing {}).liven 1 ≠ 4 ∧ (listing {}).curv 1 ≠ 2 ^ 32 - 1 ∧ ((listing {}).yw 1 0).getLsbD 49 = false := by decide +kernel
/-- With frames in the ring, the draft of object 1 opens, and its page is its own. -/
def withFrames : State :=
  let s := listing {}
  { s with
    regs := [(0x10, 8#64), (0x18, 0x20000000#64), (0x20, 0x2F00#64), (0x5000, 0x400000#64), (0x5008, 4#64), (0x5018, 3#64)]
    mem := tables ++ cells 0x400000 [0x500000, 0x510000, 0x520000] }
theorem witness_list_pass : ((listing {}).interp 8).pass.length < 16 ∧ 16 ≤ (List.replicate 16 (0#64, 0#64)).length ∧
    ({ st := 0, pass := [(1#64, 2#64)] } : Interp).pass = (1#64, 2#64) :: [] ∧ ({} : Interp).st = 0 := by decide
/-- The byte object begins with a record image. -/
def launching (k : Interp) (img0 : Nat) : State := { listing k with mem := tables ++ cells 0x130000 [img0] }
theorem witness_launch :
    let s := launching {} (2 ^ 32 + 2 * 2 ^ 14)
    ∃ bs, (s.listRead 2 (BitVec.ofNat 64 hObj) 0 64).1 = .ok bs ∧ ((s.templateBad eLaunch (words64 8 bs)).isNone && (s.templateBad eTeam (words64 8 bs)).isNone) = true :=
  found _ _ (by decide +kernel)
theorem witness_launch_bad :
    let s := launching {} (2 * 2 ^ 32 + 2 * 2 ^ 14)
    ∃ bs, (s.listRead 2 (BitVec.ofNat 64 hObj) 0 64).1 = .ok bs ∧ (s.templateBad eLaunch (words64 8 bs) == some 4) = true := found _ _ (by decide +kernel)
theorem witness_launch_holds :
    nth 0 ((listing { slots := List.replicate 16 1 }).interp 2).slots eLaunch.ts ≠ 0 ∧ nth 0 ((listing {}).interp 2).slots eLaunch.ts = 0 ∧ eLaunch.depen = false ∧
    (listing {}).askCrid = some 2 ∧ { listing {} with regs := [] }.askCrid = none ∧ (listing {}).qRoom 135 = true ∧ eLaunch.teamf = false ∧ eTeam.teamf = true ∧
    eTeam.count = 2 ∧ eLaunch.count = 1 := by decide
theorem witness_launch_team : (listing {}).freeTeam 0 = some 1 := by decide +kernel
/-- The second record of a team of two, whose first is record 3. -/
theorem witness_launch_second :
    let h : ClHold := { entry := eTeam, start := 0, img := [2#64], made := [3], team := 1 }
    let tm : Team := { id := 1, size := 2, joined := 2, byLaunch := true, members := [⟨3, 0, false, false, false⟩] }
    let s := { listing (heldAt h) with teams := [(1, tm)] }
    h.made ≠ [] ∧ h.img ≠ [] ∧ h.team = 1 ∧ s.team 1 = some tm ∧ tm.id = 1 ∧ s.askCrid.isSome = true ∧ h.made.length < eTeam.count ∧ eTeam.count = h.made.length + 1 := by
  decide

/-! ## Witnesses: pre-emption -/

/-- Task 1, of team 1, runs. -/
def victimState (k : Core) : State :=
  { world k with
    agent := .unit 2, interps := [(2, { st := 1 })], crs := [(8, 0x2060#64), (14, 0xF0000000#64)]
    teams := [(1, { id := 1, size := 1, joined := 1, members := [⟨1, 0, false, false, false⟩] })] }
theorem witness_preempt :
    (victimState coreU).victim ePreempt = some [1] ∧ (listing {}).victim ePreempt = none ∧ fld ePreempt.w0 48 16 = 1 ∧ (listing {}).team 1 = none ∧
    (victimState coreU).runs_ [1] = true ∧ (victimState coreU).mayDiscard [1] = true ∧ (victimState coreU).coresOf [1] = [0] := by decide
/-- A pre-emption under way, by DRAIN and by DISCARD. -/
def preempting (m : Nat) (ph : Phase) : State :=
  { victimState { coreU with phase := ph } with agent := .unit 0, preempts := [{ num := 0, team := 1, crids := [1], left := [1], method := m, expiry := 0, die := 0 }] }
theorem witness_preempt_after :
    ((preempting 0 .running).preempts[0]?).isSome = true ∧ ((preempting 0 .running).coresOf [1]).map (fun c => ((preempting 0 .running).core c).crid) ≠ [] ∧
    (preempting 1 (.stopping true)).discardReady { num := 0, team := 1, crids := [1], left := [1], method := 1, expiry := 0, die := 0 } = true ∧
    (preempting 1 .running).discardReady { num := 0, team := 1, crids := [1], left := [1], method := 1, expiry := 0, die := 0 } = false ∧ ((preempting 0 .running).preempts[1]?) = none := by
  decide

/-! ## Witnesses: the dispatcher -/

/-- An entry of record 2 in the cluster queue of an idle core, and the like. -/
def qe (late : Option Nat) : QEntry := { crid := 2, deadline := 5, kind := 2, cls := 0, seq := 0, late := late }
def popping (c : Core) (q : Nat) : State :=
  { world c with
    agent := .unit 0, crs := [(16, BitVec.ofNat 64 (2 ^ 32 + 2 * 2 ^ 14 + 0x40)), (17, 0x1F00#64)], queues := [(q, { head := [qe none], seq := 1 })] }
theorem witness_pop : ((popping {} 0).core 0).phase = .idle ∧ ((popping {} 0).cluster 0).degr = false ∧ (popping {} 0).popFrom 0 0 = some (qe none) ∧
    (popping {} 128).popFrom 0 0 = none ∧ (popping {} 128).popFrom 0 128 = some (qe none) ∧ (qe none).gang = [] ∧ (popping {} 0).crSv 2 = false ∧
    (popping {} 0).cr 2 1 ≠ 0#64 ∧ (popping coreU 0).popFrom 0 3 = none ∧ ((popping coreU 0).core 0).phase ≠ .idle := by decide
/-- A gang of records 2 and 3. -/
def gangQ : QEntry := { qe none with gang := [2, 3] }
def gangs (res : Bool) : State :=
  { world {} with
    agent := .unit 0, queues := [(128, { head := [gangQ], seq := 1 })]
    crs := [(16, BitVec.ofNat 64 (2 ^ 32 + 2 * 2 ^ 14 + 0x40)), (17, 0x1F00#64), (24, BitVec.ofNat 64 (2 ^ 32 + 2 * 2 ^ 14 + 0x40)), (25, 0x1F00#64)]
    cores := if res then [(1, { phase := .reserved 2 })] else [] }
theorem witness_pop_gang : (∀ r ∈ [false, true], (gangs r).popFrom 0 128 = some gangQ) ∧ gangQ.gang.head? = some 2 ∧
    (((gangs false).setCore 0 { (gangs false).core 0 with phase := .reserved 2 }).reservedFor 0 2).length < gangQ.gang.length ∧
    gangQ.gang.length ≤ (((gangs true).setCore 0 { (gangs true).core 0 with phase := .reserved 2 }).reservedFor 0 2).length := by decide
/-- A core that starts record 1 from clk 32 on. -/
def starting (sv : Bool) : State :=
  { world { crid := 1, phase := .starting 0 32 } with agent := .unit 0, pcc := 32, crs := [(8, if sv then BitVec.ofNat 64 (2 ^ 32 + 0x1060) else BitVec.ofNat 64 (2 ^ 32 + 0x60))] }
theorem witness_start : (∀ sv, (starting sv).crSv 1 = sv) ∧ ((starting false).core 0).phase = .starting 0 32 ∧ 32 ≤ (starting false).pcc ∧
    ((starting false).codeOf ((starting false).crCode 1)).isSome = true := by decide
theorem witness_save : ((world { coreU with phase := .saving 4 }).core 0).phase = .saving 4 ∧ (running coreU).team ((running coreU).teamOf 1) = none := by decide
theorem witness_moves :
    popChoice ({ world {} with queues := [(136, { head := [qe none], seq := 1 })] }.queue 136) 0
      (fun e => ({ world {} with queues := [(136, { head := [qe none], seq := 1 })] }.moveDie e).isSome) = some (qe none) ∧
    popChoice ((world {}).queue 136) 0 (fun e => ((world {}).moveDie e).isSome) = none ∧
    { world {} with clusters := [(0, { degr := true })] }.cluster 0 = { degr := true } ∧ 0 < (popping {} 0).qCount 0 ∧ (world {}).qCount 0 = 0 := by decide
theorem witness_spill : (world {}).qCap 0 = 0 ∧ ((world {}).queue 0).ring = [] ∧
    { world {} with regs := [(0x1000, 1#64), (0x1008, 4#64)] }.qCap 0 = 4 := by decide
theorem witness_wait_yield : WaitKind.osub ∈ [WaitKind.osub, .flacq, .tbar, .oclaim, .kvtake] ∧ 0 + 4096 < 4097 ∧ ¬ 0 + 4096 < 4096 ∧
    ((worldAt (waitsAt coreU .osub)).core 0).ct.wait.isSome = true := by decide
theorem witness_deadline :
    let s := { running coreU with agent := .unit 0, pcc := 0x100002, crs := [(8, 0x60#64), (10, 1#64)], regs := [(0x100, 1#64)] }
    (s.core 0).phase = .running ∧ (s.core 0).ct.sup = false ∧ (s.core 0).dlArmed = true ∧ (s.core 0).failed = none ∧
      (s.reg (0x100 + 8 * s.crClass (s.core 0).crid)).getLsbD 0 = true ∧
      (s.cr (s.core 0).crid 2).toNat + (s.reg (0x1000 + 32 * (s.core 0).popQ + 16)).toNat < s.pcc := by decide

/-! ## Witnesses: device registers, physical accesses, interrupts, walks -/

def plain (n : Nat) : State := { agent := .unit n }
theorem witness_registers : (8, 64) ∈ ([(0x8, 64), (0x10, 32)] : List (Nat × Nat)) ∧ 0x4000 + 64 * 11 = 0x42C0 ∧ 0 ∈ [0, 0x28] := by decide
theorem witness_pushes : (plain 1).agent = .unit 1 ∧ (0xD040 = 0xD000 + 64 * 1 ∧ 0x100011 = 0x100010 + 1) ∧ (0x20000#64).toNat % 65536 = 0 ∧
    State.frameTier 0 (0x20000#64).toNat = some 0 ∧ ((plain 0).reg (0x5000 + 8)).toNat ≤ ((plain 0).reg (0x5000 + 24)).toNat ∧
    (let s : State := { plain 0 with regs := [(0x5008, 4#64)] }
     (s.reg (0x5000 + 24)).toNat < (s.reg (0x5000 + 8)).toNat ∧ s.MemOk) ∧
    (0x20001#64).toNat % 65536 ≠ 0 ∧ State.frameTier 0 (0x20000#64).toNat ≠ some 1 := ⟨rfl, by decide, by decide, by decide, by decide, ⟨by decide, rfl⟩, by decide, by decide⟩
theorem witness_merge_slot : Tbl.sorted ({ plain 0 with merges := [(3, 1, 2, 0, 4)] } : State).merges = true ∧ ¬ (2 ≤ (8#64).toNat ∧ (8#64).toNat ≤ 7) ∧
    2 ≤ (7#64).toNat ∧ (7#64).toNat ≤ 7 := by decide
def keyOf : Option PaRef → Option Nat := fun r => r.map (·.key)
theorem witness_pa : let s := plain 3
    s.hartPlace 0x0C000000000 8 = none ∧ s.hartPlace 0x70000000008 8 = some ⟨none, .regs 8, 0x70000000008, true⟩ ∧
      s.hartPlace 0x2000 8 = some ⟨none, .hbm, 0x2000, false⟩ ∧ s.poisoned 0x2000 8 = false ∧ s.pageLocked 0x2000 = false ∧ s.MemOk ∧
      { s with poison := [0x2000] }.poisoned 0x2008 8 = true ∧
      { s with yard := entryWords 1 (byteObj 64), plocks := [(0x120000, 0, 0)] }.pageLocked 0x2000 = true :=
  ⟨by decide +kernel, by decide +kernel, by decide +kernel, by decide +kernel, by decide +kernel, rfl, by decide +kernel, by decide +kernel⟩
theorem witness_interrupts :
    let k : Hart := { held := false, mode := 0, csr := [(0x304, 0x888#64)] }
    let s : State := { atHart k with agent := .unit 1, pcc := 5, regs := [(0xE008, 5#64)] }
    s.takes 1 7 = true ∧ s.takes 1 3 = false ∧ s.takes 1 5 = false ∧ s.toM 1 7 = true ∧ { s with harts := [(1, { k with csr := [(0x304, 2#64), (0x344, 2#64)] })] }.takes 1 1 = true ∧ ((s.hart 1).csrOf 0x303).getLsbD 7 = false ∧ ((s.hart 1).csrOf 0x304).getLsbD 7 = true ∧
      (s.hart 1).held = false ∧ (s.hart 1).mode ≠ 3 := by decide
theorem witness_walks :
    let s := worldAt {}
    (0 : Nat) < 128 ∧ Tbl.find s.ylocks (0 * 2 ^ 29 + 1) = none ∧ s.liveRoute 0 = true ∧ (s.yw (0 * 2 ^ 29 + 1) 0).getLsbD 46 = true ∧
      (s.yw (0 * 2 ^ 29 + 9) 0).getLsbD 46 = false ∧ s.liveRoute 5 = false := by decide

/-! ## Witnesses: links -/

/-- A live port with these flits unacknowledged. -/
def portLive (un : List (List Byte)) : Port := { st := 2, seqTx := 7, unacked := un }
def atPort (k : Port) : State := { agent := .unit 3, pcc := 5000, ports := [(3, k)] }
def flitOf (typ vc seq ack : Nat) (m : List Byte) : List Byte := Flit.build seq ack typ vc (fit 0#8 56 m)
theorem witness_flit : 4095 < 4096 ∧ (fit 0#8 56 [1#8]).length = 56 ∧ ({} : Port).waitq = [] ∧ ({} : Port).unacked.length < 2047 ∧
    nth false ({} : Port).xoffTx 3 = false ∧ 2047 ≤ (List.replicate 2047 [0#8]).length := by decide +kernel
theorem witness_ack :
    let a := [flitOf 1 0 4095 0 [], flitOf 1 0 0 0 []]
    let b := [flitOf 1 0 1 0 []]
    (portLive (a ++ b)).waitq = [] ∧ (portLive (a ++ b)).unacked = a ++ b ∧ a ≠ [] ∧ (a.all fun f => decide ((0 + 4096 - Flit.seq f) % 4096 < 2048)) = true ∧
      (b.all fun f => decide (2048 ≤ (0 + 4096 - Flit.seq f) % 4096)) = true := by decide +kernel
theorem witness_flits : let s := atPort (portLive [])
    s.agent = .unit 3 ∧ (s.port 3).st = 2 ∧ (atPort { st := 3 } |>.port 3).st ≠ 2 ∧ Flit.good (List.replicate 64 0#8) = false ∧
      ([flitOf 1 0 1 0 (Msg.build 3 0 5 9 64 []), flitOf 1 0 1 0 [], flitOf 1 0 2 0 [], flitOf 2 0 7 0 [], flitOf 3 2 7 0 [], flitOf 4 2 7 0 [], flitOf 0 0 7 0 []].all Flit.good) = true := by
  decide +kernel
theorem witness_flit_data : let s := atPort (portLive [])
    let k1 := ({ s.port 3 with lastGood := s.pcc } : Port).takeAck s.pcc 0
    (Flit.typ (flitOf 1 0 1 0 []) = 1 ∧ Flit.seq (flitOf 1 0 1 0 []) = (k1.seqRx + 1) % 4096 ∧ Msg.kind (Flit.pay (flitOf 1 0 1 0 [])) = 0) ∧
      (Flit.seq (flitOf 1 0 2 0 []) ≠ (k1.seqRx + 1) % 4096) ∧
      State.msgEvent (Flit.pay (flitOf 1 0 1 0 (Msg.build 3 0 5 9 64 []))) = some (.wrreq (Msg.build 3 0 5 9 64 [])) ∧
      Flit.typ (flitOf 2 0 7 0 []) = 2 ∧ Flit.typ (flitOf 3 2 7 0 []) = 3 ∧ Flit.typ (flitOf 4 2 7 0 []) = 4 ∧ k1.waitq = [] := by decide +kernel
theorem witness_xon : let k := { portLive [] with waitq := [(2, [7#8])] }
    k.waitq = (2, [7#8]) :: [] ∧ k.unacked.length < 2047 := by decide
/-- Flits that have waited too long; a port that has replayed eight times; one in training. -/
theorem witness_ports :
    ((atPort (portLive [flitOf 1 0 1 0 []])).port 3).lastAck + 4096 ≤ 5000 ∧ 8 ≤ ({ portLive [] with replays := 8 } : Port).replays ∧
      (atPort { st := 0 } |>.port 3).st = 0 ∧ (atPort {} |>.port 3).st = 1 ∧ (atPort {} |>.port 3).fails = 0 ∧ (atPort {} |>.port 3).lastGood = 0 ∧
      (atPort {}).pcc ≤ 2 ^ 20 ∧ Msg.kind (Msg.build 3 0 5 9 64 []) = 3 := by decide +kernel
theorem witness_messages :
    let m := Msg.build 2 0 5 9 64 (List.replicate 32 1#8)
    Tbl.find ({ plain 3 with trans := [(9, 5, 64)] } : State).trans (Msg.tid m) = some (5, 64) ∧ Tbl.find (plain 3).trans (Msg.tid m) = none ∧
      (Msg.src m, Msg.tid m) ∈ ({ plain 3 with applied := [(5, 9)] } : State).applied ∧ (Msg.src m, Msg.tid m) ∉ (plain 3).applied := by decide +kernel

/-! ## Witnesses: power, supply, the host -/

/-- A fork is out; die 0 lets one section at a time run on a booking. -/
def leaving (books : List (Nat × Booking)) : State :=
  { atCt { coreX [100, 2 ^ 32] with forkOut := true } with govs := [(0, { gtok := 4, gbook := 1, books := books })] }
theorem witness_leave : let s := leaving [(5, ⟨0, 50⟩)]
    s.agent = .seq 0 .ct ∧ (s.rx 1#5).toNat < 2 ^ 32 ∧ 0 < (s.rx 1#5).toNat ∧ 2 ^ 32 ≤ (s.rx 2#5).toNat ∧ (s.rx 3#5).toNat = 0 ∧
      (s.core 0).forkOut = true ∧ s.therm < 2 ∧ 2 ≤ { s with therm := 2 }.therm ∧
      bookGrant (((s.dropBooking 0).gov (0 / 256)).books.map (·.2)) ((s.dropBooking 0).gov (0 / 256)).gbook s.pcc 100 = some 50 ∧
      bookGrant (((leaving [(5, ⟨0, 2 ^ 21⟩)]).dropBooking 0).gov 0 |>.books.map (·.2)) 1 0 100 = none := by decide
theorem witness_governor : let s : State := { plain 0 with govs := [(0, { gtok := 4, reqs := [(3, 1, 1)] })] }
    0 < min (s.gov 0).reqs.length (4 - ((s.gov 0).held.length + ((s.gov 0).freed.filter fun t => decide (s.pcc < t)).length)) ∧
      (3, 1, 1) ∈ (s.gov 0).reqs.take 1 ∧ engOf 1 ≠ none := by decide
theorem witness_heat : let s : State := { plain 0 with twarm := 10, thot := 20, ttrip := 30 }
    s.ttrip ≤ 30 ∧ s.therm < 3 ∧ s.thot ≤ 20 ∧ s.twarm ≤ 10 ∧
      { s with therm := 2, belowHot := some 1, pcc := 2 ^ 20 + 1 }.longBelow (some 1) = true ∧ 1 + 2 ^ 20 ≤ 2 ^ 20 + 1 := by decide
theorem witness_error_ring : (plain 0).reg 0xA008 = 0#64 ∧
    (let s : State := { plain 0 with regs := [(0xA008, 4#64)] }
     ¬ ((s.reg 0xA008).toNat = 0 ∨ (s.reg 0xA008).toNat ≤ (s.reg 0xA010 - s.reg 0xA018).toNat) ∧ s.MemOk) := ⟨rfl, by decide, rfl⟩
theorem witness_supply : (15#16).toNat < 16 ∧ ((plain 0).cluster 0).vcode = ((plain 0).cluster 0).target ∧
    (let s : State := { plain 0 with clusters := [(0, { margin := 16#16 })] }
     16 ≤ (s.cluster 0).margin.toNat) ∧ ¬ (16 ≤ ((plain 0).cluster 0).margin.toNat) ∧
    (let s : State := { plain 0 with clusters := [(0, { target := 90, margin := 3#16 }), (1, { target := 110 })] }
     (s.cluster 0).target < (s.cluster 0).vcode ∧ (s.cluster 1).vcode < (s.cluster 1).target) ∧ ¬ (16 < 16) := by decide
theorem witness_cxl : let s : State := { plain 0 with cxlUp := true, cxlBase := 0x10000, cxlSize := 0x20000 }
    s.cxlUp = true ∧ (plain 0).cxlUp = false ∧ s.cxlSize < (0x1FFFF#64).toNat + 2 ∧ (0x1FFFE#64).toNat + 2 ≤ s.cxlSize ∧ s.pageLocked (0x10000 + 8) = false ∧
      { s with yard := entryWords 1 (byteObj 64), plocks := [(0x120000, 0, 0x10000)] }.pageLocked 0x10008 = true ∧ s.MemOk :=
  ⟨rfl, rfl, by decide, by decide, by decide +kernel, by decide +kernel, rfl⟩

/-! ## Witnesses: the boot ROM -/

/-- The ROM has sent the request of this type with SEQ 1. -/
def asked (r : Nat) : State := { pcc := 10, boot := { req := r, step := 1, msg := [1#8], tries := 1 } }
def answer (t n : Nat) : List Byte := Bmsg.build t 1 (List.replicate n 0#8)
theorem answer_answers (r t n : Nat) (ok : Nat → Prop) (h : ok n)
    (q : leNat ((answer t n).take 4) = 0x56594E42 ∧ (nth 0#8 (answer t n) 4).toNat = t ∧ nth 0#8 (answer t n) 5 = 1#8 ∧ (answer t n).length = n + 16 ∧
      leNat (((answer t n).drop 12).take 4) = n ∧ leNat (((answer t n).drop 8).take 4) = 1) : Answers (asked r) r t ok (answer t n) :=
  ⟨rfl, rfl, rfl, q.1, q.2.1, q.2.2.1, by omega, by omega, by rw [q.2.2.2.1]; simpa using h, by rw [q.2.2.2.2.2]; rfl⟩
theorem witness_offer : Answers (asked 1) 1 2 (· = 32) (answer 2 32) := answer_answers _ _ _ _ rfl (by decide +kernel)
theorem witness_helper : Answers (asked 0x10) 0x10 0x11 (fun n => 1 ≤ n ∧ n ≤ 8192) (answer 0x11 1) := answer_answers _ _ _ _ (by decide) (by decide +kernel)
theorem witness_floor : Answers (asked 0x20) 0x20 0x21 (· = 96 + 3309) (answer 0x21 3405) := answer_answers _ _ _ _ rfl (by decide +kernel)
theorem witness_error : Answers (asked 1) 1 0x7F (· = 4) (answer 0x7F 4) := answer_answers _ _ _ _ rfl (by decide +kernel)
theorem witness_image : Answers (asked 0x30) 0x30 0x31 (fun n => 16 < n ∧ n ≤ 65552) (answer 0x31 17) := answer_answers _ _ _ _ (by decide) (by decide +kernel)
/-- A piece in place of a longer image; it is out of place where the ROM has had another byte. -/
theorem witness_pieces :
    let m := Bmsg.build 0x31 1 (leBytes 8 0 ++ leBytes 8 100 ++ [1#8])
    leNat ((m.drop 16).take 8) = 0 ∧ leNat ((m.drop 24).take 8) = 100 ∧ ((asked 0x30).boot.image ++ m.drop 32).length < 100 ∧
      (leNat ((m.drop 16).take 8) ≠ ({ (asked 0x30).boot with image := [1#8] } : Boot).image.length) := by decide +kernel
/-- An image whose header passes, of no body. -/
def goodHead : List Byte :=
  [0x56424F4C, 0x20000, 0x20000, 5 * 2 ^ 16, 1 * 2 ^ 48 + 4 * 2 ^ 32 + 20 * 2 ^ 16 + 10, 30 * 2 ^ 16, 0, 0].flatMap (leBytes 8 ·)
def zeroImage : Image := { head := words64 8 goodHead, key := [], body := [], signed := [], sig := [] }
theorem witness_image_header : zeroImage.headBad 5325 = false ∧ zeroImage.headBad 5324 = true ∧ zeroImage.placeBad {} = false := by decide +kernel
theorem witness_boot_fail : (asked 1).boot.step < 16 ∧ (asked 1).boot.server = [] ∧ ({ (asked 1).boot with server := [1#8] } : Boot).server ≠ [] := by decide
theorem witness_boot_timeout : let s : State := { asked 1 with pcc := 2 ^ 27 }
    s.boot.running = true ∧ s.boot.retryAt = none ∧ s.boot.req ≠ 0 ∧ s.boot.since + 2 ^ 27 ≤ s.pcc ∧ s.boot.tries < 8 ∧ s.boot.req = 1 ∧
      8 ≤ ({ s.boot with tries := 8 } : Boot).tries ∧ (asked 0x10).boot.req ≠ 1 := by decide
theorem witness_boot_retry : ({ (asked 1).boot with retryAt := some 10 } : Boot).retryAt = some 10 ∧ 10 ≤ (asked 1).pcc ∧
    ({ boot := { running := false } } : State).boot.running = false := by decide

/-! ## Witnesses: the entry's home, hand-over in its turns -/

/-- A store to the draft of object 1 is on its way. -/
def storing : State := { lossy (objX hObj 0) with linkFail := [], dirty := [.sector 0x140000] }
theorem witness_opub_waits : ∃ l, storing.lookup (storing.principal 0) (BitVec.ofNat 64 hObj) = .ok l ∧ storing.draftOut 1 l = true ∧
    (lossy coreU).draftOut 1 l = false ∧ (lossy coreU).draftDead 1 l = true ∧ { lossy coreU with linkFail := [(0x140000, 2)] }.draftDead 1 l = false :=
  ⟨_, rfl, by decide +kernel, by decide +kernel, by decide +kernel, by decide +kernel⟩
theorem witness_ounview_service : let s := world { coreX [0x1000] with views := [{ dataView with kind := .service }] }
    ∃ y, (s.core 0).views.find? (fun v => v.base = (s.rx 1#5).toNat) = some y ∧ y.kind = .service := ⟨_, rfl, rfl⟩
/-- Its home gives the task every right. -/
def peerRights (k : Core) : State :=
  let n := 16 * (5 * 2 ^ 29 + 1)
  withYard (peerWorld k) [(n, w0Obj), (n + 5, 7 * 2 ^ 61), (n + 14, 0xF8000000)]
theorem witness_items_cached : (∃ l, GrantedAt (peerRights (objX hPeer 3)) 0 (BitVec.ofNat 64 hPeer) Right.read false false false l) ∧
    ((peerRights (objX hPeer 3)).rx 2#5).toNat = 3 ∧ ∃ l, GrantedAt (world (objX hObj 8)) 0 (BitVec.ofNat 64 hObj) Right.read false false true l :=
  ⟨⟨_, rfl, rfl, fun h => absurd h (by decide), rfl⟩, by decide, ⟨_, rfl, rfl, fun _ => rfl, rfl⟩⟩
/-- The hand-over waits with the list of its issue. -/
def handWaits (kind : WaitKind) (team : Nat) (page : List (Nat × Nat)) : State :=
  let k := waitsAt { coreX [0x1000, 1] with views := [dataView] } kind
  { handing page 1 { k with ct := { k.ct with wait := some ⟨kind, 1#5, 2#5, 3#5, 0, some (handed team)⟩ } } with agent := .unit 0 }
theorem witness_hand_tries :
    HandTries (handing kvPage 1 (coreX [0x1000, 1])) 0 .kvhand 1#5 2#5 3#5 (.kvhand 2#5 1#5 3#5) .kvhandEvent (.kvhand 2#5 1#5 3#5) (handed 1)
      (fun l => (∃ lf, Granted (handing kvPage 1 (coreX [0x1000, 1])) 0 l.flag Right.publish true true lf) ∧
        HandChecks (handing kvPage 1 (coreX [0x1000, 1])) 0 l.pages) ∧
    HandTries (handing kvPage 1 (coreX [0x1000, 1])) 0 .kvtake 1#5 2#5 3#5 (.kvtake 2#5 1#5 3#5) .kvtakeComplete (.kvtake 2#5 1#5 3#5) (handed 1)
      (fun l => (∃ lf, Granted (handing kvPage 1 (coreX [0x1000, 1])) 0 l.flag Right.read true false lf) ∧
        l.team = ((handing kvPage 1 (coreX [0x1000, 1])).principal 0).team) ∧
    ∀ checks, HandTries (handWaits .kvhand 1 kvPage) 0 .kvhand 1#5 2#5 3#5 (.kvhand 2#5 1#5 3#5) .kvhandEvent .kvhandEvent (handed 1) checks ∧
      HandTries (handWaits .kvtake 1 kvPage) 0 .kvtake 1#5 2#5 3#5 (.kvtake 2#5 1#5 3#5) .kvtakeComplete .kvtakeComplete (handed 1) checks := by
  have n : (((handed 1).flag :: (handed 1).pages).map Handle.key).Nodup := by decide
  have r := witness_hand_list 1 (.head _)
  refine ⟨⟨n, .inl ⟨rfl, rfl, by decide, r, ⟨_, rfl, rfl, fun _ => rfl, rfl⟩, witness_kvhand_checks⟩⟩,
    ⟨n, .inl ⟨rfl, rfl, by decide, r, ⟨_, rfl, rfl, fun _ => rfl, rfl⟩, by decide⟩⟩, fun c => ⟨⟨n, .inr ⟨rfl, rfl, _, rfl, rfl, rfl, rfl, rfl⟩⟩,
      ⟨n, .inr ⟨rfl, rfl, _, rfl, rfl, rfl, rfl, rfl⟩⟩⟩⟩
theorem witness_hand_clauses :
    let s := handWaits .kvhand 1 kvPage
    let h := BitVec.ofNat 64 hObj
    let lay := layoutOf 0 (s.entry 1)
    s.entryLocked h = false ∧ s.draftOut 1 lay = false ∧ s.draftLost 1 lay = [] ∧ s.liveRoute 0 = true ∧ s.liveRoute 5 = false ∧
    { s with ylocks := [(1, 1)] }.entryLocked h = true ∧ { s with mem := storing.mem, dirty := storing.dirty }.draftOut 1 lay = true ∧
    { s with mem := storing.mem, linkFail := [(0x140000, 1)], poison := [0x140000] }.draftLost 1 lay = [(0x140000, 1)] ∧
    (s.team 1).isSome = true ∧ s.team 2 = none ∧ (handed 2).team ≠ (s.principal 0).team ∧ (s.flag 3).ult (s.rx 2#5) = false := by decide +kernel
/-- The flag stands at package 5, to which no live route leads. -/
theorem witness_hand_unreached :
    let f := BitVec.ofNat 64 (5 * 2 ^ 41 + hFlag)
    let k := waitsAt (coreX [0x1000, 1]) .kvtake
    let l : HandList := { handed 1 with flag := f }
    let s : State := { world { k with ct := { k.ct with wait := some ⟨.kvtake, 1#5, 2#5, 3#5, 0, some l⟩ } } with agent := .unit 0 }
    ((l.flag :: l.pages).map Handle.key).Nodup ∧ s.entryLocked l.flag = false ∧ s.liveRoute (Handle.home l.flag) = false ∧
      ∃ w, s.waiting 0 .kvtake = some w ∧ w.list = some l := ⟨by decide, by decide, by decide, _, rfl, rfl⟩
theorem witness_ywr_creates : (foreman []).creates 9 0 0x400000000000#64 = true ∧ (foreman []).creates 1 0 (BitVec.ofNat 64 w0Obj) = false ∧
    (foreman []).creates 1 0 (BitVec.ofNat 64 (w0Obj + 3)) = true ∧ (foreman []).creates 9 1 0x400000000000#64 = false ∧ Tbl.sorted (foreman []).flags = true ∧
    (∃ p ∈ ({ foreman [] with domain := [0, 5] } : State).domain, p ≠ (foreman []).pkg) ∧ ∀ p ∈ ({ foreman [] with domain := [0] } : State).domain, p = (foreman []).pkg := by
  decide

/-! ## Witnesses: ring jobs, collectives with a peer -/

/-- A ring job of two tiles at work, whose barrier it holds; its task runs, or stands saved. -/
def ringing (sv : Bool) : State :=
  let j : Job := { ringJob with card := setAt ringJob.card 1 0x2004001000000#64, st := 2 }
  { jobState { coreU with cbOwner := [(0, 1)] } [j] with
    saved := [(1, { cbOwner := [(0, 1)] })]
    crs := [(8, if sv then BitVec.ofNat 64 (2 ^ 32 + 0x1060) else BitVec.ofNat 64 (2 ^ 32 + 0x60))] }
def ringing1 : Job := { ringJob with card := setAt ringJob.card 1 0x2004001000000#64, st := 2 }
theorem witness_ring_tile : ∀ sv ∈ [true, false],
    (ringing sv).jobs.find? (fun x => State.jobUnit x = (ringing sv).unit) = some ringing1 ∧ (ringing sv).jobHeld ringing1 = false ∧
    (ringing sv).passed ringing1 = true ∧ ringing1.bmode ≠ 0 ∧ ringing1.tdone + 1 ≠ ringing1.nt ∧ (ringing sv).crSv ringing1.crid = sv ∧
    tileEnd (fun e => match e with
      | .wrote s1 => decide (s1.jobs = [ringing1]) && !s1.ringGone ringing1 && s1.crSv ringing1.crid == sv
      | _ => false) (ringing sv) ringing1 = true := by decide +kernel
/-- Collective 1 has stored its result, of which a part is on its way to a peer; or parts have been lost. -/
theorem witness_collective_put : let b := contribution 5
    let s := collecting (some b) [0] [(0, b)]
    let k : Coll := { coll1 with own := some b, put := some 16 }
    let l := layoutOf 0 (s.entry 6)
    k.put = some 16 ∧ k.dstGone = false ∧ k.status = none ∧ s.claimHeld k.claim = false ∧ s.draftOut 6 l = false ∧ s.draftLost 6 l = [] ∧
      { s with dirty := [.sector 0x140000] }.draftOut 6 l = true ∧
      { s with linkFail := [(0x140000, 1)], poison := [0x140000] }.draftLost 6 l = [(0x140000, 1)] := by decide +kernel
/-- The result is stored while an earlier store to the draft is on its way, or not. -/
def resultOut (dirty : List Dirty) : Option Bool :=
  let b := contribution 5
  let s := { collecting (some b) [0] [(0, b)] with dirty := dirty }
  let l := layoutOf 0 (s.entry 6)
  let els := [(({ elem := 0, t := [0, 0, 0, 0, 0], val := some 1 } : StEl), clPlace [0]), ({ elem := 0, t := [1, 0, 0, 0, 0], val := some 2 }, clPlace [1])]
  (s.ownPages ((s.pagesOf coll1.dst l .draft els []).map fun p => (6, p))).map fun s1 =>
    (s1.putEls coll1.dst l .draft els []).draftOut 6 l
theorem witness_collective_result : resultOut [] = some false ∧ resultOut [.sector 0x140000] = some true ∧
    (collecting none [0] []).scalesLocked coll1.dst (layoutOf 0 ((collecting none [0] []).entry 6)) .draft [] = false := by decide +kernel
theorem witness_collective_timeout : let b := contribution 5
    let s := collecting (some b) [0, 1] [(0, b)]
    let k : Coll := { coll1 with own := some b, members := [0, 1] }
    let f : Foot := { key := 6, ver := 0, w := true, lo := [0, 0, 0, 0, 0], hi := [1, 0, 0, 0, 0] }
    k.own.isSome = true ∧ s.allArrived k = false ∧ k.start + s.regN (0x7000 + 8 * k.io) ≤ { s with pcc := 2 ^ 32 }.pcc ∧ k ∈ s.colls ∧
      (let q : Coll := { coll1 with foot := [f], ord := 2, cid := 2 }
       { s with colls := [{ coll1 with foot := [f] }, q] }.claimHeld q.claim = true ∧ q.own = none) := by decide +kernel

/-! ## Witnesses: descriptors kept, live depth, the seed, words whose object is gone -/

theorem witness_load_desc : (rank2 (framed [] (boundTo coreU))).loadDesc 0 st0 = (boundTo coreU).desc 0 := by decide +kernel
theorem witness_live_pending : let k : Core := { coreU with livePend := some 3#5, live := 0#5, v := [(17, List.replicate 1024 1#32)] }
    k.livePend = some 3#5 ∧ k.setLive.live = 3#5 := by decide
theorem witness_bank_wakes : bankSt { coreU with bankV := [.awake, .waking 160 false] } 0 1 = .waking 160 false ∧
    bankSt { coreU with bankA := setAt (List.replicate 16 .awake) 15 (.waking 7 true) } 2 15 = .waking 7 true := by decide
/-- MOCOLL.DRAW of a seed whose element 0 is poisoned and not active. -/
theorem witness_moment_seed :
    let k : Core := { coreU with vPois := [512], p := [(1, 2#1024)] }
    let f := { vr0 with b := 1#5, sub := 3#4, pm := 1#4, me := true }
    let F : VForm := { d := .v, a := .m, b := .v, bi := true, subUsed := true, subMax := 3, strict := true }
    seedPoisoned k f { a := true, seed := true } (k.activeList f.me f.pm.toNat true) = true ∧ F.illop f = none ∧ k.cold F f = false := by decide +kernel
theorem witness_matrix_range : MmUse.breaks { slots := true, sb := true, pl := true, sub := 1, subNum := true } { mm0 with sub := 2#4 } = false ∧
    1 < ({ mm0 with sub := 2#4 }).sub.toNat ∧ (arrayAbsent (stamped 64 coreU) 0 mm0 = false) := by decide
/-- The descriptor is bound to an object that is no more: a drain, a Bench word and a store of rows find it so. -/
def gone (k : Core) : State :=
  atWord .dr { k with sd := [(0, [0x6F00#64, BitVec.ofNat 64 (2 ^ 5 + nth 0 image1 1), 0#64, 0#64, 0#64, 0#64, 0#64, 0#64])] }
theorem witness_drain_gone :
    let s := gone coreU
    let d := (s.core 0).desc 0
    drainIllop .plain (drainW false) = none ∧ Desc.handle d ≠ 0#64 ∧ s.walkReady (s.principal 0) (Desc.handle d) = true ∧
      hit (fun _ => true) (s.lookup (s.principal 0) (Desc.handle d)) = false ∧ Desc.tr d ≤ 16 ∧ Desc.tc d ≤ 64 ∧
      (match drainResult .plain (drainW false) false { valid := true } {} 0 ((destCells d none).map fun e => (64 * e.1 + e.2.1, e.2.2)) with
        | .inr _ => true
        | .inl _ => false) = true := by decide +kernel
/-- The Bench object is not of this die. -/
theorem witness_bench_elsewhere :
    let s := benching coreU
    hit (fun l => l.bench && s.benchHere (s.principal 0) l && !s.benchHere { s.principal 0 with die := some 7 } l)
      (s.lookup (s.principal 0) (Desc.handle ((s.core 0).desc 0))) = true := by decide +kernel

/-! ## Witnesses: moves between queues, waiting pre-emptions, task images -/

def packaged : State := { world {} with queues := [(136, { head := [qe none], seq := 1 })] }
/-- The queue of die 1, all of whose clusters are degraded, has an entry. -/
def stranded : State :=
  { world {} with queues := [(129, { head := [qe none], seq := 1 })], clusters := (List.range 16).map fun n => (16 + n, { degr := true }) }
theorem witness_move_next : packaged.moveNext = some (136, qe none) ∧ packaged.moveDie (qe none) ≠ none ∧ (world {}).moveNext = none ∧
    stranded.moveNext = some (129, qe none) ∧ stranded.healthy 1 = 0 ∧ stranded.healthy 0 ≠ 0 := by decide +kernel
theorem witness_degraded_moves :
    let q : Queue := { head := [{ qe none with seq := 4 }], ring := [{ qe none with seq := 5 }], seq := 6 }
    let s : State := { world {} with agent := .unit 0, clusters := [(0, { degr := true, degrSeq := 4 })], queues := [(0, q)] }
    (s.cluster 0).degr = true ∧ 0 < s.qCount 0 ∧ (∃ f ∈ q.head, (s.cluster 0).degrSeq ≤ f.seq) ∧ ({ qe none with seq := 3 }).seq < (s.cluster 0).degrSeq := by decide
theorem witness_launch_locked : { listing {} with ylocks := [(1, 1)] }.entryLocked eLaunch.w1 = true ∧ (listing {}).entryLocked eLaunch.w1 = false := by decide
/-- PREEMPT with WAIT stands while its pre-emption, of number 5, is under way. -/
theorem witness_preempt_waits : let h : ClHold := { entry := ePreempt, start := 0, made := [1], team := 5 }
    let p : Preempt := { num := 5, team := 1, crids := [1], left := [1], method := 0, expiry := 9, die := 0 }
    h.made ≠ [] ∧ (∃ q ∈ { victimState coreU with preempts := [p] }.preempts, q.num = h.team) ∧ ∀ q ∈ (victimState coreU).preempts, q.num ≠ h.team := by decide
theorem witness_preempt_left :
    (preempting 0 .running).remainingMembers { num := 0, team := 1, crids := [1], left := [1], method := 0, expiry := 0, die := 0 } = [1] ∧
    (world {}).remainingMembers { num := 0, team := 1, crids := [1], left := [1], method := 0, expiry := 0, die := 0 } = [] := by decide

/-! ## Witnesses: a peer's window, ports and messages -/

/-- A live port leads to package 5. -/
def linked : State := { plain 3 with domain := [0, 5], ports := [(0, { st := 2 })], regs := [(0x20000 + 4 * 5, 1#64)] }
theorem witness_pa_peer : linked.hartPlace (2 ^ 55 + 5 * 2 ^ 44 + 0x70000000008) 8 = some ⟨some 5, .regs 8, 2 ^ 55 + 5 * 2 ^ 44 + 0x70000000008, true⟩ ∧
    ((0x18, 64) ∈ ([(0x18, 64), (0x7000, 32)] : List (Nat × Nat))) ∧ 0x100 + 8 * 15 = 0x178 ∧ linked.pageLocked (2 ^ 55 + 5 * 2 ^ 44 + 0x70000000008) = false := by
  decide +kernel
/-- Two flits unacknowledged, of channels 0 and 2, of which the second is stopped; a NAK finds them, after this many replays. -/
def naked (n : Nat) (stop : Bool) : Port :=
  { portLive [flitOf 1 0 6 0 [], flitOf 1 2 7 0 []] with replays := n, xoffTx := [false, false, stop, false] }
theorem witness_nak : let f := flitOf 2 0 7 5 []
    Flit.good f = true ∧ ∀ n ∈ [0, 8], ∀ b ∈ [true, false],
      let k1 := ({ (atPort (naked n b)).port 3 with lastGood := 5000 } : Port).takeAck 5000 (Flit.ack f)
      k1.unacked = (naked n b).unacked ∧ k1.replays = n ∧ k1.waitq = [] ∧ nth false k1.xoffTx 2 = b ∧ nth false k1.xoffTx 0 = false := by decide +kernel
theorem witness_port_late : let s := atPort (naked 7 true)
    (s.port 3).st = 2 ∧ (s.port 3).unacked ≠ [] ∧ (s.port 3).lastAck + 4096 ≤ s.pcc ∧ (s.port 3).replays < 8 ∧
      ({ naked 1 true with resend := [flitOf 1 2 7 0 []] } : Port).resend = flitOf 1 2 7 0 [] :: [] ∧ nth false (naked 1 true).xoffTx (Flit.vc (flitOf 1 2 7 0 [])) = true ∧
      ((atPort { st := 1, first := true }).port 3).first = true ∧ ({ st := 1, first := false } : Port).first = false ∧
      (s.port 3).lastGood + 2 ^ 20 ≤ { s with pcc := 2 ^ 20 }.pcc := by decide +kernel
theorem witness_message_ways :
    let y := fun (op : Nat) => Msg.build 5 0 5 9 op (leBytes 8 (5 * 2 ^ 29 + 1))
    Msg.dst (Msg.build 3 7 5 9 64 []) = 7 ∧ (plain 3).pkg = 0 ∧ (plain 3).routePort 0 7 = none ∧ linked.routePort 0 5 = some 0 ∧
      [Msg.second (y 0), Msg.second (y 2), Msg.second (y 4), Msg.second (y 5)] = [0, 2, 4, 5] ∧ (Msg.src (y 2), Msg.tid (y 2)) ∉ (plain 3).applied ∧
      { foreman [] with plocks := [(0x120000, 1, 0)] }.pageLocked 64 = true ∧ (foreman []).pageLocked 64 = false := by decide +kernel

/-! ## Witnesses: reads over the links, entries that are locked -/

/-- A live port; the next instruction of core 0 stands in a view of package 5. -/
def ctAway : State :=
  let v : View := { dataView with back := .phys (2 ^ 55 + 5 * 2 ^ 44 + 0x1000) }
  { turnOf (atCt { coreU with ct := { pc := 0x1000#64 }, views := [v] }) (.seq 0 .ct) with ports := [(0, { st := 2 })], domain := [0, 5] }
theorem witness_step_here :
    AllHere (ctFetches.turnTo (.seq 0 .ct) []) ((ctFetches.turnTo (.seq 0 .ct) []).turnReader (.seq 0 .ct)) ∧
    (let s1 := (ctFetches.turnTo (.seq 0 .ct) []).readsDone ((ctFetches.turnTo (.seq 0 .ct) []).turnReader (.seq 0 .ct))
     s1.ctMoves 0 = true ∧ deadlineDue s1 0 = false ∧ s1.serviceDue 0 = false ∧
       s1.fetch 0 (ctFetches.core 0).ct.pc.toNat 4 = some [0#8, 0#8, 0#8, 0#8]) ∧
    AllHere ((atCt coreU).happenAt 0 []) (((atCt coreU).happenAt 0 []).rowReader 0 .wfi) :=
  ⟨fun x h => Option.some.inj h ▸ rfl, by decide +kernel, fun x h => nomatch (show (none : Option (Reader × (Unit → List Nat))) = some x from h)⟩
theorem witness_step_away :
    (∃ x, (ctAway.turnTo (.seq 0 .ct) []).turnReader (.seq 0 .ct) = some x ∧ (ctAway.turnTo (.seq 0 .ct) []).lacks x.1 x.2 ≠ []) ∧
    let s : State := { loading (load1 0) with
      agenda := [(0, .feLoadResolve)], ports := [(0, { st := 2 })], domain := [0, 5], regs := [(0x10, 8#64), (0x20, 0x2F00#64), (0x20000 + 4 * 5, 1#64)]
      mem := cells 0x100000 [1, 0x110000] ++ cells 0x110000 [0x120000] ++ cells 0x120000 [2 ^ 55 + 5 * 2 ^ 44 + 0x130001] }
    ∃ x, (s.happenAt 0 []).rowReader 0 .feLoadResolve = some x ∧ (s.happenAt 0 []).lacks x.1 x.2 ≠ [] :=
  ⟨⟨_, rfl, by decide +kernel⟩, _, rfl, by decide +kernel⟩
theorem witness_clock_reset : ∀ b ∈ [true, false], let s : State := { State.reset with inReset := b }
    s.agenda = [] ∧ s.retiring = none ∧ s.turns = [] ∧ s.inReset = b := fun _ _ => ⟨rfl, rfl, rfl, rfl⟩
/-- The page at 0 is locked, and the store of core 0 goes there. -/
theorem witness_store_locked :
    let s : State := { atCt { coreU with views := [dataView] } with plocks := [(0x120000, 1, 0)] }
    ∃ ks, s.translate 0 0x1000 8 2 = .ok ks ∧ ∃ k ∈ ks, s.pageLocked k = true := ⟨_, rfl, _, .head _, by decide +kernel⟩
theorem witness_store_published :
    let v : View := { dataView with back := .version 1 (BitVec.ofNat 64 hObj) 1, w := false }
    let s : State := { world { coreX [0x1000] with views := [v], storeHeld := some 4 } with pcc := 5 }
    s.viewHeld 0 0x1000 8 2 = false ∧ (∃ w, (s.core 0).storeHeld = some w ∧ w + 1 = s.pcc) ∧
      s.translate 0 0x1000 8 2 = .bad ⟨FCode.rights, 2⟩ := ⟨rfl, ⟨4, rfl, rfl⟩, rfl⟩

/-! ## Witnesses: the failure of a task, entries of a fork's table -/

theorem witness_fail_task : ∀ quiet ∈ [true, false],
    let s := atCt { coreU with ct := { sup := true }, forkOut := !quiet, fe := { ended := quiet, inSec := !quiet, hdr := BitVec.ofNat 64 (3 * 2 ^ 50) } }
    (s.core 0).ct.sup = true ∧ s.quietNow 0 = quiet := by decide
theorem witness_fail_ends : ∀ l ∈ [[], [flight1]],
    let s : State := { worldAt { waitsAt coreU .texit with failed := some (1, 0), forkOut := true, loads := l } with pcc := 1 }
    ∃ w, s.waiting 0 .texit = some w ∧ w.since < s.pcc ∧ (s.core 0).failed = some (1, 0) ∧ (s.core 0).flying = !l.isEmpty := by
  intro l h
  simp only [List.mem_cons, List.not_mem_nil, or_false] at h
  rcases h with rfl | rfl <;> exact ⟨_, rfl, by decide, rfl, rfl⟩
/-- The table's first entry is good, and the second is misaligned; or stands outside every view; or in a view whose object's entry is locked. -/
def forkTable (n : Nat) : State :=
  let v : View := { dataView with base := 0x1008, back := .draft 1 (BitVec.ofNat 64 hObj), kind := .made }
  let s := claimed { coreX [0x1000] with views := { dataView with size := if n = 0 then 0x1000 else 8 } :: if n = 2 then [v] else [] }
  { s with mem := cells 0x1000 [4, 2] ++ tables, ylocks := if n = 2 then [(1, 1)] else [] }
theorem witness_fork_entries :
    (∀ n < 3, (forkTable n).viewHeld 0 0x1000 8 1 = false ∧ hit (fun bs => leNat bs == 4) ((forkTable n).viewLoad 0 0x1000 8) = true) ∧
    (∀ n < 2, (forkTable n).viewHeld 0 0x1008 8 1 = false) ∧ hit (fun bs => leNat bs % 4 == 2) ((forkTable 0).viewLoad 0 0x1008 8) = true ∧
    hit (fun _ => true) ((forkTable 1).viewLoad 0 0x1008 8) = false ∧ (forkTable 2).viewHeld 0 0x1008 8 1 = true ∧
    (∀ n < 3, ((forkTable n).rx 1#5).toNat = 0x1000 ∧ ((forkTable n).core 0).forkOut = false) := by decide +kernel

/-! ## Witnesses: images that wait, continuations of a team, yields and joins under a pre-emption -/

/-- Task 1 runs, and what stands at 0x1000 is in the draft of object 1, whose entry is locked. -/
def heldView (k : Core) : State :=
  let s := claimed { k with views := [{ dataView with back := .draft 1 (BitVec.ofNat 64 hObj), kind := .made }] }
  { s with ylocks := [(1, 1)], crs := [(8, 0x60#64), (14, 0xF0000000#64)] }
theorem witness_images_held : ∀ n ∈ [16, 32, 64, 96, 128], (heldView (coreX [0x1000])).viewHeld 0 0x1000 n 1 = true ∧
    ((heldView (coreX [0x1000])).core 0).ct.sup = false ∧ ((heldView (coreX [0x1000])).rx 1#5).toNat % 64 = 0 ∧ ((heldView (coreX [0x1000])).core 0).cont = 0 ∧
    (imageIn (coreX [0x1000])).viewHeld 0 0x1000 n 1 = false := by decide +kernel
theorem witness_tcont_team :
    let s : State := { imageIn (coreX [0x1000]) with teams := (teamed coreU 2 false).teams }
    ∃ m, s.team (s.teamOf (s.core 0).crid) = some m ∧ m.id = s.teamOf (s.core 0).crid ∧
      (m.members.find? fun x => x.crid = (s.core 0).crid).map Member.rank = some 0 := ⟨_, rfl, by decide, by decide⟩
theorem witness_tcont_alone : (imageIn (coreX [0x1000])).team ((imageIn (coreX [0x1000])).teamOf ((imageIn (coreX [0x1000])).core 0).crid) = none ∧
    (running (coreX [0x1000])).viewHeld 0 0x1000 64 1 = false ∧ hit (fun _ => true) ((running (coreX [0x1000])).viewLoad 0 0x1000 64) = false := by
  decide +kernel
theorem witness_yield_under : 
    (∃ p ∈ (preempting 0 .running).preempts, ∃ x ∈ p.left, x ∈ (preempting 0 .running).gangOf ((preempting 0 .running).core 0).crid) ∧
      ∀ p ∈ (running coreU).preempts, ∀ x ∈ p.left, x ∉ (running coreU).gangOf ((running coreU).core 0).crid :=
  ⟨⟨_, .head _, 1, .head _, by decide⟩, by decide⟩
/-- Task 1, in no team, runs beside team 1, whose one member, task 2, runs on core 1 or stops there. -/
def joinStop (stop : Bool) : State :=
  let s := joinable (coreX [1]) 2
  { s with
    crs := s.crs ++ [(16, if stop then 0x80#64 else 0x60#64)]
    cores := s.cores ++ [(1, { crid := 2, phase := if stop then .stopping false else .running })]
    preempts := if stop then [{ num := 0, team := 1, crids := [2], left := [2], method := 2, expiry := 0, die := 0 }] else [] }
theorem witness_join_stop : ∀ b ∈ [true, false], ∃ m, (joinStop b).team 1 = some m ∧ m.id = 1 ∧ (joinStop b).teamStopped m = b ∧
    ((joinStop b).core 0).phase = .running ∧ ((joinStop b).core 0).failed = none ∧ (joinStop b).teamOf 1 = 0 := by
  intro b h
  simp only [List.mem_cons, List.not_mem_nil, or_false] at h
  rcases h with rfl | rfl <;> exact ⟨_, rfl, rfl, by decide +kernel, rfl, rfl, by decide⟩

/-! ## Witnesses: the Yard at the release, pages that move, hand-over page by page -/

theorem witness_ywr_seen :
    let s : State := { foreman [0x1004] with ylocks := [(1, 1)], seen := [(1, (foreman []).entry 1)] }
    s.holdsLock 1 1 = true ∧ (Tbl.find s.seen 1).isSome = true ∧ s.selectorBad 0x1004#64 = false := by decide
/-- Hart 1 commits a page of which a collective had lost a sector while no frame was named; stores from outside wait for the lock. -/
theorem witness_commit_held :
    let s : State := { foreman [0x120000, 0x140001] with
      plocks := [(0x120000, 1, 0x130000)], lostSecs := [(0x120000, 3)], linkHeld := [(0x130040, 3, [])], cxlHeld := [(0x130080, [1#8])] }
    s.holdsPage 1 0x120000 = true ∧ State.pteOk 0x140001 = true ∧ State.pteFrame 0x140001 = some 0x140000 ∧ s.MemOk ∧
      (∃ e ∈ s.lostSecs, e.1 = 0x120000) ∧ s.num 0x120000 8 = 0x130001 := ⟨by decide, by decide, by decide, rfl, ⟨_, .head _, rfl⟩, by decide⟩
/-- The pages of a KVHAND: one handed over, one without its claim, one of another team, one beyond every route. -/
theorem witness_hands_over :
    let s := handWaits .kvhand 1 kvPage
    HandsOver s 0 (BitVec.ofNat 64 hObj) ∧ ¬ HandsOver (withYard s [(25, 0)]) 0 (BitVec.ofNat 64 hObj) ∧
      ¬ HandsOver (withYard s [(30, 0xFB000002)]) 0 (BitVec.ofNat 64 hObj) ∧ ¬ HandsOver s 0 (BitVec.ofNat 64 hPeer) :=
  ⟨⟨rfl, by decide +kernel, by decide +kernel, by decide +kernel, by decide +kernel⟩, fun h => absurd h.2.1 (by decide +kernel),
    fun h => absurd h.2.2.2.2 (by decide +kernel), fun h => absurd h.1 (by decide)⟩
/-- The pages of a KVTAKE: one taken; of no entry; beyond every route, cached or not; of another team; with a full pin count; one that may not be
read. -/
theorem witness_takes :
    let s := handWaits .kvtake 1 kvPage
    let h := BitVec.ofNat 64 hObj
    let reads := fun (s : State) => hit (fun l => (s.checkRights (s.principal 0) h l Right.read false).isNone) (s.lookup (s.principal 0) h)
    Takes s 0 h ∧ hit (fun _ => true) (s.lookup (s.principal 0) 0x6F00#64) = false ∧ s.liveRoute (Handle.home (BitVec.ofNat 64 hPeer)) = false ∧
      (match ({ peerWorld coreU with hcache := [] }).lookup ((peerWorld coreU).principal 0) (BitVec.ofNat 64 hPeer) with | .bad f => f.code == FCode.linkdead | .ok _ => false) = true ∧
      hit (fun _ => true) ((peerWorld coreU).lookup ((peerWorld coreU).principal 0) (BitVec.ofNat 64 hPeer)) = true ∧
      ¬ OwnedBy (withYard s [(30, 0xFB000002)]) 1 1 ∧ OwnedBy s 1 (s.principal 0).team ∧ (handWaits .kvtake 1 kvFull).pinOf 1 3 = 2 ^ 32 - 1 ∧
      reads s = true ∧ reads (withYard s [(30, 0x83000001)]) = false :=
  ⟨⟨_, rfl, rfl, ⟨by decide +kernel, by decide +kernel, by decide +kernel⟩, by decide +kernel, by decide +kernel⟩, by decide +kernel, by decide, by decide +kernel, by decide +kernel,
    fun h => absurd h.2.2 (by decide +kernel), ⟨by decide +kernel, by decide +kernel, by decide +kernel⟩, by decide +kernel, by decide +kernel, by decide +kernel⟩

/-! ## Witnesses: the die's table of jobs, a collective's timer -/

theorem witness_cjob_die : (((copying coreU).jobsOf 1).filter fun (x : Job) => x.die = 0).length < 16 ∧
    16 ≤ (({ copying coreU with jobs := List.replicate 16 job1 }.jobsOf 1).filter fun (x : Job) => x.die = 0).length ∧
    (({ copying coreU with jobs := List.replicate 16 { job1 with die := 1 } }.jobsOf 1).filter fun (x : Job) => x.die = 0).length < 16 := by decide
/-- The timer of collective 1 finds its own contribution not read: because another claim holds it; or it is read now, and another's wants. -/
theorem witness_collective_due :
    let s := { collecting none [0, 1] [] with pcc := 2 ^ 32 }
    (∃ k, s.colls.find? (fun c => c.cid = s.unit) = some k ∧ k.status = none ∧ k.own = none ∧ s.claimHeld k.claim = false) ∧
    (∃ k, (s.contribute { coll1 with members := [0, 1] }).colls.find? (fun c => c.cid = (s.contribute { coll1 with members := [0, 1] }).unit) = some k ∧
      k.status = none ∧ (s.contribute { coll1 with members := [0, 1] }).allArrived k = false ∧
      k.start + (s.contribute { coll1 with members := [0, 1] }).regN (0x7000 + 8 * k.io) ≤ (s.contribute { coll1 with members := [0, 1] }).pcc) :=
  ⟨⟨_, rfl, rfl, rfl, by decide +kernel⟩, _, rfl, rfl, by decide +kernel, by decide +kernel⟩

/-! ## Witnesses: engine words -/

theorem witness_guard_illop : guardBreaks ⟨true, false, 3#4, 1#2⟩ = true ∧ nth 0#2 (setAt (List.replicate 16 0#2) 3 2#2) 3 ≠ 0#2 ∧
    (((atWord .dr coreU).core 0).eng .dr).hold ≠ .estop := by decide
theorem witness_sbind_ready :
    let s := rank2 (framed image1 coreU)
    let l := framed [hObj, 2 ^ 32 * 5 + 64 * 2 ^ 16, 0, 0] coreU
    s.entryLocked (BitVec.ofNat 64 hObj) = false ∧ hit (fun _ => true) (s.lookupHome (s.principal 0) (BitVec.ofNat 64 hObj)) = true ∧
      s.viewHeld 0 0x1000 64 1 = false ∧ l.viewHeld 0 0x1000 32 1 = false ∧
      hit (fun _ => true) (l.lookupHome (l.principal 0) (BitVec.ofNat 64 hObj)) = true := by decide +kernel
/-- The image stands in the draft of object 1, whose entry is locked. -/
theorem witness_sbind_held : ∀ b ∈ [64, 32],
    let v : View := { dataView with back := .draft 1 (BitVec.ofNat 64 hObj), kind := .frame }
    let s : State := { claimed coreU with ylocks := [(1, 1)], cores := [(0, { coreU with views := [v] })] }
    (s.core 0).frame = some v ∧ s.viewHeld 0 (v.base + v.size - 64) b 1 = true := by decide +kernel
/-- A word struck in Bivouac, of the bank that wakes and of another. -/
theorem witness_bank_upsets :
    let s : State := { agent := .unit 0, sleepUps := [{ at_ := .vec 0 0, fixed := false }] }
    (∃ x ∈ s.sleepUps, State.upsetBank x.at_ = some (0, 0, 0)) ∧ ∀ x ∈ s.sleepUps, State.upsetBank x.at_ ≠ some (0, 0, 3) := by
  exact ⟨⟨_, .head _, by decide⟩, by decide⟩

/-! ## Witnesses: commands issued again, drains and stores whose object is gone, KVAPP -/

theorem witness_matrix_again :
    let k : Core := { coreU with ma := { cmds := [0] } }
    ((stamped 64 k).core 0).ma.redo = [] ∧ ((stamped 64 k).core 0).ma.slot ∈ ((stamped 64 k).core 0).ma.cmds ∧
      ((stamped 64 coreU).core 0).ma.slot ∉ ((stamped 64 coreU).core 0).ma.cmds := by decide
/-- Register 0 is rotated into a bank that sleeps. -/
theorem witness_dstsc_cold : ({ coreU with bankV := List.replicate 8 .asleep } : Core).awakeV 0 = false ∧ coreU.awakeV 0 = true := by decide
/-- The object of the descriptor is no more: the slot's tags are the descriptor's, or break the shape; its elements are clean, or one is poisoned. -/
theorem witness_dstore_gone :
    let s := gone { coreU with slots := [(0, raw22)] }
    let d := (s.core 0).desc 0
    Desc.handle d ≠ 0#64 ∧ s.walkReady (s.principal 0) (Desc.handle d) = true ∧ hit (fun _ => true) (s.lookup (s.principal 0) (Desc.handle d)) = false ∧
      destVer s 0 d none = none ∧ raw22.tr = Desc.tr d ∧ raw22.tc = Desc.tc d ∧ destShape d raw22.fmt none raw22.tr raw22.tc = false ∧
      (destCells d none).all (fun e => !slotPois raw22 raw22.fmt 4 (2 * e.1 + e.2.1)) = true ∧
      slotPois { raw22 with poison := [0] } raw22.fmt 4 0 = true ∧
      (rawSlot 1 2 4 [1, 2, 3, 4, 5, 6, 7, 8] []).tc ≠ Desc.tc d ∧ isMx (rawSlot 0x20 2 2 [1, 2, 3, 4] []).fmt = true ∧
      destVer s 0 [0x6F00#64, BitVec.ofNat 64 (2 ^ 32 + nth 0 image1 1), 0#64, 0#64, 0#64, 0#64, 0#64, 0#64] none ≠ none := by decide +kernel
theorem witness_drain_shape : let d := ((gone coreU).core 0).desc 0
    destShape d 1 none (Desc.tr d) (Desc.tc d) = false ∧ destShape d 0x20 none (Desc.tr d) (Desc.tc d) = true := by decide +kernel
/-- A draft discarded, one published, a descriptor of a version; a page of another format. -/
theorem witness_kvapp_refused :
    let d := fun (w1 : Nat) => [BitVec.ofNat 64 hObj, BitVec.ofNat 64 (w1 + 2 ^ 13 + 2 ^ 6), 0#64, 0#64, 0#64, 0#64, 0#64, 0#64]
    Desc.gone (d 1) = true ∧ Desc.gone (d (2 ^ 5)) = false ∧ Desc.published (d (2 ^ 5)) = false ∧ Desc.draft (d (2 ^ 5)) = true ∧ Desc.draft (d 0) = false ∧
      hit (fun l => l.fmt == 0x11) ((appending coreU 3).lookup ((appending coreU 3).principal 0) (BitVec.ofNat 64 hObj)) = true ∧
      fmtListed 0x20 = true := by decide +kernel
/-- The same page whose word counts `w`, in the apply step. -/
def kvWord (w : Nat) : State :=
  let s := stored (.token 0 (List.replicate 128 0x3F800000)) (appending coreU 3) (draftDesc (2 ^ 13 + 2 ^ 6))
  { s with mem := putBytes s.mem (0x140000 + 256 * 64) (leBytes 8 w) }
theorem witness_kvapp_word :
    (∀ w ∈ [64, 65, 63, 2 ^ 9], (kvWord w).num (0x140000 + 256 * 64) 8 = w) ∧
    { kvWord 0 with poison := [0x140000 + 256 * 64] }.poisoned (0x140000 + 256 * 64) 8 = true ∧
    { kvWord 0 with plocks := [(0x160000, 1, 0x140000)] }.pageLocked 0x140000 = true := by decide +kernel
/-- A page of FP8 blocks with one token, where the scale of a block begun before is poisoned, or is not. -/
theorem witness_kvapp_poison :
    let s0 := appending coreU 3
    let s := stored (.token 0 (List.replicate 128 0x3F800000))
      { s0 with yard := Tbl.put s0.yard 16 (BitVec.ofNat 64 (0x20 * 2 ^ 56 + 3 * 2 ^ 53 + 2 ^ 46 + 3 * 2 ^ 32)), mem := putBytes s0.mem (0x140000 + 132 * 64) (leBytes 8 1) }
      (draftDesc (2 ^ 13 + 2 ^ 6))
    let h := BitVec.ofNat 64 hObj
    let at_ := fun (l : Layout) (e : List Nat × Bool) => match s.kvPlace (s.principal 0) h l .draft e with
      | .ok p => some p
      | .bad _ => none
    hit (fun l => (State.kvCells l 1).all (fun e => (at_ l e).isSome) && (s.kvStores (at_ l) l 0 (List.replicate 128 0x3F800000) 1 false).isSome &&
        match at_ l ([0, 1, 0, 0, 0], true) with
        | none => false
        | some p => (({ s with poison := [p.key / 32 * 32] }).kvStores (at_ l) l 0 (List.replicate 128 0x3F800000) 1 false).isNone)
      (s.lookup (s.principal 0) h) = true := by decide +kernel

/-! ## Witnesses: pops, tasks whose frame's entry is locked, yields under a pre-emption, victims -/

/-- A late entry stands beside a timely one in the cluster queue, at QPOP `n`. -/
def lateQ (n : Nat) : State :=
  { popping {} 0 with
    queues := [(0, { head := [{ qe none with crid := 3, seq := 1 }, qe (some 0)], seq := 2 })]
    crs := (popping {} 0).crs ++ [(24, BitVec.ofNat 64 (2 ^ 32 + 2 * 2 ^ 14 + 0x40)), (25, 0x1F00#64)]
    regs := (popping {} 0).regs ++ [(0x1018, BitVec.ofNat 64 n)] }
theorem witness_pop_late : (lateQ 7).qPop 0 = 7 ∧ (lateQ 6).qPop 0 = 6 ∧ (lateQ 7).popFrom 0 0 = some (qe (some 0)) ∧
    (lateQ 6).popFrom 0 0 = some { qe none with crid := 3, seq := 1 } := by decide
/-- The entry of the task's frame is locked. -/
theorem witness_frame_ready : ∀ b ∈ [true, false],
    let s : State := { starting true with
      crs := [(8, BitVec.ofNat 64 (2 ^ 32 + 0x1060)), (9, BitVec.ofNat 64 hObj)], ylocks := if b then [] else [(1, 1)] }
    s.frameReady 0 = b ∧ s.crSv 1 = true ∧ 32 ≤ s.pcc := by decide
theorem witness_wait_under :
    let s := { preempting 0 .running with cores := [(0, waitsAt coreU .osub)], pcc := 5000 }
    (s.core 0).phase = .running ∧ (∃ p ∈ s.preempts, ∃ m ∈ p.left, m ∈ s.gangOf (s.core 0).crid) ∧ s.pcc > 0 + 4096 :=
  ⟨rfl, ⟨_, .head _, 1, .head _, by decide⟩, by decide⟩
theorem witness_deadline_again :
    let k : Core := { coreU with ct := { fault := { v := true, code := 9#8 } } }
    k.ct.fault.v = true ∧ k.ct.sup = false ∧ { k.ct.fault with more := true }.code = 9#8 := by decide
/-- PREEMPT of team id 0 on die 0 finds the task that runs there, and none where its class must not be pre-empted. -/
theorem witness_victim_any : ∀ b ∈ [true, false],
    let e := entry 8 100 10 0
    let s : State := { listing {} with regs := if b then [(0x10, 8#64), (0x20, 0x2F00#64)] else [(0x10, 8#64), (0x20, 0x2F00#64), (0x100, 2#64)] }
    fld e.w0 48 16 = 0 ∧ s.victim e = (if b then some [1] else none) := by decide

/-! ## Witnesses: walks of the resolver, masks, messages, the host -/

/-- The set of entry 1 is full of lines of cluster 0, of which the second has been used least recently. -/
def fullSet : State :=
  let line := fun (n : Nat) => 128 * (1 + 2 ^ 9 * n)
  { worldAt {} with hcache := (List.range 8).map fun n => (line (n + 1), []), hused := [line 2, line 1, line 3, line 4, line 5, line 6, line 7, line 8] }
theorem witness_full_set :
    let set_ := fun (k : Nat) => (k % 2 ^ 9) ^^^ (k / 2 ^ 29 % 2 ^ 9)
    let rival := fun (k : Nat) => k % 128 == 0 && set_ (k / 128) == set_ 1 && k != 128
    Tbl.sorted fullSet.hcache = true ∧ (fullSet.hcache.filter fun e => rival e.1).length = 8 ∧ ((worldAt {}).hcache.filter fun e => rival e.1).length < 8 ∧
      fullSet.hused = [] ++ 128 * (1 + 2 ^ 10) :: fullSet.hused.drop 1 ∧ rival (128 * (1 + 2 ^ 10)) = true ∧
      (Tbl.find fullSet.hcache (128 * (1 + 2 ^ 10))).isSome = true := by decide
/-- Messages for places of storage, of the register window, and of none; a reader's sector that it has asked for, of storage or of registers. -/
theorem witness_message_places :
    let s := linked
    let at_ := fun (pa : Nat) => paRef s (paKeyAt s s.pkg (pa / 32 * 32))
    (at_ 64).map (·.kind) = some .hbm ∧ (at_ 0x70000000008).map (·.kind) = some (.regs 0) ∧ (at_ 0x0C000000000) = none ∧
      (at_ 0x70000020004).map (·.kind) = some (.regs 0x20000) ∧ s.pageLocked (paKeyAt s s.pkg 64) = false ∧
      Msg.dst (Msg.build 1 0 5 9 64 []) = s.pkg ∧ { s with ports := [] }.routePort 0 5 = none := by decide +kernel
def askedAt (key : Nat) (dirty : List Dirty) : State := { linked with reads := [{ reader := .ct 0, key := key, tid := some 9 }], dirty := dirty }
theorem witness_read_answers :
    let m := Msg.build 2 0 5 9 64 (List.replicate 32 1#8)
    let far := 2 ^ 55 + 5 * 2 ^ 44
    (∀ k ∈ [far + 64, far + 0x70000000000], ((askedAt k []).reads.find? fun x => x.tid == some (Msg.tid m)).isSome = true ∧ bitsOf k 44 11 ≠ (askedAt k []).pkg) ∧
      (∀ e ∈ (plain 3).reads, e.tid ≠ some (Msg.tid m)) ∧ peerRegs4 (far + 64) = none ∧ peerRegs4 (far + 0x70000000000) = some (0, 8) ∧
      peerRegs4 (far + 0x70000020000) = some (0x20000, 4) ∧ Dirty.sector (far + 64) ∈ (askedAt (far + 64) [.sector (far + 64)]).dirty ∧
      Dirty.sector (far + 64) ∉ (askedAt (far + 64) []).dirty := by decide +kernel
theorem witness_host : let s : State := { plain 0 with cxlUp := true, cxlBase := 0x10000, cxlSize := 0x20000, hostReqs := [(0x140000, 3)] }
    s.cxlUp = true ∧ { s with plocks := [(0x120000, 0, 0x10000)] }.pageLocked 0x1FFFF = true ∧ { s with plocks := [(0x120000, 0, 0x10000)] }.pageLocked 0x20000 = false ∧
      { s with plocks := [(0x120000, 0, 0x20000)] }.pageLocked (0x1FFFE + 4 - 1) = true ∧ s.hostReqs ≠ [] ∧ 2 ^ 56 ≤ (2 ^ 56 + 8 : Nat) := by decide +kernel
end Sys2Proof.Tests
end

section
/-!
Every step keeps memory in its canonical form (O7).

`State.MemOk.f` says that the operation `f` of the state keeps the form. An operation that leaves memory alone keeps it by `MemOk.of_mem`, one that
writes memory by the laws of `write`, and one built from others by their lemmas, chained in the order in which the operations follow each other; where
an operation takes a continuation, its lemma asks the same of the continuation. `MemOk.exec` collects the rows of the table of instructions, and
`MemOk.pick` what stands before the instruction of a step.
-/

namespace Sys2Proof.Machine

/-! ## Results that carry a state -/

/-- The next state, where there is one, has memory in its form. -/
def NextOk : Host.Outcome State Fault Refusal → Prop
  | .next s => s.MemOk
  | _ => True

/-- The state that issue leaves has memory in its form. -/
def Iss.MemOk : Iss → Prop
  | .stall _ s | .go s | .ended s | .fail s _ _ _ | .skip s _ => s.MemOk
  | .flt _ _ _ | .late _ _ => True

/-- The state after a store to a view has memory in its form. -/
def Acc.MemOk : Acc → Prop
  | .ok s | .wait s => s.MemOk
  | .bad _ => True

/-- The state in which a hart's store traps has memory in its form. -/
def State.StoreAt.MemOk : State.StoreAt → Prop
  | .trap s => s.MemOk
  | .go _ | .wait => True

/-- The state after a tile is written has memory in its form. -/
def TileEnd.MemOk : TileEnd → Prop
  | .wrote s => s.MemOk
  | .wait | .pool | .fault _ => True

/-- The state that is picked, before its instruction where it has one, has memory in its form. -/
def Pick.MemOk : Pick → Prop
  | .run s _ | .done s => s.MemOk

section

variable {p : Prop} {inst : Decidable p}

theorem NextOk.ite {a b : Host.Outcome State Fault Refusal} (ha : NextOk a) (hb : NextOk b) : NextOk (if p then a else b) := by
  split
  · exact ha
  · exact hb

theorem Iss.MemOk.ite {a b : Iss} (ha : a.MemOk) (hb : b.MemOk) : (if p then a else b).MemOk := by
  split
  · exact ha
  · exact hb

theorem Pick.MemOk.ite {a b : Pick} (ha : a.MemOk) (hb : b.MemOk) : (if p then a else b).MemOk := by
  split
  · exact ha
  · exact hb

end

namespace State

/-! ## Ways in which states are put together -/

section

variable {α β : Type} {s t : State}

theorem forall_mem_none {P : α → Prop} : ∀ a ∈ none, P a := fun _ e => nomatch e

theorem forall_mem_some {P : α → Prop} {a : α} (h : P a) : ∀ b ∈ some a, P b := fun _ e => Option.some.inj e ▸ h

/-- Both branches keep the form. -/
theorem MemOk.ite {p : Prop} {inst : Decidable p} (hs : s.MemOk) (ht : t.MemOk) : (if p then s else t).MemOk := by
  split
  · exact hs
  · exact ht

/-- An operation repeated along a list. -/
theorem MemOk.foldl {f : State → α → State} {l : List α} (h : s.MemOk) (hf : ∀ (u : State) a, u.MemOk → (f u a).MemOk) :
    (l.foldl f s).MemOk := List.foldlRecOn l f h fun u hu a _ => hf u a hu

/-- An operation that also gathers results, repeated along a list. -/
theorem MemOk.foldl_pair {f : β × State → α → β × State} {l : List α} {b : β × State} (h : b.2.MemOk)
    (hf : ∀ (u : β × State) a, u.2.MemOk → (f u a).2.MemOk) : (l.foldl f b).2.MemOk :=
  List.foldlRecOn (motive := fun u : β × State => u.2.MemOk) l f h fun u hu a _ => hf u a hu

/-- An operation that may have no result, or else leaves the state as it was. -/
theorem MemOk.getD {o : Option State} (h : s.MemOk) (ho : ∀ t ∈ o, t.MemOk) : (o.getD s).MemOk := by
  cases o with
  | none => exact h
  | some t => exact ho t rfl

theorem MemOk.bind {o : Option State} {f : State → Option State} (ho : ∀ t ∈ o, t.MemOk)
    (hf : ∀ u : State, u.MemOk → ∀ t ∈ f u, t.MemOk) : ∀ t ∈ o.bind f, t.MemOk := by
  cases o with
  | none => exact forall_mem_none
  | some u => exact hf u (ho u rfl)

end

/-! ## Updates of one part of the state, and writes to memory -/

section

variable {s : State} {c i n p q x pa key ver typ un index addr : Nat} {w : Word} {bs : List Byte}

theorem MemOk.setCore {k : Core} (h : s.MemOk) : (s.setCore c k).MemOk := h.of_mem rfl
theorem MemOk.modCore {f : Core → Core} (h : s.MemOk) : (s.modCore c f).MemOk := h.of_mem rfl
theorem MemOk.modCt {f : Ct → Ct} (h : s.MemOk) : (s.modCt c f).MemOk := h.of_mem rfl
theorem MemOk.modEng {e : Eng} {f : EngSt → EngSt} (h : s.MemOk) : (s.modEng c e f).MemOk := h.of_mem rfl
theorem MemOk.modHart {f : Hart → Hart} (h : s.MemOk) : (s.modHart i f).MemOk := h.of_mem rfl
theorem MemOk.setQueue {k : Queue} (h : s.MemOk) : (s.setQueue q k).MemOk := h.of_mem rfl
theorem MemOk.setInterp {k : Interp} (h : s.MemOk) : (s.setInterp i k).MemOk := h.of_mem rfl
theorem MemOk.modInterp {f : Interp → Interp} (h : s.MemOk) : (s.modInterp i f).MemOk := h.of_mem rfl
theorem MemOk.setPort {k : Port} (h : s.MemOk) : (s.setPort p k).MemOk := h.of_mem rfl
theorem MemOk.setGov {k : Gov} (h : s.MemOk) : (s.setGov i k).MemOk := h.of_mem rfl
theorem MemOk.setCluster {k : Cluster} (h : s.MemOk) : (s.setCluster c k).MemOk := h.of_mem rfl
theorem MemOk.setTeam {k : Team} (h : s.MemOk) : (s.setTeam k).MemOk := h.of_mem rfl
theorem MemOk.setReg (h : s.MemOk) : (s.setReg n w).MemOk := h.of_mem rfl
theorem MemOk.bumpReg (h : s.MemOk) : (s.bumpReg n).MemOk := h.of_mem rfl
theorem MemOk.post {m : Nat} (h : s.MemOk) : (s.post i n m bs).MemOk := h.of_mem rfl
theorem MemOk.flip (h : s.MemOk) : s.flip.2.MemOk := h.of_mem rfl
theorem MemOk.draw (h : s.MemOk) : s.draw.2.MemOk := h.of_mem rfl
theorem MemOk.markPoison (h : s.MemOk) : (s.markPoison key n).MemOk := h.of_mem rfl
theorem MemOk.noteRemote {ks : List Nat} (h : s.MemOk) : (s.noteRemote ks).MemOk := h.of_mem rfl

theorem MemOk.setPreg (h : s.MemOk) : (s.setPreg p n w).MemOk := memOk_setPreg _ _ _ _ h
theorem MemOk.write (h : s.MemOk) : (s.write key bs).MemOk := memOk_write _ _ _ h
theorem MemOk.writeNum (h : s.MemOk) : (s.writeNum key n x).MemOk := memOk_writeNum _ _ _ _ h
theorem MemOk.writeKeys {ks : List Nat} (h : s.MemOk) : (s.writeKeys ks bs).MemOk := memOk_writeKeys _ _ _ h
theorem MemOk.postError (h : s.MemOk) : (s.postError typ un index addr).MemOk := memOk_postError _ _ _ _ _ h
theorem MemOk.noteCorrected (h : s.MemOk) : (s.noteCorrected un index addr).MemOk := memOk_noteCorrected _ _ _ _ h
theorem MemOk.postNotice (h : s.MemOk) : (s.postNotice n x).MemOk := memOk_postNotice _ _ _ h
theorem MemOk.postPool (h : s.MemOk) : (s.postPool p).MemOk := memOk_postPool _ _ h
theorem MemOk.postAbsent {a b d e : Nat} (h : s.MemOk) : (s.postAbsent a b c d e).MemOk := memOk_postAbsent _ _ _ _ _ _ h
theorem MemOk.noteAt {a b d e : Nat} (h : s.MemOk) : (s.noteAt a b c d e).MemOk := memOk_noteAt _ _ _ _ _ _ h
theorem MemOk.pushFrame (h : s.MemOk) : (s.pushFrame p n pa).MemOk := memOk_pushFrame _ _ _ _ h
theorem MemOk.refAdd (h : s.MemOk) : (s.refAdd p pa).MemOk := memOk_refAdd _ _ _ h
theorem MemOk.refSub (h : s.MemOk) : (s.refSub p pa).MemOk := memOk_refSub _ _ _ h
theorem MemOk.tablesToMem (h : s.MemOk) : s.tablesToMem.MemOk := memOk_tablesToMem _ h
theorem MemOk.remask (h : s.MemOk) : (s.remask n w).MemOk := memOk_remask _ _ _ h

theorem MemOk.storeSpan (h : s.MemOk) : (s.storeSpan key bs).MemOk := by
  unfold State.storeSpan
  split
  · exact h
  · exact h.write.noteRemote

end

/-! ## Frames, entries and versions (R427, R429) -/

section

variable {s : State} {i j lo n p v x pa key ver page : Nat} {w : Word} {l : Layout}

theorem MemOk.popFrame (h : s.MemOk) : ∀ r ∈ s.popFrame p n, r.2.MemOk := by
  unfold State.popFrame
  dsimp only
  split
  · exact forall_mem_none
  · exact forall_mem_some h.setPreg.setPreg

theorem MemOk.takeFrame (h : s.MemOk) : ∀ r ∈ s.takeFrame p, r.2.MemOk := by
  unfold State.takeFrame
  split
  · next e =>
    exact forall_mem_some (h.popFrame _ e)
  · exact h.popFrame

theorem MemOk.takeFrames (h : s.MemOk) : ∀ r ∈ s.takeFrames p n, r.2.MemOk := by
  induction n generalizing s with
  | zero =>
    exact forall_mem_some h
  | succ n ih =>
    unfold State.takeFrames
    split
    · exact forall_mem_none
    · next f s1 e =>
      intro r hr
      obtain ⟨r', hr', rfl⟩ := Option.map_eq_some_iff.1 hr
      exact ih (h.takeFrame _ e) r' hr'

theorem MemOk.setYwRaw (h : s.MemOk) : (s.setYwRaw key n w).MemOk := h.of_mem rfl

theorem MemOk.showEw (h : s.MemOk) : (s.showEw key n lo i v).MemOk := by
  unfold State.showEw
  split
  · exact h
  · exact h.of_mem rfl

theorem MemOk.setEw (h : s.MemOk) : (s.setEw key n lo i v).MemOk := h.showEw.setYwRaw
theorem MemOk.fixLiven (h : s.MemOk) : (s.fixLiven key).MemOk := h.showEw.setYwRaw
theorem MemOk.fixEntry (h : s.MemOk) : (s.fixEntry key).MemOk := h.fixLiven.setEw
theorem MemOk.setYw (h : s.MemOk) : (s.setYw key n w).MemOk := MemOk.fixLiven (MemOk.setYwRaw (MemOk.ite (h.of_mem rfl) h))
theorem MemOk.setCurv (h : s.MemOk) : (s.setCurv key v).MemOk := h.setEw
theorem MemOk.setPv (h : s.MemOk) : (s.setPv key i v).MemOk := h.setEw.ite h.setEw
theorem MemOk.setPin (h : s.MemOk) : (s.setPin key i n).MemOk := h.setEw.ite (h.setEw.ite (h.setEw.ite h.setEw))

/-- A page of a draft that shares its frame gets one of its own, with the bytes of the shared one. -/
theorem MemOk.ownPage (h : s.MemOk) : ∀ t ∈ s.ownPage key l page, t.MemOk := by
  unfold State.ownPage
  dsimp only
  split
  · exact forall_mem_some h
  · split
    · exact forall_mem_some h
    · split
      · exact forall_mem_some h
      · split
        · exact forall_mem_none
        · next e =>
          exact forall_mem_some (h.takeFrame _ e).write.writeNum.refAdd.refSub

theorem MemOk.ownPages {l : List (Nat × Nat)} (h : s.MemOk) : ∀ t ∈ s.ownPages l, t.MemOk := by
  induction l generalizing s with
  | nil =>
    exact forall_mem_some h
  | cons e l ih =>
    unfold State.ownPages
    split
    · exact forall_mem_none
    · next e => exact ih (h.ownPage _ e)

theorem MemOk.writePlace {q : Place} (h : s.MemOk) : (s.writePlace q x).MemOk := h.writeNum.ite h.writeNum
theorem MemOk.storePlace {q : Place} (h : s.MemOk) : (s.storePlace q x).MemOk := h.writePlace.noteRemote

theorem MemOk.freeTable (h : s.MemOk) : (s.freeTable p pa).MemOk := by
  unfold State.freeTable
  dsimp only
  split
  · exact MemOk.pushFrame (h.of_mem rfl)
  · exact h.of_mem rfl

theorem MemOk.freeRoot {r : Nat × Nat} (h : s.MemOk) : (s.freeRoot l ver r).MemOk := by
  unfold State.freeRoot
  dsimp only
  split
  · exact h
  · exact MemOk.writeNum (MemOk.freeTable (MemOk.foldl (h.foldl fun _ _ h => h.refSub) fun _ _ h => h.freeTable))

theorem MemOk.freeTables (h : s.MemOk) : (s.freeTables l ver).MemOk := h.foldl fun _ _ h => h.freeRoot

theorem MemOk.retire (h : s.MemOk) : (s.retire key ver).MemOk := by
  unfold State.retire
  split
  · exact h
  · exact h.setPv.setPin.fixEntry.freeTables

theorem MemOk.pin (h : s.MemOk) : ∀ t ∈ s.pin key ver, t.MemOk := by
  unfold State.pin
  split
  · exact forall_mem_none
  · split
    · exact forall_mem_none
    · exact forall_mem_some h.setPin

theorem MemOk.unpin (h : s.MemOk) : (s.unpin key ver).MemOk := by
  unfold State.unpin
  split
  · exact h
  · exact h.setPin.retire.ite h.setPin

/-- A root copied for a draft: the directory and its leaves are written into frames taken from the pool. -/
theorem MemOk.openRoot {r : Nat × Nat} (h : s.MemOk) : ∀ t ∈ s.openRoot key l r, t.MemOk := by
  unfold State.openRoot
  dsimp only
  split
  · split
    · exact forall_mem_none
    · next e =>
      have hf := h.takeFrames _ e
      exact forall_mem_some
        (MemOk.foldl (MemOk.writeNum (MemOk.writeNum (hf.write.foldl fun _ _ h => h.write.writeNum))) fun _ _ h => h.refAdd)
  · exact forall_mem_some h

theorem MemOk.openDraft (h : s.MemOk) : ∀ t ∈ s.openDraft key l, t.MemOk :=
  List.foldlRecOn (motive := fun o : Option State => ∀ t ∈ o, t.MemOk) (roots l) _ (forall_mem_some h)
    fun _ ho _ _ => MemOk.bind ho fun _ h => h.openRoot

theorem MemOk.discardDraft (h : s.MemOk) : (s.discardDraft key).MemOk := h.freeTables.setEw.fixEntry

theorem MemOk.publish (h : s.MemOk) : (s.publish key).MemOk := by
  unfold State.publish
  extract_lets l old pins s1
  have h1 : s1.MemOk := by
    unfold s1
    split
    · exact h.freeTables
    · split
      · exact h.setPv.setPin
      · exact h
  exact h1.setCurv.setPin.setEw.fixEntry

end

/-! ## Records, queues, teams and drafts (R104 to R109, R118, R120, R166) -/

section

variable {s : State} {c i n q v key ver die crid id a b d e f g : Nat} {w : Word} {ws : List Word} {cs : List Nat}

theorem MemOk.setCr (h : s.MemOk) : (s.setCr c n w).MemOk := h.of_mem rfl
theorem MemOk.setCrFld (h : s.MemOk) : (s.setCrFld c n a b v).MemOk := h.of_mem rfl
theorem MemOk.setSt (h : s.MemOk) : (s.setSt c v).MemOk := h.of_mem rfl
theorem MemOk.newRecord (h : s.MemOk) : (s.newRecord c ws a b d e f g v).MemOk :=
  h.setCr.setCr.setCr.setCr.setCr.setCr.setCr.setCr
theorem MemOk.putQueue {k : Queue} (h : s.MemOk) : (s.putQueue q k).MemOk := h.of_mem rfl
theorem MemOk.qTake {e : QEntry} (h : s.MemOk) : (s.qTake q e).MemOk := h.of_mem rfl

theorem MemOk.qPut {e : QEntry} (h : s.MemOk) : (s.qPut q e).MemOk := by
  unfold State.qPut
  extract_lets k e k s1
  have h1 : s1.MemOk := h.putQueue
  exact h.putQueue.ite (h.putQueue.ite (h1.of_mem rfl))

theorem MemOk.enqueue (h : s.MemOk) : (s.enqueue q c).MemOk := h.setSt.qPut

theorem MemOk.enqueueGang (h : s.MemOk) : (s.enqueueGang die cs).MemOk := by
  have hs := h.foldl (f := fun s c => s.setSt c 2) (l := cs) fun _ _ h => h.setSt
  exact hs.ite hs.qPut

theorem MemOk.expose (h : s.MemOk) : (s.expose c).MemOk := by
  unfold State.expose
  dsimp only
  split
  · exact h.setTeam
  · exact h.modCore

theorem MemOk.passBarrier (h : s.MemOk) : (s.passBarrier n cs).MemOk := h.of_mem rfl

theorem MemOk.tryBarrier (h : s.MemOk) : (s.tryBarrier id).MemOk := by
  unfold State.tryBarrier
  split
  · exact h
  · exact h.setTeam.passBarrier.ite h

theorem MemOk.tryGang (h : s.MemOk) : (s.tryGang id).MemOk := by
  unfold State.tryGang
  split
  · exact h
  · exact MemOk.ite (MemOk.enqueueGang (h.setTeam.foldl fun _ _ h => h.setCrFld.setCrFld)) h

theorem MemOk.freeBench (h : s.MemOk) : (s.freeBench key).MemOk := h.setEw.of_mem rfl
theorem MemOk.mapContexts {f : Core → Core} (h : s.MemOk) : (s.mapContexts f).MemOk := h.of_mem rfl
theorem MemOk.jobsDropDraft (h : s.MemOk) : (s.jobsDropDraft key).MemOk := h.of_mem rfl
theorem MemOk.dropDraftViews (h : s.MemOk) : (s.dropDraftViews key).MemOk := h.jobsDropDraft.mapContexts
theorem MemOk.closeDraft (h : s.MemOk) : (s.closeDraft key).MemOk := h.discardDraft.dropDraftViews

theorem MemOk.rebindDraft (h : s.MemOk) : (s.rebindDraft key ver).MemOk :=
  h.jobsDropDraft.mapContexts.foldl fun _ _ h => h.getD h.pin

theorem MemOk.dissolve (h : s.MemOk) : (s.dissolve id).MemOk := by
  have hd := h.foldl (f := fun s k => s.closeDraft k) (l := s.claimsOf 2 id) fun _ _ h => h.closeDraft
  exact MemOk.of_mem (hd.foldl fun _ _ h => h.freeBench) rfl

theorem MemOk.reTeam (h : s.MemOk) : (s.reTeam die).MemOk := by
  unfold State.reTeam
  split
  · exact MemOk.enqueueGang (MemOk.foldl (MemOk.setTeam (h.of_mem rfl)) fun _ _ h => h.setCrFld)
  · exact h

theorem MemOk.tryConts (h : s.MemOk) : (s.tryConts id).MemOk := by
  unfold State.tryConts
  split
  · exact h
  · exact h.ite h.setTeam.enqueueGang

theorem MemOk.leaveTeam (h : s.MemOk) : (s.leaveTeam id crid).MemOk := by
  unfold State.leaveTeam
  split
  · exact h
  · exact h.setTeam.dissolve.reTeam.ite h.setTeam.tryBarrier.tryConts.tryGang

theorem MemOk.trigger (h : s.MemOk) : (s.trigger crid).MemOk := h.ite h.setCrFld.modInterp
theorem MemOk.makeRunnable (h : s.MemOk) : (s.makeRunnable c).MemOk := h.tryConts.ite h.enqueue
theorem MemOk.decJoin (h : s.MemOk) : (s.decJoin c).MemOk := h.ite (h.setCrFld.makeRunnable.ite h.setCrFld)
theorem MemOk.pushFp (h : s.MemOk) : (s.pushFp die w).MemOk := h.bumpReg.ite h.writeNum.bumpReg

theorem MemOk.popFp (h : s.MemOk) : ∀ r ∈ s.popFp die, r.2.MemOk := by
  unfold State.popFp
  dsimp only
  split
  · exact forall_mem_none
  · exact forall_mem_some h.setReg.setReg

theorem MemOk.takeFp (h : s.MemOk) : ∀ r ∈ s.takeFp die a n, r.2.MemOk := by
  induction n generalizing s with
  | zero => exact forall_mem_none
  | succ n ih =>
    unfold State.takeFp
    split
    · exact forall_mem_none
    · next e =>
      have hp := h.popFp _ e
      split
      · exact forall_mem_some hp
      · exact ih hp.pushFp

theorem MemOk.reloadYard (h : s.MemOk) : s.reloadYard.MemOk := h.of_mem rfl
theorem MemOk.reloadPool (h : s.MemOk) : s.reloadPool.MemOk := h.of_mem rfl

end

/-! ## Jobs and collectives (R331, R400) -/

section

variable {s : State} {c crid st : Nat} {w : Word} {j : Job} {k : Coll} {f : Core → Core}

theorem MemOk.modRing (h : s.MemOk) : (s.modRing j f).MemOk := MemOk.ite (h.of_mem rfl) h.modCore

theorem MemOk.unpinJob (h : s.MemOk) : (s.unpinJob j).MemOk := h.foldl fun _ _ h => h.ite h.unpin

theorem MemOk.endJob (h : s.MemOk) : (s.endJob j st).MemOk := by
  unfold State.endJob
  extract_lets s1 s2
  have h2 : s2.MemOk := h.unpinJob.ite h.unpinJob.modRing
  exact MemOk.ite (h2.of_mem rfl) (h2.of_mem rfl)

theorem MemOk.orphanJobs (h : s.MemOk) : (s.orphanJobs crid).MemOk :=
  MemOk.foldl (h.of_mem rfl) fun _ _ h => h.endJob

theorem MemOk.endColl (h : s.MemOk) : (s.endColl k w).MemOk := by
  unfold State.endColl
  extract_lets s1 s2
  have h2 : s2.MemOk := h.unpin.ite h.unpin.unpin
  exact h2.of_mem rfl

theorem MemOk.orphanColls (h : s.MemOk) : (s.orphanColls crid).MemOk := h.of_mem rfl

theorem MemOk.refuseColls (h : s.MemOk) : (s.refuseColls crid).MemOk :=
  MemOk.orphanColls (h.foldl fun _ _ h => h.endColl)

end

/-! ## Registers, service, faults and the end of a task (R70 to R75, R120) -/

section

variable {s : State} {c n p key ver code detail crid a sz : Nat} {w pc : Word} {r : BitVec 5} {elem : BitVec 32} {e : Eng}
  {f : Flt} {bs : List Byte}

theorem MemOk.wx (h : s.MemOk) : (s.wx r w).MemOk := by
  unfold State.wx
  split
  · exact h.modCore
  · exact h.ite h.modHart
  · exact h

theorem MemOk.goto (h : s.MemOk) : (s.goto pc).MemOk := by
  unfold State.goto
  split
  · exact h.modCore
  · exact h.modHart
  · exact h

theorem MemOk.step4 (h : s.MemOk) : s.step4.MemOk := h.goto
theorem MemOk.done (h : s.MemOk) : (s.done r w).MemOk := h.wx.step4

theorem MemOk.abandon (h : s.MemOk) : (s.abandon c).MemOk := by
  unfold State.abandon
  dsimp only
  split
  · exact h
  · split
    · split
      · exact h.modCt.setTeam
      · exact h.modCt
    · exact h.modCt

theorem MemOk.noteProgress (h : s.MemOk) : (s.noteProgress c w).MemOk := h.setCr.ite h

theorem MemOk.enterService {u v : Word} (h : s.MemOk) : (s.enterService c w u v).MemOk := h.noteProgress.abandon.modCore

theorem MemOk.growFrame (h : s.MemOk) : (s.growFrame c).MemOk := h.ite h.setCore

theorem MemOk.returnService (h : s.MemOk) : (s.returnService c).MemOk := h.growFrame.modCore.enterService.ite h.growFrame.modCore

theorem MemOk.unpinView {v : View} (h : s.MemOk) : (s.unpinView v).MemOk := by
  unfold State.unpinView
  split
  · exact h.unpin
  · exact h

theorem MemOk.unpinDesc {d : List Word} (h : s.MemOk) : (s.unpinDesc d).MemOk := by
  unfold State.unpinDesc
  extract_lets hd ver sh s1
  have h1 : s1.MemOk := h.ite h.unpin
  exact h1.ite h1.unpin

theorem MemOk.releasePins (h : s.MemOk) : (s.releasePins c).MemOk :=
  MemOk.modCore (MemOk.foldl
    (MemOk.foldl (h.foldl fun _ _ h => h.unpinView) fun _ _ h => h.unpinDesc)
    fun _ _ h => h.foldl fun _ _ h => h.unpin)

theorem MemOk.flushWindow (h : s.MemOk) : (s.flushWindow c).MemOk := by
  unfold State.flushWindow
  dsimp only
  split
  · exact h
  · exact MemOk.modCore (h.of_mem rfl)

theorem MemOk.disownUpdates (h : s.MemOk) : (s.disownUpdates crid).MemOk := h.of_mem rfl
theorem MemOk.dropLeave (h : s.MemOk) : (s.dropLeave c).MemOk := h.of_mem rfl
theorem MemOk.abortEngines (h : s.MemOk) : (s.abortEngines c).MemOk := h.dropLeave.modCore
theorem MemOk.leftCore (h : s.MemOk) : (s.leftCore crid).MemOk := h.of_mem rfl

/-- What ends with a task: its window, its claims, its pins, its jobs and collectives, its place in a team, its parent's count, its frame. -/
theorem MemOk.endTask (h : s.MemOk) : (s.endTask c).MemOk := by
  unfold State.endTask
  extract_lets k t tm s1 s2 s3 s4 s5 s6 s7 s8 s9 s10 s11 s12
  have h3 : s3.MemOk := h.flushWindow.disownUpdates.setCr.trigger
  have h4 : s4.MemOk := h3.foldl fun _ _ h => h.closeDraft
  have h6 : s6.MemOk := h4.releasePins.orphanJobs.orphanColls
  have h7 : s7.MemOk := h6.of_mem (by simp only [s7])
  have h8 : s8.MemOk := by
    unfold s8
    split
    · exact h7
    · split
      · exact h7.leaveTeam
      · split
        · exact h7.setTeam.tryGang
        · exact h7
  have h9 : s9.MemOk := h8.ite h8.decJoin
  have h10 : s10.MemOk := h9.tryConts.ite h9
  have h11 : s11.MemOk := by
    unfold s11
    split
    · exact h10.pushFp
    · exact h10
  exact h11.setSt.leftCore.setCore

theorem MemOk.endFailed (h : s.MemOk) : (s.endFailed c code detail).MemOk := h.expose.endTask.postNotice
theorem MemOk.failTask (h : s.MemOk) : (s.failTask c code detail).MemOk := h.abortEngines.endFailed.ite h.modCore
theorem MemOk.raiseCt (h : s.MemOk) : (s.raiseCt c code detail w).MemOk := h.modCt.failTask.ite h.modCt.enterService
theorem MemOk.raiseEng (h : s.MemOk) : (s.raiseEng c e code detail elem).MemOk := h.modEng

theorem MemOk.raiseLate {k : Kept} (h : s.MemOk) : (s.raiseLate c e code detail elem k).MemOk := (h.draw.ite h).modEng

theorem MemOk.noteAbsent {k : Core} (h : s.MemOk) : (s.noteAbsent k a f).MemOk := by
  unfold State.noteAbsent
  dsimp only
  split
  · split
    · exact h
    · split
      · exact h.noteAt
      · exact h.noteAt
      · exact h.noteAt
      · exact h
  · exact h

theorem MemOk.waitPool (h : s.MemOk) : (s.waitPool c p).MemOk := h.ite h.postPool.modCore
theorem MemOk.raiseAccess (h : s.MemOk) : (s.raiseAccess c a f).MemOk := h.noteAbsent.raiseCt

/-- A read of a view keeps the form where what is done with the bytes keeps it. -/
theorem MemOk.viewRead {cont : List Byte → State} (h : s.MemOk) (hc : ∀ bs, (cont bs).MemOk) : (s.viewRead c a n cont).MemOk := by
  unfold State.viewRead
  refine h.ite ?_
  split
  · exact h.raiseAccess
  · exact hc _

theorem MemOk.viewStore (h : s.MemOk) : (s.viewStore c a bs).MemOk := by
  unfold State.viewStore
  extract_lets k n pages e
  split
  · exact h
  · split
    · trivial
    · split
      · exact h
      · split
        · exact h.waitPool
        · next e =>
          split
          · trivial
          · exact (h.ownPages _ e).writeKeys.noteRemote.modCore

end

/-! ## The issue of engine words (R29, R55) and the requests to a Bench (R235) -/

section

variable {s : State} {c slots last code detail : Nat} {e : Eng} {elem : BitVec 32}

theorem MemOk.launch (h : s.MemOk) : (s.launch c e).MemOk := h.modEng

theorem MemOk.issueFault (h : s.MemOk) : (s.issueFault c e code detail elem).MemOk := by
  unfold State.issueFault
  split
  · exact h.raiseEng
  · exact h.raiseLate.modEng

theorem MemOk.issued (h : s.MemOk) : (s.issued c e slots last).MemOk := by
  unfold State.issued
  split
  · exact h.modEng
  · exact h.modCore

theorem MemOk.noteMiss {hd : Word} {l : Layout} {t : List Nat} {v : VSel} {f : Flt} (h : s.MemOk) : (s.noteMiss hd l t v f).MemOk :=
  h.noteAt.ite h

theorem MemOk.updateFailed {r : BankReq} (h : s.MemOk) : (s.updateFailed r).MemOk := by
  unfold State.updateFailed
  split
  · exact h.modCore
  · split
    · exact h.of_mem rfl
    · exact h.postError

theorem MemOk.applyReq {r : BankReq} (h : s.MemOk) : (s.applyReq r).MemOk := h.ite (h.updateFailed.ite h.writeNum)

theorem MemOk.settle (h : s.MemOk) : (s.settle c).MemOk := MemOk.foldl (h.of_mem rfl) fun _ _ h => h.applyReq

end

/-! ## Ports and messages (R394 to R399) -/

section

variable {s : State} {j k n p kind dst tid second off v key : Nat} {m f d : List Byte} {act : State → State} {w : Word}

theorem MemOk.sendMsg (h : s.MemOk) : (s.sendMsg j kind dst tid second d).1.MemOk := by
  unfold State.sendMsg
  split
  · exact h.setPort
  · exact h

theorem MemOk.sendRaw (h : s.MemOk) : (s.sendRaw j m).MemOk := by
  unfold State.sendRaw
  split
  · exact h.setPort
  · exact h.of_mem rfl

theorem MemOk.reroute (h : s.MemOk) : (s.reroute p).MemOk := by
  unfold State.reroute
  extract_lets k ms s1
  have h1 : s1.MemOk := h.setPort
  refine h1.foldl fun s m h => ?_
  extract_lets dst sec
  split
  · exact MemOk.ite (h.of_mem rfl) h
  · split
    · split
      · exact h.setPort
      · exact MemOk.ite (h.of_mem rfl) h
    · exact h.sendRaw

theorem MemOk.killPort (h : s.MemOk) : (s.killPort p).MemOk := h.setPort.postError.reroute
theorem MemOk.replayPort (h : s.MemOk) : (s.replayPort p).MemOk := h.ite (h.killPort.ite h.setPort)
theorem MemOk.retrainPort (h : s.MemOk) : (s.retrainPort p).MemOk := h.setPort.ite h
theorem MemOk.holdPort (h : s.MemOk) : (s.holdPort p).MemOk := h.setPort.reroute.ite h

theorem MemOk.takeRx (h : s.MemOk) : (s.takeRx p m).MemOk := by
  unfold State.takeRx
  dsimp only
  split
  · exact h
  · exact h.setPort

theorem MemOk.recvFlit (h : s.MemOk) (ha : ∀ t : State, t.MemOk → (act t).MemOk) : (s.recvFlit p f act).MemOk :=
  h.ite (h.setPort.ite (ha _ h.setPort))

theorem MemOk.arrived (h : s.MemOk) (ha : ∀ t : State, t.MemOk → (act t).MemOk) : (s.arrived m act).MemOk :=
  (ha _ h.takeRx).ite h.takeRx.sendRaw

theorem MemOk.once (h : s.MemOk) (ha : ∀ t : State, t.MemOk → (act t).MemOk) : (s.once m act).MemOk :=
  h.arrived fun _ h => h.ite (MemOk.of_mem (ha _ h) rfl)

theorem MemOk.yardStep (h : s.MemOk) : (s.yardStep m).MemOk := by
  unfold State.yardStep
  dsimp only
  split
  · exact h.postAbsent
  · exact MemOk.post (h.of_mem rfl)
  · split
    · exact h
    · exact h.of_mem rfl
  · exact h.postNotice
  · exact h

theorem MemOk.sendRead {e : SecRead} (h : s.MemOk) : (s.sendRead e).MemOk := by
  unfold State.sendRead
  dsimp only
  split
  · exact h.of_mem rfl
  · split
    · exact h
    · exact MemOk.sendMsg (h.of_mem rfl)

theorem MemOk.sendSector (h : s.MemOk) : (s.sendSector k).MemOk := by
  unfold State.sendSector
  dsimp only
  split
  · exact h.of_mem rfl
  · exact MemOk.sendMsg (h.of_mem rfl)

theorem MemOk.sendPost {x : Nat × Nat × Nat × List Byte} (h : s.MemOk) : (s.sendPost x).MemOk := by
  unfold State.sendPost
  split
  · exact h.of_mem rfl
  · exact MemOk.sendMsg (h.of_mem rfl)

/-- What leaves in a clk: messages without a route, changed sectors, reads and posts. -/
theorem MemOk.sendAll (h : s.MemOk) : s.sendAll.MemOk := by
  unfold State.sendAll
  extract_lets secs rest s0 s1 s1' s2
  have h0 : s0.MemOk := MemOk.foldl (h.of_mem rfl) fun _ _ h => h.sendRaw
  have h1 : s1.MemOk := h0.foldl fun _ _ h => h.sendSector
  have h1' : s1'.MemOk := MemOk.foldl (h1.of_mem rfl) fun _ _ h => h.sendRead
  have h2 : s2.MemOk := MemOk.foldl (h1'.of_mem rfl) fun _ _ h => h.sendPost
  exact h2.of_mem rfl

theorem MemOk.putPiece {k : Contrib} (h : s.MemOk) : (s.putPiece k n d).MemOk := MemOk.ite (h.of_mem rfl) (h.of_mem rfl)

end

/-! ## The register window (R412, R438) -/

section

variable {s : State} {c i j k n p off key t : Nat} {w : Word} {m d : List Byte} {r : PaRef} {ks : List Nat}

theorem MemOk.hpcWrite (h : s.MemOk) : (s.hpcWrite off w).MemOk := h.setReg.setReg
theorem MemOk.startInterp (h : s.MemOk) : (s.startInterp i).MemOk := h.modInterp
theorem MemOk.clearInterp (h : s.MemOk) : (s.clearInterp i).MemOk := h.modInterp
theorem MemOk.mrdone (h : s.MemOk) : (s.mrdone w).MemOk := h.of_mem rfl
theorem MemOk.noteMargin (h : s.MemOk) : (s.noteMargin c).MemOk := h.postNotice.postError
theorem MemOk.writeClstat (h : s.MemOk) : (s.writeClstat c w).MemOk := h.setCluster
theorem MemOk.extendSlot (h : s.MemOk) : (s.extendSlot k d).MemOk := h.foldl fun _ _ h => h.setReg
theorem MemOk.extendWrite (h : s.MemOk) : (s.extendWrite w).MemOk := h.setReg.extendSlot.ite h.setReg

theorem MemOk.movedTable (h : s.MemOk) : (s.movedTable off w).MemOk :=
  h.tablesToMem.setReg.reloadPool.ite h.tablesToMem.setReg.reloadYard

theorem MemOk.regWrite (h : s.MemOk) : (s.regWrite off w).MemOk := by
  unfold State.regWrite
  extract_lets x i k p s1 d
  have h1 : s1.MemOk := h.holdPort.ite h
  refine h.ite (MemOk.ite ?interp (h.pushFrame.ite (h.movedTable.ite (h.remask.ite (h.hpcWrite.ite (h.mrdone.ite
    ((h1.retrainPort.ite h1).ite (MemOk.ite ?gov (h.writeClstat.ite (h.extendWrite.ite (h.pushFp.ite h.setReg)))))))))))
  case interp => exact (h.ite h.setInterp).ite ((h.ite h.setInterp).ite (h.startInterp.ite (h.clearInterp.ite h)))
  case gov => exact h.setGov.ite h.setGov

theorem MemOk.peerWrite (h : s.MemOk) : (s.peerWrite p off w).MemOk := h.ite (h.post.pushFrame.ite h.post.setPreg)

theorem MemOk.countGran (h : s.MemOk) : (s.countGran t key n).MemOk := h.setReg

theorem MemOk.countUncached (h : s.MemOk) : (s.countUncached t key).MemOk :=
  MemOk.ite (MemOk.countGran (h.of_mem rfl)) h.countGran

theorem MemOk.countHpc (h : s.MemOk) : (s.countHpc r n).MemOk :=
  h.ite (h.foldl fun _ _ h => h.countUncached.ite h.flip.countGran)

theorem MemOk.soil (h : s.MemOk) : (s.soil r n).MemOk := h.ite (h.of_mem rfl)

theorem MemOk.storeSector (h : s.MemOk) : (s.storeSector key m).MemOk := by
  unfold State.storeSector
  split
  · exact h
  · split
    · exact h.regWrite
    · exact h.write.noteRemote

theorem MemOk.applyWrreq (h : s.MemOk) : (s.applyWrreq key j m).MemOk := h.storeSector.sendRaw

theorem MemOk.releaseLinkHeld (h : s.MemOk) : s.releaseLinkHeld.MemOk := MemOk.foldl (h.of_mem rfl) fun _ _ h => h.applyWrreq

theorem MemOk.bringSector (h : s.MemOk) : (s.bringSector key d).MemOk := by
  unfold State.bringSector
  split
  · exact h.foldl fun _ _ h => h.setPreg
  · exact h.ite h.write

end

/-! ## Accesses of a hart (R412) -/

section

variable {s : State} {hn n x va tv pa cause acc part ydet : Nat} {w v : Word} {r : PaRef}

theorem MemOk.hartTrap (h : s.MemOk) : (s.hartTrap hn cause w v).MemOk := h.modHart
theorem MemOk.hartIllegal {b : BitVec 32} (h : s.MemOk) : (s.hartIllegal hn b ydet).MemOk := h.hartTrap

theorem MemOk.hartRead (h : s.MemOk) : (s.hartRead pa n).2.MemOk := by
  unfold State.hartRead
  split
  · exact h
  · split
    · split <;> exact h
    · split
      · exact h.postError
      · exact h.countHpc

theorem MemOk.hartWrite (h : s.MemOk) : ∀ t ∈ s.hartWrite pa n x, t.MemOk := by
  unfold State.hartWrite
  split
  · exact forall_mem_none
  · split
    · split
      · exact forall_mem_some h.regWrite
      · exact forall_mem_some h.peerWrite
    · exact forall_mem_some (h.countHpc.soil.writeNum.of_mem rfl)

theorem MemOk.hartWriteD (h : s.MemOk) : ((s.hartWrite pa n x).getD s).MemOk := h.getD h.hartWrite

theorem MemOk.hartPoison (h : s.MemOk) : (s.hartPoison hn cause r pa tv).MemOk := h.postError.hartTrap

theorem MemOk.hartFail {f : Found} (h : s.MemOk) : (s.hartFail hn acc tv part f).MemOk := by
  cases f with
  | at_ => exact h
  | page => exact h.hartTrap
  | access => exact h.hartTrap
  | poison => exact h.hartPoison

theorem MemOk.loadPart {cont : State → Nat → State} (h : s.MemOk) (hc : ∀ (t : State) x, t.MemOk → (cont t x).MemOk) :
    (s.loadPart hn tv va n cont).MemOk := by
  unfold State.loadPart
  split
  · split
    · next e => exact hc _ _ (e ▸ h.hartRead :)
    · next e => exact MemOk.hartTrap (e ▸ h.hartRead :)
  · exact h.hartFail

theorem MemOk.hartLoad {cont : State → Nat → State} (h : s.MemOk) (hc : ∀ (t : State) x, t.MemOk → (cont t x).MemOk) :
    (s.hartLoad hn va n cont).MemOk :=
  h.loadPart fun _ _ h => (hc _ _ h).ite (h.loadPart fun _ _ h => hc _ _ h)

theorem MemOk.storeWhere (h : s.MemOk) : (s.storeWhere hn tv va n).MemOk := by
  unfold State.storeWhere
  split
  · split
    · exact h.hartTrap
    · split <;> trivial
  · exact h.hartFail

theorem MemOk.hartStore {cont : State → State} (h : s.MemOk) (hc : ∀ t : State, t.MemOk → (cont t).MemOk) :
    (s.hartStore hn va n x cont).MemOk := by
  unfold State.hartStore
  dsimp only
  split
  · next e => exact (e ▸ h.storeWhere :)
  · exact h
  · split
    · exact hc _ h.hartWriteD
    · split
      · next e => exact (e ▸ h.storeWhere :)
      · exact h
      · exact hc _ h.hartWriteD.hartWriteD

end

/-! ## Boot and attestation (R440 to R449) -/

section

variable {s : State} {n typ code k : Nat} {bs d : List Byte}

/-- Of two results with a state, either keeps the form. -/
theorem MemOk.ite_snd {β : Type} {a b : β × State} {p : Prop} {inst : Decidable p} (ha : a.2.MemOk) (hb : b.2.MemOk) :
    (if p then a else b).2.MemOk := by
  split
  · exact ha
  · exact hb

theorem MemOk.atStep (h : s.MemOk) : (s.atStep n).MemOk := h.of_mem rfl
theorem MemOk.bootNext (h : s.MemOk) : (s.bootNext typ bs).MemOk := h.of_mem rfl
theorem MemOk.bootFail (h : s.MemOk) : (s.bootFail code).MemOk := h.of_mem rfl
theorem MemOk.askImage (h : s.MemOk) : s.askImage.MemOk := h.bootNext

theorem MemOk.discover (h : s.MemOk) : s.discover.MemOk := by
  unfold State.discover
  split
  next r s1 e =>
    have h1 : s1.MemOk := (e ▸ MemOk.ite_snd h.draw h :)
    exact h1.of_mem rfl

theorem MemOk.nonce (h : s.MemOk) : s.nonce.2.MemOk := MemOk.foldl_pair h fun _ _ h => h.draw

theorem MemOk.applyImage {i : Image} (h : s.MemOk) : (s.applyImage i).MemOk := by
  unfold State.applyImage
  extract_lets s1 src s2 s3 s4 s5
  have h1 : s1.MemOk := h.extendSlot.extendSlot
  clear_value s1
  have h2 : s2.MemOk := h1.of_mem rfl
  have h3 : s3.MemOk := h2.foldl fun _ _ h => h.setGov
  have h4 : s4.MemOk := h3.write.atStep
  have h5 : s5.MemOk := h4.foldl fun _ _ h => h.modHart
  clear_value s5
  exact h5.of_mem rfl

theorem MemOk.bootImage (h : s.MemOk) : s.bootImage.MemOk :=
  h.bootFail.ite (h.atStep.bootFail.ite (h.atStep.bootFail.ite (h.atStep.bootFail.ite
    (h.atStep.atStep.bootFail.ite h.atStep.atStep.applyImage))))

end

/-! ## The host, resets, temperatures and upsets (R450 to R459) -/

section

variable {s : State} {c n bank file : Nat} {u : Upset} {f : Core → Core} {fixed : Bool}

theorem MemOk.failHost (h : s.MemOk) : s.failHost.MemOk := h.of_mem rfl

theorem MemOk.applyHdm (h : s.MemOk) : s.applyHdm.MemOk := by
  unfold State.applyHdm
  split
  · exact h
  · exact MemOk.ite (h.of_mem rfl) (h.of_mem rfl)

theorem MemOk.applyBox (h : s.MemOk) : s.applyBox.MemOk := h.of_mem rfl

theorem MemOk.hostPage {r : Nat × Nat} (h : s.MemOk) : (s.hostPage r).MemOk :=
  MemOk.ite (MemOk.of_mem h.flip.storeSpan rfl) (h.of_mem rfl)

theorem MemOk.fetchHost (h : s.MemOk) : s.fetchHost.MemOk :=
  MemOk.ite (MemOk.foldl (h.of_mem rfl) fun _ _ h => h.hostPage) h.failHost

theorem MemOk.releaseHeld (h : s.MemOk) : s.releaseHeld.MemOk := MemOk.foldl (h.of_mem rfl) fun _ _ h => h.storeSpan

/-- A reset leaves nothing listed in memory. -/
theorem memOk_afterReset (s : State) : s.afterReset.MemOk := rfl

theorem MemOk.setTherm (h : s.MemOk) : (s.setTherm n).MemOk :=
  h.ite (MemOk.ite (memOk_afterReset s) (MemOk.postError (h.of_mem rfl)))

theorem MemOk.sramError (h : s.MemOk) : (s.sramError c bank fixed f).MemOk := h.noteCorrected.ite (h.ite h.modCore).postError

theorem MemOk.applyUpset (h : s.MemOk) : (s.applyUpset u).MemOk := by
  unfold State.applyUpset
  split
  · split
    · exact h
    · split
      · exact h
      · dsimp only
        split
        · exact h
        · exact h.noteCorrected.ite (MemOk.ite (h.markPoison.postError.of_mem rfl) h.markPoison.postError)
  · split
    · exact h
    · exact h.noteCorrected.ite (MemOk.postError (h.of_mem rfl))
  · exact h.sramError.ite h
  · exact h.sramError.ite h
  · exact h.sramError
  · exact h.sramError.ite h

theorem MemOk.meetUpset (h : s.MemOk) : (s.meetUpset u).MemOk := MemOk.ite (h.of_mem rfl) h.applyUpset
theorem MemOk.meetUpsets (h : s.MemOk) : s.meetUpsets.MemOk := MemOk.foldl (h.of_mem rfl) fun _ _ h => h.meetUpset
theorem MemOk.wakeUpsets (h : s.MemOk) : (s.wakeUpsets c file n).MemOk := MemOk.foldl (h.of_mem rfl) fun _ _ h => h.applyUpset

end

/-! ## Control sequencers: stores, forks, leaves and sections (R51, R75, R86, R87, R451) -/

section

variable {s : State} {c d n a detail : Nat} {r : BitVec 5} {w : Word} {e : Eng} {kind : WaitKind} {bs : List Byte}

theorem MemOk.jump (h : s.MemOk) : (s.jump r w).MemOk := by
  unfold State.jump
  split
  · exact h.raiseCt.ite h.wx.goto
  · exact h.wx.goto

theorem MemOk.ctStore (h : s.MemOk) : (s.ctStore c a bs).MemOk := by
  unfold State.ctStore
  split
  · next e => exact MemOk.step4 (e ▸ h.viewStore :)
  · exact h.raiseAccess
  · next e => exact MemOk.modCore (e ▸ h.viewStore :)

theorem MemOk.ctDone (h : s.MemOk) : (s.ctDone c r w).MemOk := h.modCore
theorem MemOk.ctIllop (h : s.MemOk) : (s.ctIllop c detail).MemOk := h.raiseCt
theorem MemOk.waitAt {p q : BitVec 5} (h : s.MemOk) : (s.waitAt c kind p q r).MemOk := h.modCt

theorem MemOk.grantLeave (h : s.MemOk) : (s.grantLeave d n).MemOk := by
  induction n generalizing s with
  | zero => exact h
  | succ n ih =>
    unfold State.grantLeave
    dsimp only
    split
    · exact h
    · split
      · refine ih ?_
        split
        · exact h.setGov.modEng
        · exact h.setGov
      · exact h

theorem MemOk.askLeave (h : s.MemOk) : (s.askLeave c e).MemOk := h.ite (h.grantLeave.ite h.modEng.setGov.grantLeave)
theorem MemOk.freeToken (h : s.MemOk) : (s.freeToken c e).MemOk := h.setGov
theorem MemOk.dropBooking (h : s.MemOk) : (s.dropBooking c).MemOk := h.setGov
theorem MemOk.startFork {x y z : Word} (h : s.MemOk) : (s.startFork c x y z).MemOk := h.modCore

theorem MemOk.forkTable {got : List Word} {cont : List Word → State} (h : s.MemOk) (hc : ∀ ws, (cont ws).MemOk) :
    (s.forkTable c a n got cont).MemOk := by
  induction n generalizing a got with
  | zero => exact hc got
  | succ n ih => exact h.viewRead fun _ => h.raiseCt.ite ih

theorem MemOk.joinFork (h : s.MemOk) : (s.joinFork c).MemOk := h.modCore.dropBooking
theorem MemOk.killFork (h : s.MemOk) : (s.killFork c).MemOk := h.modCore
theorem MemOk.stopFork (h : s.MemOk) : (s.stopFork c).MemOk := h.ite h.abortEngines
theorem MemOk.holdEngine (h : s.MemOk) : (s.holdEngine c e).MemOk := h.modEng
theorem MemOk.cannotStart (h : s.MemOk) : (s.cannotStart c e).MemOk := h.holdEngine.ite h

theorem MemOk.enterSection (h : s.MemOk) : (s.enterSection c e).MemOk := by
  unfold State.enterSection
  split
  · exact h.raiseEng
  · dsimp only
    split
    · exact h.raiseEng
    · refine h.modEng.cannotStart.ite (MemOk.ite (h.of_mem rfl) (MemOk.ite (MemOk.of_mem h.modEng.askLeave rfl) h.modEng.askLeave.cannotStart))

end

/-! ## The forms in which instructions are executed -/

section

variable {s : State} {i : Instr}

/-- An engine word keeps the form where its body does. -/
theorem MemOk.issueWord {g : Guard} {slots : Nat} {illop : Core → EngSt → Option Nat} {body : Nat → Eng → State → Iss}
    (h : s.MemOk) (hb : ∀ c e, (body c e s).MemOk) : NextOk (issueWord g slots illop body s) := by
  unfold Machine.issueWord
  split
  · next c e _ =>
    extract_lets k en last act
    have hact : (act ()).MemOk := by
      have hr := hb c e
      simp only [act]
      generalize body c e s = r at hr
      cases r with
      | flt => exact h.issueFault
      | stall _ t => exact MemOk.modEng hr
      | go t => exact MemOk.issued hr
      | ended t => exact hr
      | fail t => exact MemOk.issueFault hr
      | skip t => exact MemOk.issued hr
      | late => exact h.issued.raiseLate
    split
    · exact h.modEng
    · split
      · exact h.issueFault
      · exact hact.ite h.issued
  · exact h

/-- An instruction of a control sequencer. -/
theorem MemOk.ctOnly {body : Nat → State → State} (h : s.MemOk) (hb : ∀ c, (body c s).MemOk) : NextOk (ctOnly i body s) := by
  unfold Machine.ctOnly
  split
  · exact hb _
  · exact h.hartIllegal
  · exact h

/-- An instruction that a control sequencer executes as user only. -/
theorem MemOk.ctUser {body : Nat → State → State} (h : s.MemOk) (hb : ∀ c, (body c s).MemOk) : NextOk (ctUser i body s) :=
  h.ctOnly fun _ => h.ctIllop.ite (hb _)

/-- A privileged instruction of a hart. -/
theorem MemOk.privileged {body : Nat → BitVec 32 → State → State} (h : s.MemOk) (hb : ∀ k w, (body k w s).MemOk) :
    NextOk (privileged i body s) := by
  unfold Machine.privileged
  dsimp only
  split
  · exact h.hartIllegal.ite (hb _ _)
  · exact h.ctIllop
  · exact h

end

/-! ## The fetch engine (R205 to R236) -/

section

variable {s : State} {c : Nat} {x : FeLoad} {l : Layout} {f : Flt} {elem : BitVec 32}

theorem MemOk.landLoad (h : s.MemOk) : (s.landLoad c x).MemOk := h.modCore.modEng
theorem MemOk.failLoad (h : s.MemOk) : (s.failLoad c x f elem).MemOk := h.modCore.modEng.raiseLate
theorem MemOk.stepScale (h : s.MemOk) : (s.stepScale c x).MemOk := h.modCore

theorem MemOk.resolveTile (h : s.MemOk) : (s.resolveTile c x l).MemOk := by
  unfold State.resolveTile
  dsimp only
  split
  · exact h.failLoad
  · exact h.noteMiss.failLoad
  · refine MemOk.failLoad ?_
    split
    · exact h.noteMiss
    · exact h
  · exact h.landLoad.stepScale.modCore.ite h.landLoad.stepScale.modCore

theorem MemOk.resolveGather (h : s.MemOk) : (s.resolveGather c x l).MemOk := by
  unfold State.resolveGather
  dsimp only
  split
  · exact h.failLoad
  · split
    · exact h.landLoad.modCore.ite (h.failLoad.ite h.landLoad.modCore.modCore)
    · split
      · split
        · exact h.landLoad.modCore.modCore
        · exact h.noteMiss.failLoad
      · exact h.noteMiss.failLoad

theorem MemOk.resolveLost (h : s.MemOk) : (s.resolveLost c x f).MemOk := by
  unfold State.resolveLost
  extract_lets form
  refine h.failLoad.ite ?_
  split
  · exact h.landLoad.modCore.ite h.failLoad
  · exact h.landLoad.modCore

theorem MemOk.resolveLoad (h : s.MemOk) : (s.resolveLoad c).MemOk := by
  unfold State.resolveLoad
  split
  · exact h
  · dsimp only
    split
    · exact h
    · split
      · exact h.resolveLost
      · exact MemOk.ite (MemOk.resolveTile (h.settle.ite h)) (MemOk.resolveGather (h.settle.ite h))

end

/-! ## Tasks on their cores (R110 to R124) -/

section

variable {s : State} {c q die crid off n cl : Nat} {hd : Word} {bs : List Byte} {b : Bool}

theorem MemOk.writeObj (h : s.MemOk) : (s.writeObj hd n off bs).MemOk := by
  induction n generalizing s off bs with
  | zero => exact h
  | succ n ih =>
    unfold State.writeObj
    extract_lets m s1
    have h1 : s1.MemOk := by
      unfold s1
      split
      · exact h.write.noteRemote
      · exact h
    exact h1.ite (ih h1)

theorem MemOk.writeFree (h : s.MemOk) : (s.writeFree hd off n).MemOk := by
  induction n generalizing s off with
  | zero => exact h
  | succ n ih => exact ih h.draw.writeObj

theorem MemOk.writeSave (h : s.MemOk) : (s.writeSave c).MemOk := h.writeFree.foldl fun _ _ h => h.writeObj
theorem MemOk.releaseLeave (h : s.MemOk) : (s.releaseLeave c).MemOk := h.dropLeave.foldl fun _ _ h => h.modEng
theorem MemOk.abandonAt (h : s.MemOk) : (s.abandonAt c).MemOk := h.ite h.abandon
theorem MemOk.beginSave (h : s.MemOk) : (s.beginSave c).MemOk := h.flushWindow.modCore

theorem MemOk.taskStart (h : s.MemOk) : (s.taskStart c).MemOk := by
  unfold State.taskStart
  extract_lets k0 t
  split
  · exact h
  · exact h.of_mem rfl

theorem MemOk.restoreTask (h : s.MemOk) : (s.restoreTask c).MemOk := h.of_mem rfl
theorem MemOk.completeStart (h : s.MemOk) : (s.completeStart c).MemOk := h.restoreTask.ite h.taskStart

theorem MemOk.beginStop (h : s.MemOk) : (s.beginStop c b).MemOk := by
  unfold State.beginStop
  extract_lets s1
  have h1 : s1.MemOk := by
    unfold s1
    split
    · exact h.completeStart
    · exact h
  split
  · exact h1.ite h1.abandonAt.releaseLeave.setSt.modCore
  · exact h1

theorem MemOk.yieldTask (h : s.MemOk) : (s.yieldTask c).MemOk := h.ite (h.foldl fun _ _ h => h.beginStop)

theorem MemOk.enqueueSaved (h : s.MemOk) : (s.enqueueSaved die crid).MemOk := by
  unfold State.enqueueSaved
  split
  · exact h.enqueue
  · exact h.setTeam.tryGang

theorem MemOk.finishSave (h : s.MemOk) : (s.finishSave c).MemOk := by
  unfold State.finishSave
  extract_lets k t s1 s2 s3 s4
  have h1 : s1.MemOk := h.writeSave
  clear_value s1
  have h2 : s2.MemOk := h1.of_mem rfl
  have h3 : s3.MemOk := h2.setCr.setCrFld.setSt
  have h4 : s4.MemOk := h3.setCore.leftCore
  exact h4.enqueueSaved

theorem MemOk.giveFrames {l : List Nat} (h : s.MemOk) : ∀ t ∈ s.giveFrames die l, t.MemOk := by
  induction l generalizing s with
  | nil => exact forall_mem_some h
  | cons c l ih =>
    unfold State.giveFrames
    split
    · exact ih h
    · split
      · exact forall_mem_none
      · split
        · exact forall_mem_none
        · next e => exact ih (MemOk.of_mem (h.takeFp _ e) rfl)

theorem MemOk.giveFramesD {l : List Nat} (h : s.MemOk) : ((s.giveFrames die l).getD s).MemOk := h.getD h.giveFrames

theorem MemOk.place {x : Nat × Nat} (h : s.MemOk) : (s.place q x).MemOk := h.of_mem rfl

theorem MemOk.takeEntry {e : QEntry} (h : s.MemOk) : (s.takeEntry c q e).MemOk :=
  h.qTake.giveFramesD.place.ite (h.modCore.ite (h.modCore.qTake.giveFramesD.foldl fun _ _ h => h.place))

theorem MemOk.pop (h : s.MemOk) : (s.pop c).MemOk := by
  unfold State.pop
  refine h.ite ?_
  split
  · exact h.takeEntry
  · split
    · exact h.takeEntry
    · exact h

theorem MemOk.releaseGangs (h : s.MemOk) : (s.releaseGangs die).MemOk := by
  refine h.foldl fun s e h => ?_
  split
  · exact h.modCore.ite h
  · exact h

theorem MemOk.fillWays (h : s.MemOk) : (s.fillWays cl).MemOk := h.setCluster

end

/-! ## The drain engine and the matrix unit (R274 to R300, R372) -/

section

variable {s : State} {c n : Nat} {d : List Word} {work : DrWork} {x : DrStore} {f : Flt} {elem : BitVec 32} {l : Layout} {hd : Word}
  {scales : List (List Nat × Nat)} {els : List StEl}

theorem MemOk.sendDr (h : s.MemOk) : (sendDr s c d work).MemOk := h.launch.modCore
theorem MemOk.occupy (h : s.MemOk) : (occupy s c n).MemOk := h.modEng

theorem MemOk.drainCommit {k : DrainKind} {g : DxWord} {b : Bool} (h : s.MemOk) : (drainCommit k g c d work b s).MemOk := by
  unfold Machine.drainCommit
  extract_lets s1 t s2
  have h1 : s1.MemOk := h.modCore.ite h
  have h2 : s2.MemOk := h1.modCore.ite h1
  exact h2.sendDr.occupy

end

/-! ## Stores of the drain engine (R303, R235) -/

section

variable {s : State} {c lin n : Nat} {x : DrStore} {f : Flt} {elem : BitVec 32} {l : Layout} {hd : Word} {v : VSel} {b : WinBind}
  {els : List StEl} {scales : List (List Nat × Nat)} {ps : List (StEl × Place)}

theorem MemOk.landStore (h : s.MemOk) : (s.landStore c x).MemOk := h.modCore.modEng
theorem MemOk.failStore (h : s.MemOk) : (s.failStore c x f elem).MemOk := h.modCore.modEng.raiseLate
theorem MemOk.cleanWhole {ps : List Place} (h : s.MemOk) : (s.cleanWhole ps).MemOk := h.ite (h.of_mem rfl)

theorem MemOk.putEls (h : s.MemOk) : (s.putEls hd l v ps scales).MemOk :=
  MemOk.cleanWhole (h.foldl fun _ _ h => h.storePlace)

theorem MemOk.acceptStore (h : s.MemOk) : (s.acceptStore c x l els scales).MemOk := by
  unfold State.acceptStore
  extract_lets hd pr v s0
  split
  · exact h.noteMiss.failStore
  · refine h.ite ?_
    have h0 : s0.MemOk := h.settle.ite h
    split
    · exact h.waitPool
    · next e =>
      split
      · exact h.failStore
      · exact (h0.ownPages _ e).putEls.landStore

theorem MemOk.acceptUpdate {op : Nat} {cmp : List Nat} {ret : Option (Nat × Nat × Nat)} (h : s.MemOk) :
    (s.acceptUpdate c x l op els cmp ret).MemOk := by
  unfold State.acceptUpdate
  extract_lets hd pr need
  split
  · exact h.noteMiss.failStore
  · split
    · exact MemOk.landStore (h.of_mem rfl)
    · extract_lets s0 r codes slot
      have hr : r.1.MemOk :=
        List.foldlRecOn (motive := fun a : State × List (Nat × Nat) × List Nat => a.1.MemOk) _ _ h.settle
          fun _ ha _ _ => ha.applyReq
      exact hr.modCore.landStore

theorem MemOk.passEntry (h : s.MemOk) : (s.passEntry c hd l b lin n).MemOk := by
  unfold State.passEntry
  dsimp only
  split
  · exact h.modCore
  · split
    · exact MemOk.ite (MemOk.modCore (h.of_mem rfl)) h.modCore
    · exact h.modCore

theorem MemOk.acceptEntries (h : s.MemOk) : (s.acceptEntries c x l b els).MemOk := by
  unfold State.acceptEntries
  dsimp only
  split
  · exact h.noteMiss.failStore
  · exact MemOk.landStore (h.foldl fun _ _ h => h.passEntry)

theorem MemOk.acceptWord (h : s.MemOk) : (s.acceptWord c).MemOk := by
  unfold State.acceptWord
  split
  · exact h
  · extract_lets pr withObj
    have hobj : ∀ hd els go, (∀ l, (go l).MemOk) → (withObj hd els go).MemOk := by
      intro hd els go hg
      refine h.ite ?_
      split
      · exact hg _
      · split
        · exact h.landStore
        · exact h.failStore
    split
    · exact h.modCore.landStore
    · exact hobj _ _ _ fun _ => h.acceptStore
    · exact hobj _ _ _ fun _ => h.acceptUpdate
    · split
      · exact hobj _ _ _ fun _ => h.acceptEntries
      · exact h.landStore
    · exact h
    · exact h.failStore

theorem MemOk.kvApply {rm : Nat} {vals : List Nat} (h : s.MemOk) : (s.kvApply c x rm vals).MemOk := by
  unfold State.kvApply
  extract_lets pr hd v zero
  refine h.ite ?_
  split
  · exact h.failStore
  · split
    · exact h.noteMiss.failStore
    · extract_lets pco pk pcw t cells at0
      refine h.failStore.ite (h.failStore.ite (h.failStore.ite ?_))
      split
      · exact h.noteMiss.failStore
      · split
        · exact h.failStore
        · extract_lets places
          refine h.ite ?_
          split
          · exact h.waitPool
          · next s1 e =>
            have h1 : s1.MemOk := h.ownPages _ e
            extract_lets at1
            split
            · exact MemOk.landStore (MemOk.noteRemote (MemOk.writeNum (h1.foldl fun _ _ h => h.storePlace)))
            · exact h1.failStore

end

/-! ## What an engine word does at issue -/

section

variable {s : State} {c n op lo : Nat} {f : Flt} {img : List Word} {g : DxWord} {e : Eng}

theorem MemOk.setLoop {body cnt total : Nat} {rot : Bool} (h : s.MemOk) : (setLoop n body cnt total rot c e s).MemOk := by
  unfold Machine.setLoop
  exact Iss.MemOk.ite trivial (Iss.MemOk.ite h.modEng (Iss.MemOk.ite h.modEng.modCore h.modEng))

theorem MemOk.issueLoad {w : StWord} (h : s.MemOk) : (issueLoad op w c s).MemOk := by
  have hgo : ∀ k d act, (issueLoad.go op w c s k d act).MemOk := fun _ _ _ => Iss.MemOk.ite trivial h.launch.modCore
  unfold Machine.issueLoad
  extract_lets k d hd pr l act
  refine Iss.MemOk.ite h (Iss.MemOk.ite trivial ?_)
  clear_value l
  split
  · exact Iss.MemOk.ite trivial (Iss.MemOk.ite trivial (Iss.MemOk.ite trivial (hgo _ _ _)))
  · exact Iss.MemOk.ite trivial (Iss.MemOk.ite trivial (Iss.MemOk.ite h (hgo _ _ _)))

theorem MemOk.readFrame {cont : List Word → Iss} (h : s.MemOk) (hc : ∀ ws, (cont ws).MemOk) : (readFrame s c lo n cont).MemOk := by
  unfold Machine.readFrame
  split
  · trivial
  · refine Iss.MemOk.ite trivial (Iss.MemOk.ite h ?_)
    split
    · exact h.noteAbsent
    · exact hc _

theorem MemOk.bindDesc (h : s.MemOk) : (bindDesc n img c s).MemOk := by
  unfold Machine.bindDesc
  extract_lets pr hd key dr bad put v
  have hput : ∀ t : State, t.MemOk → ∀ n, (put t n).MemOk := fun t ht n => ht.unpinDesc.modCore
  refine Iss.MemOk.ite trivial (Iss.MemOk.ite h ?_)
  split
  · trivial
  · split
    · trivial
    · refine Iss.MemOk.ite trivial (Iss.MemOk.ite (Iss.MemOk.ite trivial (Iss.MemOk.ite trivial (hput _ h _))) (Iss.MemOk.ite ?_ ?_))
      · split
        · trivial
        · exact hput _ h _
      · split
        · trivial
        · split
          · exact h
          · next e => exact hput _ (h.pin _ e) _

theorem MemOk.bindScale (h : s.MemOk) : (bindScale n img c s).MemOk := by
  unfold Machine.bindScale
  extract_lets pr hd w1 spt bad
  refine Iss.MemOk.ite trivial (Iss.MemOk.ite h ?_)
  split
  · trivial
  · split
    · trivial
    · refine Iss.MemOk.ite trivial ?_
      extract_lets v
      have hpin : ∀ l : Layout, ∀ t ∈ (if l.bench then some s else s.pin (Handle.key hd) v), t.MemOk := by
        intro l
        split
        · exact forall_mem_some h
        · exact h.pin
      split
      · exact h
      · next e =>
        have h1 := hpin _ _ e
        exact (MemOk.ite h1 h1.unpin).modCore

theorem MemOk.drainWord {k : DrainKind} (h : s.MemOk) : (drainWord k g c s).MemOk := by
  unfold Machine.drainWord
  extract_lets q fmt t d v l cold shape seed seedBad ver cells
  refine Iss.MemOk.ite h (Iss.MemOk.ite trivial (Iss.MemOk.ite trivial (Iss.MemOk.ite trivial (Iss.MemOk.ite trivial (Iss.MemOk.ite h ?_)))))
  clear_value ver l
  split
  · trivial
  · refine Iss.MemOk.ite ?_ ?_
    · split
      · exact Iss.MemOk.ite trivial trivial
      · exact Iss.MemOk.ite trivial h.drainCommit
    · split
      · split
        · exact Iss.MemOk.ite trivial trivial
        · exact Iss.MemOk.ite trivial h.drainCommit
      · split
        · exact Iss.MemOk.ite trivial trivial
        · exact Iss.MemOk.ite trivial h.drainCommit

theorem MemOk.dstoreGo {d : List Word} {x : Slot} {l : Option Layout} {cells : List (Nat × List Nat)} {row : Nat → Bool}
    (h : s.MemOk) : (dstoreGo c s d x l cells row).MemOk := by
  unfold Machine.dstoreGo
  split
  · trivial
  · split
    · exact h.sendDr
    · split
      · exact h.sendDr
      · exact h.sendDr

theorem MemOk.dstoreWord (h : s.MemOk) : (dstoreWord g c s).MemOk := by
  unfold Machine.dstoreWord
  extract_lets q d x l
  refine Iss.MemOk.ite h (Iss.MemOk.ite trivial (Iss.MemOk.ite trivial (Iss.MemOk.ite h ?_)))
  split
  · trivial
  · exact h.dstoreGo

theorem MemOk.dstscWord (h : s.MemOk) : (dstscWord g c s).MemOk := by
  unfold Machine.dstscWord
  extract_lets q d x v l
  refine Iss.MemOk.ite h (Iss.MemOk.ite trivial (Iss.MemOk.ite trivial (Iss.MemOk.ite trivial (Iss.MemOk.ite h ?_))))
  split
  · trivial
  · exact h.dstoreGo

theorem MemOk.queueWord {w : MmWord} (h : s.MemOk) : (queueWord op w c s).MemOk := by
  unfold Machine.queueWord
  exact Iss.MemOk.ite h (Iss.MemOk.ite trivial (Iss.MemOk.ite trivial (Iss.MemOk.ite trivial h.launch.modCore.modEng)))

theorem MemOk.firstFault {d : List Word} {hd : Word} {l : Layout} {v : VSel} {els : List StEl} (h : s.MemOk) :
    (firstFault s c d hd l n v els f lo).MemOk := by
  unfold Machine.firstFault
  split
  · exact Iss.MemOk.ite trivial h.noteMiss.sendDr
  · trivial

theorem MemOk.updWord (h : s.MemOk) : (updWord g c s).MemOk := by
  unfold Machine.updWord
  extract_lets k d op v ret pr mom t need
  refine Iss.MemOk.ite trivial (Iss.MemOk.ite (Iss.MemOk.ite trivial trivial) (Iss.MemOk.ite h ?_))
  split
  · exact Iss.MemOk.ite trivial h.sendDr
  · split
    · trivial
    · extract_lets regs els place s1
      have h1 : s1.MemOk := h.modCore.ite h
      split
      · exact h1.firstFault
      · exact h1.sendDr

theorem MemOk.winWord (h : s.MemOk) : (winWord g c s).MemOk := by
  unfold Machine.winWord
  extract_lets k d hd op
  refine Iss.MemOk.ite h (Iss.MemOk.ite trivial (Iss.MemOk.ite h ?_))
  split
  · trivial
  · exact Iss.MemOk.ite trivial (Iss.MemOk.ite trivial h.flushWindow.modCore)

theorem MemOk.accWord (h : s.MemOk) : (accWord g c s).MemOk := by
  unfold Machine.accWord
  extract_lets k v n idx val
  split
  · trivial
  · refine Iss.MemOk.ite trivial (Iss.MemOk.ite h ?_)
    extract_lets js
    split
    · split
      · exact h.sendDr
      · exact h.firstFault
    · exact h.sendDr

theorem MemOk.flushTry (h : s.MemOk) : (flushTry c s).MemOk := by
  unfold Machine.flushTry
  extract_lets s1
  have h1 : s1.MemOk := h.ite h.flushWindow
  exact Iss.MemOk.ite h1 (Iss.MemOk.ite h1.modCore h1)

theorem MemOk.kvappWord (h : s.MemOk) : (kvappWord g c s).MemOk := by
  unfold Machine.kvappWord
  extract_lets k d v
  refine Iss.MemOk.ite h (Iss.MemOk.ite trivial (Iss.MemOk.ite trivial (Iss.MemOk.ite trivial (Iss.MemOk.ite h ?_))))
  split
  · trivial
  · refine Iss.MemOk.ite trivial (Iss.MemOk.ite trivial (Iss.MemOk.ite trivial (Iss.MemOk.ite trivial ?_)))
    split
    · exact h.noteMiss
    · extract_lets m els
      split
      · trivial
      · exact h.sendDr

theorem MemOk.maLaunch {unit occ lat : Nat} {dsts : List MaDst} (h : s.MemOk) : (maLaunch s c e unit occ lat dsts).MemOk :=
  h.modCore.launch

theorem MemOk.startCmd {q : MqEntry} (h : s.MemOk) : (startCmd s c q).MemOk := h.modCore.modEng.raiseLate.ite h.modCore.modCore

end

/-! ## Tasks and teams (R118 to R131) -/

section

variable {s : State} {c n j q crid detail : Nat} {img : List Word} {link : Bool} {a : Word} {t : Team}

theorem MemOk.readImage {cont : List Word → State} (h : s.MemOk) (hc : ∀ ws, (cont ws).MemOk) : (s.readImage c a cont).MemOk :=
  h.raiseCt.ite (h.viewRead fun _ => hc _)

theorem MemOk.spawn (h : s.MemOk) : (s.spawn c n img j q link).MemOk := by
  unfold State.spawn
  extract_lets s1 s2 s3
  have h1 : s1.MemOk := h.newRecord
  clear_value s1
  have h2 : s2.MemOk := h1.of_mem rfl
  have h3 : s3.MemOk := h2.setCrFld.ite h2
  exact (h3.enqueue.ite h3).expose

theorem MemOk.continueAs (h : s.MemOk) : (s.continueAs c n img).MemOk := by
  unfold State.continueAs
  extract_lets k tm rank s1 s2 s3 s4
  have h2 : s2.MemOk := h.newRecord.setCrFld
  clear_value s2
  have h3 : s3.MemOk := h2.of_mem rfl
  have h4 : s4.MemOk := by
    unfold s4
    split
    · exact h3.setTeam
    · exact h3
  exact h4.modCore.expose

theorem MemOk.exitTask (h : s.MemOk) : (s.exitTask c).MemOk := MemOk.endTask (MemOk.expose (h.joinFork.ite h))
theorem MemOk.teamBad (h : s.MemOk) : (s.teamBad c detail).MemOk := h.raiseCt
theorem MemOk.joinTeam (h : s.MemOk) : (s.joinTeam t crid).MemOk := h.setTeam

theorem MemOk.unqueueGang (h : s.MemOk) : (s.unqueueGang t).MemOk := by
  unfold State.unqueueGang
  extract_lets ms q k
  split
  · exact h
  · exact MemOk.setTeam (h.setQueue.foldl fun _ _ h => h.modCore)

theorem MemOk.joinGang (h : s.MemOk) : (s.joinGang c t).MemOk := by
  unfold State.joinGang
  extract_lets n follow stops s1 src s2
  have h1 : s1.MemOk := h.unqueueGang.ite h
  clear_value s1
  have h2 : s2.MemOk := h1.of_mem rfl
  exact h2.beginStop.ite h2

theorem MemOk.modMember {f : Member → Member} (h : s.MemOk) : (s.modMember crid f).MemOk := by
  unfold State.modMember
  split
  · exact h.setTeam
  · exact h

theorem MemOk.arrive (h : s.MemOk) : (s.arrive crid).MemOk := h.modMember.tryBarrier

end

/-! ## The copy engine (R330 to R360) -/

section

variable {s : State} {c t0 n : Nat} {j : Job} {card : List Word} {x : Word} {d : BitVec 5}

theorem MemOk.acceptJob {cont : State → Word → State} (h : s.MemOk) (hc : ∀ (t : State) w, t.MemOk → (cont t w).MemOk) :
    (s.acceptJob c card t0 cont).MemOk := by
  unfold State.acceptJob
  extract_lets t pr die j0 regs j first flat
  refine h.ctIllop.ite (h.ctIllop.ite ?_)
  split
  · exact h.raiseCt
  · refine h.ite ?_
    split
    · exact h.raiseCt
    · refine h.raiseCt.ite (h.raiseCt.ite (h.raiseCt.ite ?_))
      split
      · exact h.ctIllop
      · extract_lets vers s1
        have h1 : s1.MemOk := h.foldl fun _ _ h => h.ite (h.getD h.pin)
        clear_value s1
        exact h.raiseCt.ite ((hc _ _ h).ite (hc _ _ (h1.of_mem rfl)))

theorem MemOk.setJob (h : s.MemOk) : (s.setJob j).MemOk := h.of_mem rfl
theorem MemOk.freeJob (h : s.MemOk) : (s.freeJob j).MemOk := h.of_mem rfl
theorem MemOk.ringSet (h : s.MemOk) : (s.ringSet j).MemOk := h.ite (h.modRing.ite h.modCore)
theorem MemOk.tileDone (h : s.MemOk) : (s.tileDone j).MemOk := h.ringSet.endJob.ite h.ringSet.setJob
theorem MemOk.faultJob {e : JFlt} (h : s.MemOk) : (s.faultJob j e).MemOk := MemOk.endJob (h.noteMiss.ite h)

theorem MemOk.regionWrite {v : TileV} (h : s.MemOk) : (s.regionWrite j n v).MemOk := by
  unfold State.regionWrite
  extract_lets hd pr sel
  split
  · trivial
  · split
    · trivial
    · dsimp only
      split
      · trivial
      · split
        · trivial
        · split
          · trivial
          · next e =>
            split
            · trivial
            · exact (h.ownPages _ e).putEls

theorem MemOk.workTile (h : s.MemOk) : (s.workTile j).MemOk := by
  unfold State.workTile
  split
  · trivial
  · trivial
  · dsimp only
    split
    · exact h.regionWrite
    · exact h.modCore

theorem MemOk.doTile (h : s.MemOk) : (s.doTile j).MemOk := by
  unfold State.doTile
  split
  · next e => exact MemOk.tileDone (e ▸ h.workTile :)
  · exact h.faultJob
  · exact h.ite h.postPool.setJob
  · exact h

theorem MemOk.moveJob (h : s.MemOk) : (s.moveJob j).MemOk :=
  h.ite (h.setJob.ite ((h.modRing.setJob.ite h.setJob).ite (h.setJob.ite h.doTile)))

theorem MemOk.cwait {wait : State → State} (h : s.MemOk) (hw : (wait s).MemOk) : (s.cwait c x d wait).MemOk := by
  unfold State.cwait
  split
  · exact h.ctDone
  · exact h.freeJob.ctDone.ite hw

end

/-! ## Objects (R160 to R204) -/

section

variable {s : State} {c n key ver kind holder : Nat} {hd w : Word} {flagOp home acc team b r : Bool} {d : BitVec 5} {l : Layout}
  {hold wait : State → State}

/-- The checks of an object instruction keep the form where what it does with the object keeps it. -/
theorem MemOk.objStep {cont : Layout → State} (h : s.MemOk) (hh : (hold s).MemOk) (hc : ∀ l, (cont l).MemOk) :
    (s.objStep c hd n flagOp home acc hold cont).MemOk := by
  unfold State.objStep
  extract_lets pr
  refine hh.ite ?_
  split
  · exact h.raiseCt
  · refine h.raiseCt.ite ?_
    split
    · exact h.raiseCt
    · exact hc _

theorem MemOk.benchRefused (h : s.MemOk) : (s.benchRefused c).MemOk := h.raiseCt
theorem MemOk.setClaim (h : s.MemOk) : (s.setClaim key kind holder).MemOk := h.setEw.fixEntry

theorem MemOk.claim (h : s.MemOk) : ∀ r ∈ s.claim key l kind holder, r.2.MemOk := by
  unfold State.claim
  extract_lets v
  split
  · refine forall_mem_some ?_
    split
    · exact h
    · exact h
  · split
    · exact forall_mem_some h
    · split
      · exact forall_mem_none
      · next e => exact forall_mem_some (h.openDraft _ e).setClaim

theorem MemOk.oclaim (h : s.MemOk) (hw : ∀ t : State, t.MemOk → (wait t).MemOk) : (s.oclaim c hd team d wait).MemOk := by
  refine h.objStep h fun l => ?_
  extract_lets t tm
  refine h.benchRefused.ite (h.teamBad.ite ?_)
  split
  · next e => exact MemOk.ctDone (MemOk.modCore (h.claim _ e))
  · exact hw _ h.waitPool

theorem MemOk.publishDraft (h : s.MemOk) : (s.publishDraft key).MemOk := by
  unfold State.publishDraft
  exact h.publish.rebindDraft

theorem MemOk.opub (h : s.MemOk) (hw : (wait s).MemOk) : (s.opub c hd d wait).MemOk :=
  h.objStep h fun _ => h.benchRefused.ite (h.ctDone.ite (hw.ite (h.ctDone.ite (hw.ite h.publishDraft.expose.ctDone))))

theorem MemOk.osub (h : s.MemOk) (hw : (wait s).MemOk) : (s.osub c hd n d wait).MemOk := h.objStep hw fun _ => h.ctDone.ite hw
theorem MemOk.setFlag (h : s.MemOk) : (s.setFlag key w).MemOk := h.of_mem rfl
theorem MemOk.flacq (h : s.MemOk) (hw : (wait s).MemOk) : (s.flacq c hd w d wait).MemOk := h.objStep hw fun _ => h.ctDone.ite hw
theorem MemOk.countPin (h : s.MemOk) : (s.countPin c key ver b).MemOk := h.modCore

theorem MemOk.mapView {back : Backing} (h : s.MemOk) : (s.mapView c l back r b d).MemOk := by
  unfold State.mapView
  extract_lets k size s1
  have h1 : s1.MemOk := by
    unfold s1
    split
    · exact h.getD h.pin
    · exact h
  split
  · exact h.ctDone
  · exact h1.modCore.ctDone

end

/-! ## Collectives (R400 to R410) -/

section

variable {s : State} {c p n key page sec low instr : Nat} {k : ClCard} {x : Coll} {src dst grp l : Layout} {ms : List Nat} {d a b : BitVec 5}
  {w : Word} {negv : Bool} {recs : List (Nat × Nat)}

theorem MemOk.acceptColl (h : s.MemOk) : (s.acceptColl c k src dst grp ms d).MemOk := by
  unfold State.acceptColl
  extract_lets t pr kd ks kg sv gv s1 s2
  have h1 : s1.MemOk := h.ite (h.getD h.pin)
  have h2 : s2.MemOk := h1.getD h1.pin
  clear_value s2
  split
  · exact h.done
  · extract_lets x s3
    have h3 : s3.MemOk := h2.of_mem rfl
    exact h.done.ite (h.done.ite h3.expose.done)

theorem MemOk.clStart (h : s.MemOk) : (s.clStart c k d).MemOk := by
  unfold State.clStart
  extract_lets pr gsel
  refine h.ctIllop.ite (h.ite ?_)
  split
  · exact h.raiseCt
  · split
    · exact h.raiseCt
    · split
      · exact h.raiseCt
      · split
        · exact h.raiseCt
        · split
          · exact h.noteMiss.raiseCt
          · exact h.raiseCt.ite h.acceptColl

theorem MemOk.collInstr (h : s.MemOk) : (collInstr instr b a d c s).MemOk :=
  h.raiseCt.ite (h.viewRead fun _ => h.ctIllop.ite (h.ctIllop.ite h.clStart))

theorem MemOk.setColl (h : s.MemOk) : (s.setColl x).MemOk := h.of_mem rfl
theorem MemOk.sendPiece {e : Nat × List Byte} (h : s.MemOk) : (s.sendPiece x p e).MemOk := MemOk.sendMsg (h.of_mem rfl)

theorem MemOk.contribute (h : s.MemOk) : (s.contribute x).MemOk := by
  unfold State.contribute
  extract_lets pr
  refine h.ite ?_
  split
  · exact h
  · split
    · exact h.endColl.ite (h.ite h.noteMiss.setColl)
    · exact MemOk.setColl (h.foldl fun _ _ h => h.foldl fun _ _ h => h.sendPiece)

theorem MemOk.markLost (h : s.MemOk) : (s.markLost key l page sec).MemOk := by
  unfold State.markLost
  split
  · exact h
  · exact h.markPoison.ite (h.ite (h.of_mem rfl))

theorem MemOk.finishColl (h : s.MemOk) : (s.finishColl x l low).MemOk := h.setColl.ite h.endColl

theorem MemOk.writeColl (h : s.MemOk) : (s.writeColl x l recs negv).MemOk := by
  unfold State.writeColl
  extract_lets pr key sel els tried good bad scales
  refine h.ite ?_
  split
  · exact h.ite h.postPool.setColl
  · next e => exact MemOk.finishColl (MemOk.foldl (h.ownPages _ e).putEls fun _ _ h => h.markLost)

theorem MemOk.moveColl (h : s.MemOk) : (s.moveColl x).MemOk := by
  unfold State.moveColl
  refine h.ite ?_
  split
  · exact h.contribute
  · exact h.finishColl
  · exact h.endColl.ite ((h.ite h.writeColl).ite (h.endColl.ite h))

theorem MemOk.clwait {wait : State → State} (h : s.MemOk) (hw : (wait s).MemOk) : (s.clwait c w d wait).MemOk := by
  unfold State.clwait
  split
  · exact h.ctDone
  · split
    · exact hw
    · exact MemOk.ctDone (h.of_mem rfl)

end

/-! ## Command lists (R132 to R157) -/

section

variable {s : State} {c i n m die team sh ver : Nat} {hd idx : Word} {e : QEntry} {f : Flt} {k : ClHold} {cs : List Nat} {p : Preempt}

theorem MemOk.listError (h : s.MemOk) : (s.listError i n m).MemOk := h.modInterp.postNotice
theorem MemOk.listGo (h : s.MemOk) : (s.listGo i hd idx).MemOk := h.modInterp
theorem MemOk.listNext (h : s.MemOk) : (s.listNext i).MemOk := h.listGo
theorem MemOk.listEnd (h : s.MemOk) : (s.listEnd i).MemOk := h.modInterp
theorem MemOk.listFault (h : s.MemOk) : (s.listFault i hd sh ver f).MemOk := MemOk.listError (h.noteAt.ite h)
theorem MemOk.listWait (h : s.MemOk) : (s.listWait i k).MemOk := h.modInterp
theorem MemOk.listBegin (h : s.MemOk) : (s.listBegin i k).MemOk := h.modInterp

theorem MemOk.launchFirst (h : s.MemOk) : (s.launchFirst i k team).MemOk := by
  unfold State.launchFirst
  extract_lets e parent s1 s2
  have h1 : s1.MemOk := h.modInterp
  have h2 : s2.MemOk := h1.ite h1.setCrFld
  exact h2.setTeam.ite h2

theorem MemOk.launchOne (h : s.MemOk) : (s.launchOne i n k team).MemOk := by
  unfold State.launchOne
  extract_lets e idx q s1 s2 s3
  have h2 : s2.MemOk := h.newRecord.setCr
  have h3 : s3.MemOk := h2.of_mem (by simp only [s3])
  split
  · split
    · exact h3.setTeam
    · exact h3
  · exact h3.enqueue.ite h3

theorem MemOk.launchGo (h : s.MemOk) : (s.launchGo i k).MemOk := by
  unfold State.launchGo
  extract_lets e x hold read q
  clear_value read
  refine h.listWait.ite (h.listWait.ite ?_)
  split
  · exact h.listFault
  · split
    · exact h.listError
    · extract_lets k' id room
      split
      · next t n _ _ =>
        have h1 : (if k'.made.isEmpty then s.launchFirst i k' t else s).MemOk := h.launchFirst.ite h
        refine h.listWait.ite (MemOk.ite h1.launchOne.listWait (MemOk.listNext (MemOk.ite ?_ h1.launchOne)))
        exact h1.launchOne.enqueueGang
      · exact h.listWait

theorem MemOk.waitevGo (h : s.MemOk) : (s.waitevGo i k).MemOk := by
  unfold State.waitevGo
  extract_lets e
  refine (h.listNext.ite h.listWait).ite (h.listWait.ite ?_)
  split
  · exact h.listFault
  · exact h.listNext.ite h.listWait

theorem MemOk.signalGo (h : s.MemOk) : (s.signalGo i k).MemOk := by
  unfold State.signalGo
  extract_lets e
  refine h.listWait.ite ?_
  split
  · exact h.listFault
  · exact h.setFlag.listNext

theorem MemOk.publishGo (h : s.MemOk) : (s.publishGo i k).MemOk := by
  unfold State.publishGo
  extract_lets e key off
  refine h.listWait.ite ?_
  split
  · exact h.listFault
  · refine h.listError.ite (h.listWait.ite ?_)
    split
    · exact MemOk.listWait (h.ite h.postPool)
    · next s1 e =>
      obtain ⟨s0, e0, e1⟩ := Option.bind_eq_some_iff.1 e
      have h1 : s1.MemOk := (h.openDraft _ e0).ownPage _ e1
      split
      · exact h.listFault
      · exact h.listWait.ite h1.writeNum.noteRemote.publish.listNext

theorem MemOk.passGo (h : s.MemOk) : (s.passGo i k).MemOk := h.listWait.ite h.modInterp.listNext

theorem MemOk.stopMembers (h : s.MemOk) : (s.stopMembers cs m).MemOk := h.ite (h.foldl fun _ _ h => h.beginStop)
theorem MemOk.startPreempt (h : s.MemOk) : (s.startPreempt die cs n).MemOk := MemOk.stopMembers (h.of_mem rfl)

theorem MemOk.preemptGo (h : s.MemOk) : (s.preemptGo i k).MemOk := by
  unfold State.preemptGo
  extract_lets e
  split
  · split
    · exact h.listNext
    · exact h.startPreempt.listWait.ite h.startPreempt.listNext
  · exact h.listWait.ite h.listNext

theorem MemOk.discardOne (h : s.MemOk) : (s.discardOne c).MemOk := by
  unfold State.discardOne
  extract_lets t s1 s2 s3 s4 s5 k s6 s7
  have h3 : s3.MemOk := h.flushWindow.disownUpdates.orphanJobs.refuseColls.releasePins
  have h4 : s4.MemOk := h3.foldl fun _ _ h => h.closeDraft
  clear_value s4
  have h6 : s6.MemOk := h4.of_mem rfl
  exact h6.setCr.setCrFld.setCrFld.setCore

theorem MemOk.discardAll (h : s.MemOk) : (s.discardAll p).MemOk := by
  unfold State.discardAll
  extract_lets cs byLaunch s1 s2 s3 s4 s5
  have h1 : s1.MemOk := h.foldl fun _ _ h => h.discardOne
  have h2 : s2.MemOk := h1.ite h1.dissolve
  have h3 : s3.MemOk := h2.of_mem (by simp only [s3])
  have h4 : s4.MemOk := h3.foldl fun _ _ h => h.setSt
  have h5 : s5.MemOk := h3.ite h3.reTeam
  exact MemOk.ite (MemOk.reTeam (h4.of_mem (by dsimp only))) (h5.foldl fun _ _ h => h.setCrFld.enqueue)

end

/-! ## The Foreman's instructions (R415 to R438) -/

section

variable {s : State} {i key n : Nat} {d : BitVec 5}

theorem MemOk.unlockEntry {wait : State → State} (h : s.MemOk) (hw : (wait s).MemOk) : (s.unlockEntry i key d wait).MemOk :=
  MemOk.ite (MemOk.modHart (h.of_mem rfl)) hw

theorem MemOk.countYard (h : s.MemOk) : (s.countYard key n).MemOk := by
  unfold State.countYard
  split
  · exact h.countHpc
  · exact h

theorem MemOk.pageBegin (h : s.MemOk) : (s.pageBegin i key d).MemOk := h.done.ite (MemOk.done (h.of_mem rfl))

theorem MemOk.markBack (h : s.MemOk) : (s.markBack key).MemOk := by
  unfold State.markBack
  split
  · exact h
  · exact MemOk.foldl (h.of_mem rfl) fun _ _ h => h.markPoison

theorem MemOk.pageRelease (h : s.MemOk) : (s.pageRelease key).MemOk := h.of_mem rfl
theorem MemOk.redoHeld {m : Nat} (h : s.MemOk) : (s.redoHeld n m).MemOk := h.of_mem rfl

theorem MemOk.commitDone (h : s.MemOk) : (s.commitDone i key d).MemOk := by
  unfold State.commitDone
  extract_lets old frameKey s0 s1 s2
  have h0 : s0.MemOk := h.redoHeld
  have h1 : s1.MemOk := by
    unfold s1
    split
    · exact h0.refAdd
    · exact h0
  have h2 : s2.MemOk := by
    unfold s2
    split
    · exact h1.refSub
    · exact h1
  exact h2.pageRelease.modHart

end

/-! ## The extensions of a hart -/

section

variable {s : State} {i n va x len f5 : Nat} {w v : Word} {b : BitVec 32} {rd : BitVec 5} {dbl : Bool}

theorem MemOk.hartDone (h : s.MemOk) : (s.hartDone i len rd v).MemOk := h.modHart
theorem MemOk.hartNext (h : s.MemOk) : (s.hartNext i len).MemOk := h.modHart

theorem MemOk.atomicWhere {acc : Nat} (h : s.MemOk) : (s.atomicWhere i va n acc).MemOk := by
  unfold State.atomicWhere
  split
  · exact h.hartTrap
  · split
    · split
      · exact h.hartTrap
      · split
        · exact h.hartTrap
        · split <;> trivial
    · exact h.hartFail

theorem MemOk.loadReserved (h : s.MemOk) : (s.loadReserved i va n rd).MemOk := by
  unfold State.loadReserved
  split
  · next e => exact (e ▸ h.atomicWhere :)
  · exact h
  · split
    · next e => exact MemOk.hartTrap (e ▸ h.hartRead :)
    · next t e =>
      have ht : t.MemOk := (e ▸ h.hartRead :)
      exact MemOk.hartDone (ht.of_mem rfl)

theorem MemOk.storeConditional (h : s.MemOk) : (s.storeConditional i va n x rd).MemOk := by
  unfold State.storeConditional
  split
  · next e => exact (e ▸ h.atomicWhere :)
  · exact h
  · extract_lets free
    have hf : free.MemOk := h.of_mem rfl
    exact hf.hartWriteD.hartDone.ite hf.hartDone

theorem MemOk.amo (h : s.MemOk) : (s.amo i va n f5 x rd).MemOk := by
  unfold State.amo
  split
  · next e => exact (e ▸ h.atomicWhere :)
  · exact h
  · split
    · next e => exact MemOk.hartTrap (e ▸ h.hartRead :)
    · next t e =>
      have ht : t.MemOk := (e ▸ h.hartRead :)
      exact ht.hartWriteD.hartDone

theorem MemOk.hartAtomic (h : s.MemOk) : (s.hartAtomic i b).MemOk :=
  h.hartIllegal.ite ((h.loadReserved.ite h.hartIllegal).ite (h.storeConditional.ite (h.hartIllegal.ite h.amo)))

theorem MemOk.hartFLoad (h : s.MemOk) : (s.hartFLoad i len dbl va rd).MemOk := h.hartLoad fun _ _ h => h.modHart.hartNext
theorem MemOk.hartFStore (h : s.MemOk) : (s.hartFStore i len dbl va rd).MemOk := h.hartStore fun _ h => h.hartNext

theorem MemOk.hartFp {o : Option FpOut} (h : s.MemOk) : (s.hartFp i b o).MemOk := by
  unfold State.hartFp
  split
  · exact h.hartIllegal
  · exact h.modHart.hartNext
  · exact h.modHart.hartDone

theorem MemOk.hartFloat (h : s.MemOk) : (s.hartFloat i b).MemOk :=
  h.hartIllegal.ite ((h.hartFLoad.ite h.hartIllegal).ite ((h.hartFStore.ite h.hartIllegal).ite (h.hartFp.ite h.hartFp)))

theorem MemOk.shortJump (h : s.MemOk) : (s.shortJump i rd v).MemOk := h.modHart

theorem MemOk.hartShort (h : s.MemOk) : (s.hartShort i n).MemOk := by
  unfold State.hartShort
  extract_lets k bad nop rd rs2 r7 r2 sp wr ld st fl fs plus imm6 imm sh offW offD offB offJ a7
  have hbad : bad.MemOk := h.hartIllegal
  have hnop : nop.MemOk := h.hartNext
  have hwr : ∀ r v, (wr r v).MemOk := fun _ _ => h.hartDone
  have hld : ∀ op r a, (ld op r a).MemOk := fun _ _ _ => h.hartLoad fun _ _ h => h.hartDone
  have hst : ∀ m r a, (st m r a).MemOk := fun _ _ _ => h.hartStore fun _ h => h.hartNext
  have hfl : ∀ r a, (fl r a).MemOk := fun _ _ => hbad.ite h.hartFLoad
  have hfs : ∀ r a, (fs r a).MemOk := fun _ _ => hbad.ite h.hartFStore
  clear_value bad nop wr ld st fl fs
  split
  · exact hbad.ite (hwr _ _)
  · exact hfl _ _
  · exact hld _ _ _
  · exact hld _ _ _
  · exact hfs _ _
  · exact hst _ _ _
  · exact hst _ _ _
  · exact hwr _ _
  · exact hbad.ite (hwr _ _)
  · exact hwr _ _
  · exact (hbad.ite (hwr _ _)).ite (hbad.ite (hwr _ _))
  · split
    · exact hwr _ _
    · exact hwr _ _
    · exact hwr _ _
    · exact hwr _ _
    · exact hwr _ _
    · exact hwr _ _
    · exact hwr _ _
    · exact hwr _ _
    · exact hwr _ _
    · exact hbad
  · exact h.shortJump
  · exact h.shortJump.ite hnop
  · exact hnop.ite h.shortJump
  · exact hwr _ _
  · exact hfl _ _
  · exact hbad.ite (hld _ _ _)
  · exact hbad.ite (hld _ _ _)
  · exact ((hwr _ _).ite (hbad.ite h.shortJump)).ite ((hwr _ _).ite (h.hartTrap.ite h.shortJump))
  · exact hfs _ _
  · exact hst _ _ _
  · exact hst _ _ _
  · exact hbad

theorem MemOk.hartOther (h : s.MemOk) : (s.hartOther i b).MemOk :=
  h.hartShort.ite ((h.modHart.ite h.hartIllegal).ite ((h.hartIllegal.ite h.hartNext).ite (h.hartNext.ite (h.hartAtomic.ite
    (h.hartFloat.ite h.hartIllegal)))))

end

/-! ## Handing pages on (R383 to R391) -/

section

variable {s : State} {c a n tm : Nat} {w v hd : Word} {d p q : BitVec 5} {l : HandList} {kind : WaitKind}

theorem MemOk.viewWords {cont : List Word → State} (h : s.MemOk) (hc : ∀ ws, (cont ws).MemOk) : (s.viewWords c a n cont).MemOk := by
  unfold State.viewWords
  extract_lets rs
  refine h.ite ?_
  split
  · exact h.raiseAccess
  · exact hc _

theorem MemOk.handList {cont : HandList → State} (h : s.MemOk) (hc : ∀ l, (cont l).MemOk) : (s.handList c w cont).MemOk :=
  h.raiseCt.ite (h.viewWords fun _ => h.ctIllop.ite (h.viewWords fun _ => h.ctIllop.ite (hc _)))

theorem MemOk.waitList (h : s.MemOk) : (s.waitList c kind p q d l).MemOk := h.modCt

theorem MemOk.handChecks {hs : List Word} {cont : State → State} (h : s.MemOk) (hc : (cont s).MemOk) :
    (s.handChecks c hs cont).MemOk := by
  induction hs with
  | nil => exact hc
  | cons hd hs ih =>
    unfold State.handChecks
    extract_lets pr
    refine h.ite ?_
    split
    · exact h.raiseCt
    · refine h.raiseCt.ite (h.raiseCt.ite ?_)
      split
      · exact h.raiseCt
      · exact ih

theorem MemOk.handPage (h : s.MemOk) : (s.handPage tm hd).MemOk := by
  unfold State.handPage
  extract_lets key s1 s2
  have h2 : s2.MemOk := h.publishDraft.setEw
  exact h2.of_mem (by dsimp only)

theorem MemOk.handEvent {wait : State → State} (h : s.MemOk) (hw : (wait s).MemOk) : (s.handEvent c l v d wait).MemOk := by
  unfold State.handEvent
  extract_lets pr ps lay lost
  refine hw.ite (h.raiseCt.ite (h.ctDone.ite ?_))
  split
  · exact h.ctDone
  · split
    · exact h.ctDone
    · exact hw.ite (MemOk.ctDone (MemOk.expose (MemOk.setFlag (h.foldl fun _ _ h => h.handPage))))

theorem MemOk.kvhand {wait : HandList → State → State} (h : s.MemOk) (hw : ∀ l, (wait l s).MemOk) : (s.kvhand c w v d wait).MemOk :=
  h.raiseCt.ite (h.handList fun _ => h.objStep h fun _ => h.handChecks (h.handEvent (hw _)))

theorem MemOk.takePage (h : s.MemOk) : (s.takePage c hd).MemOk := MemOk.countPin (h.getD h.pin)

theorem MemOk.takeEvent {wait : State → State} (h : s.MemOk) (hw : (wait s).MemOk) : (s.takeEvent c l v d wait).MemOk := by
  unfold State.takeEvent
  extract_lets pr
  refine hw.ite (h.raiseCt.ite (hw.ite ?_))
  split
  · exact h.raiseCt
  · exact h.ctDone
  · exact MemOk.ctDone (h.foldl fun _ _ h => h.takePage)

theorem MemOk.kvtake {hold : State → State} {wait : HandList → State → State} (h : s.MemOk) (hh : (hold s).MemOk)
    (hw : ∀ l, (wait l s).MemOk) : (s.kvtake c w v d hold wait).MemOk :=
  h.raiseCt.ite (h.handList fun _ => h.objStep hh fun _ => h.ctDone.ite (h.takeEvent (hw _)))

end

/-! ## Forms of engine words and list entries -/

section

variable {s : State} {F : VForm} {unit occ lat : Nat} {g : Guard} {f : VrWord}

theorem MemOk.vWord {pois : Core → VrWord → List Bool → Option Nat} {res : Core → VrWord → List Bool → List (Option Nat)}
    (h : s.MemOk) : NextOk (vWord F unit occ lat pois res g f s) := by
  refine h.issueWord fun c e => ?_
  extract_lets k act
  refine Iss.MemOk.ite h (Iss.MemOk.ite trivial (Iss.MemOk.ite trivial ?_))
  split
  · trivial
  · exact h.maLaunch

theorem MemOk.vElem {fn : Nat → Nat → Nat → Nat → Nat} (h : s.MemOk) : NextOk (vElem F unit occ lat fn g f s) := h.vWord
theorem MemOk.vPerm {src : Nat → Nat → Nat} (h : s.MemOk) : NextOk (vPerm F occ lat src g f s) := h.vWord
theorem MemOk.pWord {res : Core → BitVec 1024} (h : s.MemOk) : NextOk (pWord F res g f s) := h.vWord

theorem MemOk.moWord {u : MoUse} {fn : Core → Nat → MoArgs → Nat × Nat} (h : s.MemOk) :
    NextOk (moWord F u occ lat fn g f s) := by
  refine h.issueWord fun c e => ?_
  extract_lets k vec names act
  refine Iss.MemOk.ite h (Iss.MemOk.ite trivial (Iss.MemOk.ite trivial (Iss.MemOk.ite trivial ?_)))
  split
  · trivial
  · exact MemOk.maLaunch (h.modCore.ite h)

theorem MemOk.listEntry {e : ClEntry} {bad : Bool} {body : Nat → ClHold → State → State} (h : s.MemOk)
    (hb : ∀ i k (t : State), t.MemOk → (body i k t).MemOk) : NextOk (listEntry e bad body s) := by
  unfold Machine.listEntry
  extract_lets i k
  exact NextOk.ite h (NextOk.ite h.listError (hb _ _ _ h.listBegin))

theorem MemOk.spdmAnswer {a : SpdmAnswer} (h : s.MemOk) : NextOk (spdmAnswer a s) := MemOk.ite h (h.of_mem rfl)

end

/-! ## Rows of boot, links, registers and harts -/

section

variable {s : State} {m msg : List Byte} {wr : Bool} {n size bank : Nat} {w pa data : Word} {rd : BitVec 5} {e : Eng} {v : BitVec 16}

theorem MemOk.execHelperRsp (h : s.MemOk) : NextOk (execHelperRsp msg s) := by
  unfold Machine.execHelperRsp
  split
  · split
    · exact h.bootFail
    · exact MemOk.bootNext (MemOk.atStep (h.nonce.of_mem rfl))
  · exact h

theorem MemOk.execImageRsp (h : s.MemOk) : NextOk (execImageRsp msg s) := by
  unfold Machine.execImageRsp
  extract_lets b off total have_ data src s1
  have h1 : s1.MemOk := h.of_mem rfl
  exact NextOk.ite (NextOk.ite h.bootFail (h1.bootImage.ite h1.askImage)) h

theorem MemOk.execBootRetryTimer (h : s.MemOk) : NextOk (execBootRetryTimer s) := by
  unfold Machine.execBootRetryTimer
  split
  · exact h
  · exact NextOk.ite h (MemOk.discover (h.of_mem rfl))

theorem MemOk.execCxlMemAccess (h : s.MemOk) : NextOk (execCxlMemAccess wr w m s) :=
  NextOk.ite h (NextOk.ite (h.ite (h.of_mem rfl)) (NextOk.ite (MemOk.ite (h.of_mem rfl) h.storeSpan) (h.of_mem rfl)))

theorem MemOk.execThermChange (h : s.MemOk) : NextOk (execThermChange n s) := by
  unfold Machine.execThermChange
  extract_lets s1
  have h1 : s1.MemOk := h.of_mem rfl
  exact h1.setTherm.ite h1

theorem MemOk.execFlitData (h : s.MemOk) : NextOk (execFlitData m s) := by
  refine h.recvFlit fun t h => ?_
  extract_lets k vc m k'
  refine h.ite (h.setPort.ite ?_)
  split
  · exact h.setPort.bumpReg
  · exact h.of_mem rfl

theorem MemOk.execRdrsp (h : s.MemOk) : NextOk (execRdrsp msg s) := by
  refine h.arrived fun t h => ?_
  split
  · exact h
  · extract_lets s1
    have h1 : s1.MemOk := h.bringSector
    exact h1.of_mem (by dsimp only)

theorem MemOk.execPaAccess (h : s.MemOk) : NextOk (execPaAccess wr size pa data rd s) := by
  unfold Machine.execPaAccess
  extract_lets k a
  split
  · split
    · exact h.hartTrap
    · refine NextOk.ite h ?_
      split
      · exact h.hartTrap
      · next e => exact h.hartWrite _ e
  · split
    · next e => exact MemOk.modHart (e ▸ h.hartRead :)
    · next e => exact MemOk.hartTrap (e ▸ h.hartRead :)

theorem MemOk.interrupt {i : Nat} (h : s.MemOk) : (s.interrupt n i).MemOk := h.modHart.ite h
theorem MemOk.interruptOf {i j : Nat} (h : s.MemOk) : (s.interruptOf n i j).MemOk := h.interrupt

theorem MemOk.execBankApply (h : s.MemOk) : NextOk (execBankApply s) := by
  unfold Machine.execBankApply
  extract_lets d
  split
  · exact h
  · exact MemOk.applyReq (h.of_mem rfl)

theorem MemOk.execBankWake (h : s.MemOk) : NextOk (execBankWake bank s) := by
  unfold Machine.execBankWake
  extract_lets c file b
  split
  · exact h.modCore.wakeUpsets.ite h
  · exact h

theorem MemOk.execVsleepEffect (h : s.MemOk) : NextOk (execVsleepEffect s) := by
  unfold Machine.execVsleepEffect
  extract_lets c
  split
  · exact NextOk.ite h.modCore.issued.modEng h
  · exact NextOk.ite h.modEng h
  · exact h

end

/-! ## Rows of a control sequencer -/

section

variable {s : State} {c : Nat} {a b d r : BitVec 5} {imm : BitVec 12} {e : BitVec 2} {w : Word}

theorem MemOk.execRv64IntegerInstruction {op : RvOp} (h : s.MemOk) : NextOk (execRv64IntegerInstruction op s) := by
  cases op with
  | jal => exact h.jump
  | br => exact h.jump.ite h.step4
  | _ => exact h.done

theorem MemOk.execViewLoad {op : LdOp} (h : s.MemOk) : NextOk (execViewLoad op imm a d s) := by
  unfold Machine.execViewLoad
  extract_lets x
  split
  · exact h.viewRead fun _ => h.done
  · exact h.hartLoad fun _ _ h => h.done
  · exact h

theorem MemOk.execViewStore {op : StOp} (h : s.MemOk) : NextOk (execViewStore op imm a b s) := by
  unfold Machine.execViewStore
  extract_lets x n y
  split
  · exact h.ctStore
  · exact h.hartStore fun _ h => h.step4
  · exact h

theorem MemOk.execEcall (h : s.MemOk) : NextOk (execEcall s) := by
  unfold Machine.execEcall
  split
  · exact h.raiseCt.ite h.enterService
  · exact h.hartTrap
  · exact h

theorem MemOk.execEbreak (h : s.MemOk) : NextOk (execEbreak s) := by
  unfold Machine.execEbreak
  split
  · exact h.failTask.ite h.enterService
  · exact h.hartTrap
  · exact h

theorem MemOk.execSret (h : s.MemOk) : NextOk (execSret s) := by
  unfold Machine.execSret
  split
  · exact h.returnService.ite h.raiseCt
  · exact h.hartIllegal.ite h.modHart
  · exact h

theorem MemOk.execCsrAccess {op : BitVec 3} (h : s.MemOk) : NextOk (execCsrAccess op imm a d s) := by
  unfold Machine.execCsrAccess
  extract_lets n word
  split
  · extract_lets k
    split
    · exact h.raiseCt
    · extract_lets new
      clear_value new
      refine NextOk.ite h.raiseCt ?_
      split
      · exact h.done
      · exact h.modCt.done
  · extract_lets old new
    clear_value new
    refine NextOk.ite h.hartIllegal ?_
    split
    · exact h.done
    · exact MemOk.done h.modHart
  · exact h

theorem MemOk.execUnassignedCtEncoding {w : BitVec 32} (h : s.MemOk) : NextOk (execUnassignedCtEncoding w s) := by
  unfold Machine.execUnassignedCtEncoding
  split
  · exact h.raiseCt
  · exact h.hartIllegal.ite h.hartOther
  · exact h

theorem MemOk.execPleave (h : s.MemOk) : NextOk (execPleave a d s) := by
  refine h.ctOnly fun c => ?_
  extract_lets x dur s1 die g r
  have h1 : s1.MemOk := h.dropBooking
  clear_value r
  refine h.ctIllop.ite (h1.done.ite ?_)
  split
  · exact h1.done
  · exact h1.setGov.done

theorem MemOk.execSecq (h : s.MemOk) : NextOk (execSecq e d s) := by
  refine h.ctOnly fun c => ?_
  split
  · exact h.ctIllop
  · exact h.done

theorem MemOk.execResume (h : s.MemOk) : NextOk (execResume e s) := by
  refine h.ctOnly fun c => ?_
  split
  · exact h.ctIllop
  · exact h.modEng.step4

theorem MemOk.execTspawn (h : s.MemOk) : NextOk (execTspawn b a d s) := by
  refine h.ctUser fun c => ?_
  extract_lets x lvl link die j q
  refine h.ctIllop.ite (h.readImage fun img => ?_)
  split
  · exact h.done
  · exact h.spawn.done
  · exact h

theorem MemOk.execTcont (h : s.MemOk) : NextOk (execTcont a s) := by
  refine h.ctUser fun c => h.ctIllop.ite (h.readImage fun img => h.ctIllop.ite ?_)
  split
  · exact h.continueAs.step4
  · exact h

theorem MemOk.execTjoin (h : s.MemOk) : NextOk (execTjoin b a d s) := by
  refine h.ctUser fun c => ?_
  extract_lets id n t die
  refine h.ctIllop.ite (h.teamBad.ite (MemOk.ite ?_ ?_))
  · split
    · exact h.teamBad
    · exact h.joinTeam.done
  · split
    · exact h.teamBad
    · exact h.teamBad.ite (h.teamBad.ite h.done.joinGang)

theorem MemOk.execTleave (h : s.MemOk) : NextOk (execTleave d s) := by
  refine h.ctUser fun c => ?_
  extract_lets t id
  split
  · exact h.teamBad
  · exact h.leaveTeam.leftCore.done

theorem MemOk.execTinfo (h : s.MemOk) : NextOk (execTinfo a d s) := by
  refine h.ctOnly fun c => ?_
  split
  · exact h.done
  · exact h.ctIllop

theorem MemOk.execOpin (h : s.MemOk) : NextOk (execOpin b a d s) := by
  refine h.ctOnly fun c => ?_
  extract_lets hd x key v
  refine h.ctIllop.ite (h.objStep h fun l => ?_)
  refine h.benchRefused.ite ?_
  split
  · next e => exact (h.pin _ e).countPin.done
  · exact h.done

theorem MemOk.execOunpin (h : s.MemOk) : NextOk (execOunpin b a s) :=
  h.ctOnly fun _ => h.ctIllop.ite (h.objStep h fun _ => h.benchRefused.ite (h.countPin.unpin.step4.ite h.step4))

theorem MemOk.execOview (h : s.MemOk) : NextOk (execOview b a d s) := by
  refine h.ctOnly fun c => ?_
  extract_lets hd x draft key pr eff sel
  refine h.ctIllop.ite (h.objStep h fun l => ?_)
  refine (h.benchRefused.ite h.mapView).ite ?_
  split
  · exact h.raiseCt
  · exact h.mapView.ite h.mapView

theorem MemOk.execOunview (h : s.MemOk) : NextOk (execOunview a s) := by
  refine h.ctOnly fun c => ?_
  split
  · exact h.ctIllop
  · exact h.ctIllop.ite (h.ctIllop.ite h.unpinView.modCore.step4)

theorem MemOk.execCstat (h : s.MemOk) : NextOk (execCstat a d s) := by
  refine h.ctOnly fun c => ?_
  extract_lets x
  refine h.ctIllop.ite ?_
  split
  · exact h.done
  · exact h.done

theorem MemOk.execCbinit (h : s.MemOk) : NextOk (execCbinit b a d s) := by
  refine h.ctOnly fun c => ?_
  extract_lets x id die t o
  refine h.ctIllop.ite (MemOk.ite ?_ (h.raiseCt.ite (h.viewRead fun bs => ?_)))
  · split
    · exact h.done
    · exact MemOk.done (h.of_mem rfl)
  · exact h.ctIllop.ite (h.done.ite (MemOk.done (h.of_mem rfl)))

theorem MemOk.execCbq (h : s.MemOk) : NextOk (execCbq a d s) :=
  h.ctOnly fun _ => h.ctIllop.ite (h.done.ite (MemOk.done (h.ite h.modCore)))

theorem MemOk.execAborteRetire (h : s.MemOk) : NextOk (execAborteRetire s) := by
  unfold Machine.execAborteRetire
  extract_lets c
  split
  · exact h
  · exact NextOk.ite h (h.stopFork.ite h.stopFork.killFork.modCore)

theorem MemOk.execTexitComplete (h : s.MemOk) : NextOk (execTexitComplete s) := by
  unfold Machine.execTexitComplete
  extract_lets c
  split
  · exact h
  · exact NextOk.ite h (h.stopFork.ite h.stopFork.endFailed)
  · exact h.exitTask.ite h

theorem MemOk.execKvhandEvent (h : s.MemOk) : NextOk (execKvhandEvent s) := by
  unfold Machine.execKvhandEvent
  extract_lets c
  split
  · exact h
  · split
    · exact h
    · exact h.handEvent h

theorem MemOk.execKvtakeComplete (h : s.MemOk) : NextOk (execKvtakeComplete s) := by
  unfold Machine.execKvtakeComplete
  extract_lets c
  split
  · exact h
  · split
    · exact h.kvtake h fun _ => h.waitList
    · exact h.takeEvent h

theorem MemOk.execCwaitStallDetect (h : s.MemOk) : NextOk (execCwaitStallDetect s) := by
  unfold Machine.execCwaitStallDetect
  extract_lets c
  split
  · exact h
  · split
    · exact h
    · exact h.raiseCt.ite h

theorem MemOk.execWaitYieldTimeout (h : s.MemOk) : NextOk (execWaitYieldTimeout s) := by
  unfold Machine.execWaitYieldTimeout
  extract_lets c k
  split
  · exact h.yieldTask.ite h
  · exact h

end

/-! ## Rows of the Foreman -/

section

variable {s : State} {a b d : BitVec 5}

theorem MemOk.execYlock (h : s.MemOk) : NextOk (execYlock a d s) := by
  refine h.privileged fun i w => ?_
  extract_lets x key
  refine h.hartIllegal.ite (MemOk.ite ?_ (h.hartIllegal.ite (h.unlockEntry h.modHart)))
  split
  · exact MemOk.done (h.of_mem rfl)
  · exact h.done

theorem MemOk.execYlockReleaseDone (h : s.MemOk) : NextOk (execYlockReleaseDone s) := by
  unfold Machine.execYlockReleaseDone
  extract_lets i
  split
  · exact h.unlockEntry h
  · exact h

theorem MemOk.execHhinv (h : s.MemOk) : NextOk (execHhinv a s) := by
  refine h.privileged fun i w => ?_
  extract_lets x key cls peers acks s1
  have h1 : s1.MemOk := h.ite (h.of_mem rfl)
  exact h.hartIllegal.ite (MemOk.step4 (h1.foldl fun _ _ h => h.post))

theorem MemOk.execYswitch (h : s.MemOk) : NextOk (execYswitch b a d s) := by
  refine h.privileged fun i w => ?_
  extract_lets pa v
  split
  · exact h.hartIllegal
  · exact h.hartTrap.ite (h.countHpc.pageBegin.ite (h.hartIllegal.ite (h.countHpc.pageRelease.done.ite
      (h.hartIllegal.ite h.countHpc.countHpc.soil.writeNum.noteRemote.markBack.modHart))))

theorem MemOk.execYswitchCommitDone (h : s.MemOk) : NextOk (execYswitchCommitDone s) := by
  unfold Machine.execYswitchCommitDone
  extract_lets i
  split
  · split
    · exact h.commitDone
    · exact h
  · exact h

theorem MemOk.execPghash (h : s.MemOk) : NextOk (execPghash b a s) := by
  refine h.privileged fun i w => ?_
  split
  · exact h.hartTrap.ite (h.hartTrap.ite (h.postError.hartTrap.ite (h.ite
      h.countHpc.countHpc.soil.write.noteRemote.step4)))
  · exact h.hartIllegal

end

/-! ## Rows of the engines -/

section

variable {s : State} {e : Eng} {g : Guard} {f : VrWord} {w : LpWord}

theorem MemOk.execSectionRetire (h : s.MemOk) : NextOk (execSectionRetire e s) := by
  unfold Machine.execSectionRetire
  extract_lets c g
  split
  · exact NextOk.ite (h.modEng.freeToken.ite h.modEng) h
  · exact h

theorem MemOk.execGuardRelease (h : s.MemOk) : NextOk (execGuardRelease e s) := by
  unfold Machine.execGuardRelease
  extract_lets c g
  refine NextOk.ite h ?_
  split
  · exact h
  · split
    · exact h
    · exact h.of_mem rfl

theorem MemOk.execGwaitRelease (h : s.MemOk) : NextOk (execGwaitRelease e s) := by
  unfold Machine.execGwaitRelease
  extract_lets c
  split
  · exact NextOk.ite h h.issued
  · exact h

theorem MemOk.execSwaitbPass (h : s.MemOk) : NextOk (execSwaitbPass s) := by
  unfold Machine.execSwaitbPass
  extract_lets c
  split
  · exact NextOk.ite h.issued h
  · exact h

theorem MemOk.execSrelRelease (h : s.MemOk) : NextOk (execSrelRelease s) := by
  unfold Machine.execSrelRelease
  extract_lets c
  split
  · exact NextOk.ite h.modCore.issued h
  · exact h

theorem MemOk.execDbarsRelease (h : s.MemOk) : NextOk (execDbarsRelease s) := by
  unfold Machine.execDbarsRelease
  extract_lets c k
  split
  · exact NextOk.ite h.modCore.issued h
  · exact NextOk.ite h.issued h
  · exact h

theorem MemOk.execXflushApplied (h : s.MemOk) : NextOk (execXflushApplied s) := by
  unfold Machine.execXflushApplied
  extract_lets c
  refine NextOk.ite h ?_
  split
  · next e => exact MemOk.issued (e ▸ h.flushTry :)
  · next e => exact MemOk.issueFault (e ▸ h.flushTry :)
  · next e => exact (e ▸ h.flushTry :)
  · exact h

theorem MemOk.execUnassignedEngineOpcode {w : BitVec 96} (h : s.MemOk) : NextOk (execUnassignedEngineOpcode w s) := by
  unfold Machine.execUnassignedEngineOpcode
  split
  · exact h.issueFault
  · exact h

theorem MemOk.execMatrixCommandStart (h : s.MemOk) : NextOk (execMatrixCommandStart s) := by
  unfold Machine.execMatrixCommandStart
  extract_lets c
  split
  · exact h.startCmd
  · exact h

theorem MemOk.execMatrixCommandWrite (h : s.MemOk) : NextOk (execMatrixCommandWrite s) := by
  unfold Machine.execMatrixCommandWrite
  extract_lets c
  split
  · exact h.modCore.modEng
  · exact h

theorem MemOk.execKvappApply (h : s.MemOk) : NextOk (execKvappApply s) := by
  unfold Machine.execKvappApply
  extract_lets c
  split
  · split
    · exact h.kvApply
    · exact h
  · exact h

theorem MemOk.execEstop (h : s.MemOk) : NextOk (execEstop g w s) := by
  refine h.issueWord fun c e => Iss.MemOk.ite ?_ h.modEng
  extract_lets s1
  have h1 : s1.MemOk := h.ite h.flushWindow
  exact Iss.MemOk.ite h1 (Iss.MemOk.ite h1.modCore h1.modEng)

theorem MemOk.execSbind {w : StWord} (h : s.MemOk) : NextOk (execSbind g w s) :=
  h.issueWord fun _ _ => Iss.MemOk.ite h (Iss.MemOk.ite h.unpinDesc.modCore (h.readFrame fun _ => h.bindDesc))

theorem MemOk.execSscale {w : StWord} (h : s.MemOk) : NextOk (execSscale g w s) := by
  refine h.issueWord fun c e => ?_
  extract_lets n d s1
  have h1 : s1.MemOk := h.ite h.unpin
  exact Iss.MemOk.ite h (Iss.MemOk.ite h1.modCore (h.readFrame fun _ => h.bindScale))

theorem MemOk.execVwake (h : s.MemOk) : NextOk (execVwake g f s) := by
  refine h.issueWord fun c e => ?_
  extract_lets file b
  split
  · exact h.modCore
  · exact h.modCore
  · exact h

theorem MemOk.execVnest {f : NestWord} (h : s.MemOk) : NextOk (execVnest g f s) := by
  refine h.issueWord fun c e => ?_
  extract_lets k
  split
  · trivial
  · extract_lets ls dr named n
    refine Iss.MemOk.ite h (Iss.MemOk.ite trivial (Iss.MemOk.ite trivial ?_))
    split
    · trivial
    · exact h.maLaunch.modEng

theorem MemOk.execMozv (h : s.MemOk) : NextOk (execMozv g f s) := by
  unfold Machine.execMozv
  extract_lets F
  refine h.issueWord fun c e => ?_
  extract_lets k act
  refine Iss.MemOk.ite h (Iss.MemOk.ite trivial (Iss.MemOk.ite trivial ?_))
  split
  · trivial
  · exact h.maLaunch

end

/-! ## Rows of the dispatcher, the copy engine, the collective engine and the interpreters -/

section

variable {s : State} {e : ClEntry} {req : List Byte}

theorem MemOk.execTaskStart (h : s.MemOk) : NextOk (execTaskStart s) := by
  unfold Machine.execTaskStart
  extract_lets c
  split
  · exact h.taskStart.ite h
  · exact h

theorem MemOk.execRestoreComplete (h : s.MemOk) : NextOk (execRestoreComplete s) := by
  unfold Machine.execRestoreComplete
  extract_lets c
  split
  · exact h.restoreTask.ite h
  · exact h

theorem MemOk.execSaveWritten (h : s.MemOk) : NextOk (execSaveWritten s) := by
  unfold Machine.execSaveWritten
  extract_lets c
  split
  · exact h.finishSave.ite h
  · exact h

theorem MemOk.execPackageQueueMove (h : s.MemOk) : NextOk (execPackageQueueMove s) := by
  unfold Machine.execPackageQueueMove
  split
  · exact h
  · split
    · exact h
    · exact h.qTake.qPut

theorem MemOk.execDegradedQueueMove (h : s.MemOk) : NextOk (execDegradedQueueMove s) := by
  unfold Machine.execDegradedQueueMove
  extract_lets cl
  refine NextOk.ite h ?_
  split
  · exact h
  · exact h.setQueue.qPut

theorem MemOk.execPreemptDrainExpiry (h : s.MemOk) : NextOk (execPreemptDrainExpiry s) := by
  unfold Machine.execPreemptDrainExpiry
  split
  · exact h
  · exact NextOk.ite (MemOk.stopMembers (h.of_mem rfl)) h

theorem MemOk.execPassQueueTake (h : s.MemOk) : NextOk (execPassQueueTake s) := by
  unfold Machine.execPassQueueTake
  extract_lets i k
  split
  · exact h.setInterp.ite h
  · exact h

theorem MemOk.execSkipif (h : s.MemOk) : NextOk (execSkipif e s) := by
  unfold Machine.execSkipif
  extract_lets n
  refine h.listEntry fun i k t h => h.listWait.ite ?_
  split
  · exact h.listFault
  · extract_lets x k
    exact h.listGo

theorem MemOk.execRet (h : s.MemOk) : NextOk (execRet e s) := by
  refine h.listEntry fun i k t h => ?_
  split
  · exact h.listEnd
  · exact h.modInterp.listGo

theorem MemOk.execClEntryResume (h : s.MemOk) : NextOk (execClEntryResume s) := by
  unfold Machine.execClEntryResume
  extract_lets i
  split
  · exact h
  · split
    · exact h.launchGo
    · exact h.waitevGo
    · exact h.signalGo
    · exact h.publishGo
    · exact h.preemptGo
    · exact h.passGo
    · exact h.execSkipif
    · exact h

theorem MemOk.execCollectiveTimeout (h : s.MemOk) : NextOk (execCollectiveTimeout s) := by
  unfold Machine.execCollectiveTimeout
  split
  · exact h
  · extract_lets s1
    have h1 : s1.MemOk := h.moveColl.ite h
    split
    · exact h1
    · exact NextOk.ite h1.endColl h1

theorem MemOk.execGetMeasurements (h : s.MemOk) : NextOk (execGetMeasurements req s) := by
  unfold Machine.execGetMeasurements
  have hn := h.nonce
  generalize s.nonce = r at hn
  exact MemOk.spdmAnswer (h.ite hn)

end

/-! ## Rows that complete an instruction in wait -/

section

variable {s : State}

theorem MemOk.execRdvComplete (h : s.MemOk) : NextOk (execRdvComplete s) := by
  unfold Machine.execRdvComplete
  extract_lets c
  split
  · exact h
  · exact h.joinFork.modCore.ite h

theorem MemOk.execOsubComplete (h : s.MemOk) : NextOk (execOsubComplete s) := by
  unfold Machine.execOsubComplete
  extract_lets c
  split
  · exact h
  · exact h.osub h

theorem MemOk.execFlacqComplete (h : s.MemOk) : NextOk (execFlacqComplete s) := by
  unfold Machine.execFlacqComplete
  extract_lets c
  split
  · exact h
  · exact h.flacq h

theorem MemOk.execTbarComplete (h : s.MemOk) : NextOk (execTbarComplete s) := by
  unfold Machine.execTbarComplete
  extract_lets c
  split
  · exact h.tryBarrier
  · exact h

theorem MemOk.execOclaimDecide (h : s.MemOk) : NextOk (execOclaimDecide s) := by
  unfold Machine.execOclaimDecide
  extract_lets c
  split
  · exact h
  · exact h.oclaim fun _ h => h

theorem MemOk.execOpubPublishPoint (h : s.MemOk) : NextOk (execOpubPublishPoint s) := by
  unfold Machine.execOpubPublishPoint
  extract_lets c
  split
  · exact h
  · exact h.opub h

theorem MemOk.execCwaitComplete (h : s.MemOk) : NextOk (execCwaitComplete s) := by
  unfold Machine.execCwaitComplete
  extract_lets c
  split
  · exact h
  · exact h.cwait h

theorem MemOk.execClwaitComplete (h : s.MemOk) : NextOk (execClwaitComplete s) := by
  unfold Machine.execClwaitComplete
  extract_lets c
  split
  · exact h
  · exact h.clwait h

theorem MemOk.execCopyTile (h : s.MemOk) : NextOk (execCopyTile s) := by
  unfold Machine.execCopyTile
  split
  · exact h
  · exact h.moveJob

theorem MemOk.execCollectiveComplete (h : s.MemOk) : NextOk (execCollectiveComplete s) := by
  unfold Machine.execCollectiveComplete
  split
  · exact h
  · exact h.moveColl

theorem MemOk.execDiscardStopped (h : s.MemOk) : NextOk (execDiscardStopped s) := by
  unfold Machine.execDiscardStopped
  split
  · exact h
  · exact h.discardAll.ite h

end

/-! ## The clock (R454 to R457) -/

section

variable {s : State} {c key cl n : Nat}

theorem MemOk.choose {l : List (Nat × Instr)} (h : s.MemOk) : (s.choose l).2.MemOk := MemOk.foldl_pair h fun _ _ h => h.flip

theorem MemOk.ackOne (h : s.MemOk) : (s.ackOne key cl).2.MemOk := by
  unfold State.ackOne
  extract_lets b
  have hb : b.2.MemOk := MemOk.ite_snd h.flip h
  exact MemOk.ite_snd (hb.of_mem rfl) hb

theorem MemOk.ackInv {cls : List Nat} (h : s.MemOk) : (s.ackInv key cls).2.MemOk := MemOk.foldl_pair h fun _ _ h => h.ackOne

theorem MemOk.acks (h : s.MemOk) : s.acks.MemOk := by
  unfold State.acks
  refine MemOk.foldl (h.of_mem rfl) fun u v hu => ?_
  extract_lets a
  have ha : a.2.MemOk := hu.ackInv
  clear_value a
  exact ha.ite (ha.of_mem rfl)

theorem MemOk.startSaves (h : s.MemOk) : s.startSaves.MemOk := h.foldl fun _ _ h => h.beginSave.ite h

theorem MemOk.firstFrame (h : s.MemOk) : s.firstFrame.MemOk := h.discover.ite h

theorem MemOk.endPreempts (h : s.MemOk) : s.endPreempts.MemOk := h.of_mem rfl
theorem MemOk.makeNoise (h : s.MemOk) : s.makeNoise.MemOk := h.of_mem rfl
theorem MemOk.noteJobs (h : s.MemOk) : s.noteJobs.MemOk := h.of_mem rfl

theorem MemOk.advance (h : s.MemOk) : s.advance.MemOk := by
  unfold State.advance
  extract_lets s0 s1 s2 s3 s4 s5
  have h0 : s0.MemOk := h.meetUpsets.tablesToMem.sendAll.makeNoise
  clear_value s0
  have h2 : s2.MemOk := h0.of_mem rfl
  have h3 : s3.MemOk := h2.foldl fun _ _ h => h.releaseGangs
  have h4 : s4.MemOk := h3.startSaves.endPreempts.acks.applyHdm.applyBox.fetchHost.releaseHeld.releaseLinkHeld.firstFrame
  have h5 : s5.MemOk := h4.noteJobs
  exact h5.foldl fun _ _ h => h.modCore

theorem MemOk.tick (h : s.MemOk) : s.tick.MemOk := by
  unfold State.tick
  split
  · exact MemOk.ite (h.of_mem rfl) (h.of_mem rfl)
  · extract_lets s1 r
    have hr : r.2.MemOk := h.advance.choose
    clear_value r
    exact hr.of_mem rfl

end

/-! ## Turns of the agents -/

section

variable {s : State} {a : Agent} {c i n hn tv va : Nat} {e : Eng} {r : Option (Reader × (Unit → List Nat))}
  {k : Reader} {ks : List Nat} {rest : List Agent}

theorem MemOk.turnTo (h : s.MemOk) : (s.turnTo a rest).MemOk := h.of_mem rfl
theorem MemOk.happenAt {l : List (Nat × Instr)} (h : s.MemOk) : (s.happenAt n l).MemOk := h.of_mem rfl
theorem MemOk.askSectors (h : s.MemOk) : (s.askSectors k ks).MemOk := h.of_mem rfl
theorem MemOk.useSectors (h : s.MemOk) : (s.useSectors k).MemOk := h.of_mem rfl

theorem MemOk.noteWait (h : s.MemOk) : (s.noteWait k).MemOk := by
  unfold State.noteWait
  split
  · exact h.modCore
  · exact h

theorem MemOk.waitsAway (h : s.MemOk) : ∀ t ∈ s.waitsAway r, t.MemOk := by
  unfold State.waitsAway
  split
  · exact forall_mem_none
  · split
    · exact forall_mem_none
    · exact forall_mem_some h.askSectors.noteWait

theorem MemOk.readsDone (h : s.MemOk) : (s.readsDone r).MemOk := by
  unfold State.readsDone
  split
  · exact h
  · exact h.useSectors

theorem MemOk.askAgain (h : s.MemOk) : (s.askAgain c e).MemOk := by
  unfold State.askAgain
  extract_lets s1 g u
  have h1 : s1.MemOk := h.askLeave
  have hu : u.MemOk := h1.modEng
  clear_value u
  exact h1.ite (hu.of_mem rfl)

theorem MemOk.fetchParcel {t : State} (h : s.MemOk) (e : s.fetchParcel hn tv va = .error t) : t.MemOk := by
  unfold State.fetchParcel at e
  split at e
  · split at e
    · exact Except.error.inj e ▸ h.hartTrap
    · split at e
      · exact Except.error.inj e ▸ h.hartTrap
      · split at e
        · exact Except.error.inj e ▸ h.hartPoison
        · cases e
  · exact Except.error.inj e ▸ h.hartFail

theorem MemOk.hartFetch {t : State} (h : s.MemOk) (e : s.hartFetch hn = .error t) : t.MemOk := by
  unfold State.hartFetch at e
  extract_lets va at e
  split at e
  · next e' => exact Except.error.inj e ▸ h.fetchParcel e'
  · split at e
    · cases e
    · split at e
      · next e' => exact Except.error.inj e ▸ h.fetchParcel e'
      · cases e

end

/-! ### Each agent's turn -/

section

variable {s : State} {a : Agent} {c i n hn : Nat} {e : Eng} {x : Instr} {rest : List Agent} {l : List (Nat × Instr)}

theorem MemOk.ctTurn (h : s.MemOk) : (s.ctTurn c).MemOk := by
  unfold State.ctTurn
  extract_lets u
  have hu : u.MemOk := h.of_mem rfl
  refine Pick.MemOk.ite h (Pick.MemOk.ite hu (Pick.MemOk.ite hu ?_))
  split
  · exact hu
  · split
    · exact h.raiseCt
    · exact h

theorem MemOk.headTurn (h : s.MemOk) : (s.headTurn c e).MemOk := by
  unfold State.headTurn
  extract_lets u
  have hu : u.MemOk := h.of_mem rfl
  split
  case h_9 | h_10 =>
    split
    · exact h.raiseEng
    · exact h
  all_goals exact hu

theorem MemOk.engTurn (h : s.MemOk) : (s.engTurn c e).MemOk := by
  unfold State.engTurn
  extract_lets k g u busy
  have hu : u.MemOk := h.of_mem rfl
  refine Pick.MemOk.ite h (Pick.MemOk.ite (Pick.MemOk.ite h h.askAgain) ?_)
  split
  · exact Pick.MemOk.ite h h
  · exact Pick.MemOk.ite h (Pick.MemOk.ite hu (Pick.MemOk.ite hu (Pick.MemOk.ite h h.headTurn)))

theorem MemOk.arraysTurn (h : s.MemOk) : (s.arraysTurn c).MemOk := by
  unfold State.arraysTurn
  extract_lets u
  have hu : u.MemOk := h.of_mem rfl
  exact Pick.MemOk.ite hu (Pick.MemOk.ite hu h)

theorem MemOk.hartRuns (h : s.MemOk) : (s.hartRuns hn).MemOk := by
  unfold State.hartRuns
  extract_lets u
  have hu : u.MemOk := h.of_mem rfl
  split
  · exact hu
  · refine Pick.MemOk.ite hu ?_
    split
    · next e => exact h.hartFetch e
    · exact h

theorem MemOk.hartTurn (h : s.MemOk) : (s.hartTurn hn).MemOk := by
  refine Pick.MemOk.ite h ?_
  split
  · exact h.of_mem rfl
  · exact h.hartRuns

theorem MemOk.interpTurn (h : s.MemOk) : (s.interpTurn i).MemOk := by
  refine Pick.MemOk.ite h (Pick.MemOk.ite (h.of_mem rfl) (Pick.MemOk.ite h ?_))
  split
  · exact h.listFault
  · split
    · exact h.listError
    · exact h

theorem MemOk.runAgent (h : s.MemOk) : (runAgent s a).MemOk := by
  unfold State.runAgent
  split
  · exact h
  · exact h
  · exact h.arraysTurn
  · exact h.ctTurn
  · exact h.engTurn
  · exact h.hartTurn
  · exact h.interpTurn

theorem MemOk.agentTurn (h : s.MemOk) : (s.agentTurn a rest).MemOk := by
  unfold State.agentTurn
  extract_lets s1
  have h1 : s1.MemOk := h.turnTo
  split
  · next e => exact h1.waitsAway _ e
  · exact h1.readsDone.runAgent

theorem MemOk.happening (h : s.MemOk) : (s.happening n x l).MemOk := by
  unfold State.happening
  extract_lets s1
  have h1 : s1.MemOk := h.happenAt
  split
  · next e => exact h1.waitsAway _ e
  · exact h1.readsDone

theorem MemOk.pick (h : s.MemOk) : s.pick.MemOk := by
  unfold State.pick
  split
  · exact h.happening
  · split
    · exact h.of_mem rfl
    · split
      · exact h.agentTurn
      · exact h.tick

end

/-! ## Rows of the engines that name a part first -/

section

variable {s : State} {g : Guard} {f : VrWord}

theorem MemOk.execLoopr {f : LpWord} (h : s.MemOk) : NextOk (execLoopr g f s) := by
  unfold Machine.execLoopr
  extract_lets n
  exact h.issueWord fun _ _ => h.setLoop

theorem MemOk.execVlive (h : s.MemOk) : NextOk (execVlive g f s) := by
  unfold Machine.execVlive
  extract_lets lim
  exact h.issueWord fun _ _ => h.modCore

theorem MemOk.execVsel (h : s.MemOk) : NextOk (execVsel g f s) := by
  unfold Machine.execVsel
  extract_lets F
  exact h.vWord

theorem MemOk.execMocoll (h : s.MemOk) : NextOk (execMocoll g f s) := by
  unfold Machine.execMocoll
  extract_lets q dr
  exact h.moWord

theorem MemOk.execMoctl (h : s.MemOk) : NextOk (execMoctl g f s) :=
  h.issueWord fun _ _ => Iss.MemOk.ite h h.maLaunch

theorem MemOk.execMoctlRd (h : s.MemOk) : NextOk (execMoctlRd g f s) := by
  unfold Machine.execMoctlRd
  extract_lets F
  exact h.issueWord fun _ _ => Iss.MemOk.ite h (Iss.MemOk.ite trivial (Iss.MemOk.ite trivial h.maLaunch))

end

/-! ## Every row of the table of instructions -/

section

variable {s : State} {i : Instr}

/-- What an instruction leaves has memory in its form, row by row. -/
theorem MemOk.exec (h : s.MemOk) : NextOk (exec i s) := by
  cases i with dsimp only [Machine.exec]
  -- boot and attestation
  | offer => exact NextOk.ite (MemOk.bootNext (h.of_mem rfl)) h
  | helperRsp => exact h.execHelperRsp
  | floorRsp => exact NextOk.ite (MemOk.askImage (MemOk.atStep (h.of_mem rfl))) h
  | imageRsp => exact h.execImageRsp
  | errorRsp => exact NextOk.ite h.bootFail h
  | getVersion | getCapabilities | negotiateAlgorithms | spdmUnsupportedRequest => exact h.spdmAnswer
  | getMeasurements => exact h.execGetMeasurements
  | bootRetryTimer => exact h.execBootRetryTimer
  | bootRequestTimeout => exact NextOk.ite h (NextOk.ite h.bootFail (h.of_mem rfl))
  | packageResetRelease => exact memOk_afterReset s
  -- the CXL port, power and margins
  | cxlMemAccess => exact h.execCxlMemAccess
  | cxlMailboxAccess => exact NextOk.ite h (NextOk.ite (h.of_mem rfl) (h.of_mem rfl))
  | cxlLinkDown | cxlLinkTrained => exact h.of_mem rfl
  | thermChange => exact h.execThermChange
  | thermDropTimer => exact h.setTherm
  | governorGrant => exact h.grantLeave
  | marginMeasure => exact NextOk.ite h.setCluster.noteMargin h.setCluster
  | clstatWrite => exact h.writeClstat
  | vcodeStep => exact NextOk.ite h.setCluster (NextOk.ite h.setCluster h)
  -- ports and packets
  | flitData => exact h.execFlitData
  | flitNak => exact h.recvFlit fun _ h => h.replayPort.ite h
  | flitXoff | flitXon => exact h.recvFlit fun _ h => h.setPort.ite h
  | flitIdle => exact h.recvFlit fun _ h => h
  | portTrainEnd => exact NextOk.ite h (NextOk.ite h.setPort (NextOk.ite h.setPort h.setPort.postError))
  | replayTimeout => exact NextOk.ite h.replayPort h
  | portDead => exact NextOk.ite h.killPort h
  | portctlRetrain => exact h.retrainPort
  | portctlHold => exact h.holdPort
  | rdreq => exact h.arrived fun _ h => h.sendRaw
  | rdrsp => exact h.execRdrsp
  | wrreq => exact h.arrived fun _ h => MemOk.ite (h.of_mem rfl) h.applyWrreq
  | wrack => exact h.arrived fun _ h => h.of_mem rfl
  | yardMsg => exact h.once fun _ h => h.yardStep
  | collMsg => exact h.once fun _ h => h.putPiece
  | stepMsg => exact h.once fun _ h => h
  -- registers and physical accesses
  | fppushWrite => exact h.pushFp
  | fpushWrite => exact h.pushFrame
  | mrdoneWrite => exact h.mrdone
  | measurementExtend => exact h.extendWrite
  | registerWrite => exact h.regWrite
  | paAccess => exact h.execPaAccess
  | resolverWalk => exact NextOk.ite h (h.of_mem rfl)
  | clctlStart => exact h.startInterp
  | clctlClear => exact h.clearInterp
  | timerInterrupt | softwareInterrupt | externalInterrupt => exact h.interruptOf
  -- sections, guards and stalls of the engines
  | sectionStart => exact h.enterSection.ite h
  | sectionRetire => exact h.execSectionRetire
  | guardStallDetect | swaitbStallDetect | dbarsStallDetect => exact h.raiseEng.ite h
  | guardRelease => exact h.execGuardRelease
  | gwaitRelease => exact h.execGwaitRelease
  | watermarkHold => exact h.holdEngine.ite h
  | forkStallDetect => exact NextOk.ite (MemOk.foldl h fun _ _ h => h.raiseEng.ite h) h
  | feLoadResolve => exact h.resolveLoad
  | drStoreAccept => exact h.acceptWord
  | bankWake => exact h.execBankWake
  | bankApply => exact h.execBankApply
  | vsleepEffect => exact h.execVsleepEffect
  | swaitbPass => exact h.execSwaitbPass
  | srelRelease => exact h.execSrelRelease
  | dbarsRelease => exact h.execDbarsRelease
  | xflushApplied => exact h.execXflushApplied
  | kvappApply => exact h.execKvappApply
  | matrixCommandStart => exact h.execMatrixCommandStart
  | matrixCommandWrite => exact h.execMatrixCommandWrite
  | unassignedEngineOpcode => exact h.execUnassignedEngineOpcode
  -- the interpreters
  | launch => exact h.listEntry fun _ _ _ h => h.launchGo
  | waitev => exact h.listEntry fun _ _ _ h => h.waitevGo
  | signal => exact h.listEntry fun _ _ _ h => h.signalGo
  | publish => exact h.listEntry fun _ _ _ h => h.publishGo
  | preempt => exact h.listEntry fun _ _ _ h => h.preemptGo
  | pass => exact h.listEntry fun _ _ _ h => h.passGo
  | skipif => exact h.execSkipif
  | jump => exact h.listEntry fun _ _ _ h => h.listGo
  | call => exact h.listEntry fun _ _ _ h => h.listError.ite h.modInterp.listGo
  | ret => exact h.execRet
  | endList => exact h.listEntry fun _ _ _ h => h.listEnd
  | clEntryResume => exact h.execClEntryResume
  | passQueueTake => exact h.execPassQueueTake
  -- the control sequencers: integer instructions, forks and services
  | rv64IntegerInstruction => exact h.execRv64IntegerInstruction
  | unassignedCtEncoding => exact h.execUnassignedCtEncoding
  | fence | wfi => exact h.step4
  | jalr => exact h.jump
  | csrAccess => exact h.execCsrAccess
  | viewLoad => exact h.execViewLoad
  | viewStore => exact h.execViewStore
  | lq => exact h.ctOnly fun _ => h.ctIllop.ite (h.viewRead fun _ => h.wx.wx.step4)
  | sq => exact h.ctOnly fun _ => h.ctIllop.ite h.ctStore
  | ecall => exact h.execEcall
  | ebreak => exact h.execEbreak
  | sret => exact h.execSret
  | svc => exact h.ctOnly fun _ => h.ctIllop.ite h.enterService
  | serviceEntryEngineFault => exact h.enterService.ite h
  | deadlineTrap => exact h.modCore.raiseCt.ite h
  | fork => exact h.ctOnly fun _ => h.ctIllop.ite (h.raiseCt.ite (h.forkTable fun _ => h.startFork.step4))
  | rdv => exact h.ctOnly fun _ => h.step4.ite (h.joinFork.step4.ite h.waitAt)
  | rdvComplete => exact h.execRdvComplete
  | aborte => exact h.ctOnly fun _ => h.step4.ite (h.abortEngines.killFork.step4.ite h.dropLeave.waitAt)
  | aborteRetire => exact h.execAborteRetire
  | pleave => exact h.execPleave
  | secq => exact h.execSecq
  | gset | gclr => exact h.ctOnly fun _ => h.modCore.step4
  | grd | faultrd => exact h.ctOnly fun _ => h.done
  | resume => exact h.execResume
  -- tasks and teams
  | tspawn => exact h.execTspawn
  | tcont => exact h.execTcont
  | tjoin => exact h.execTjoin
  | tleave => exact h.execTleave
  | tbar => exact h.ctUser fun _ => h.teamBad.ite h.waitAt.arrive
  | tbarComplete => exact h.execTbarComplete
  | tinfo => exact h.execTinfo
  | tdln => exact h.ctUser fun _ => h.setCr.modCore.step4
  | texit => exact h.ctUser fun _ => h.exitTask.ite h.waitAt
  | texitComplete => exact h.execTexitComplete
  | ttrig => exact h.ctUser fun _ => MemOk.step4 (MemOk.trigger (MemOk.ite h.expose h))
  | tyield => exact h.ctUser fun _ => h.step4.yieldTask
  | waitYieldTimeout => exact h.execWaitYieldTimeout
  -- objects, copies and collectives
  | kvhand => exact h.ctOnly fun _ => h.kvhand fun _ => h.waitList
  | kvhandEvent => exact h.execKvhandEvent
  | kvtake => exact h.ctOnly fun _ => h.kvtake h.waitAt fun _ => h.waitList
  | kvtakeComplete => exact h.execKvtakeComplete
  | oclaim => exact h.ctOnly fun _ => h.ctIllop.ite (h.oclaim fun _ h => h.waitAt)
  | oclaimDecide => exact h.execOclaimDecide
  | opub => exact h.ctOnly fun _ => h.opub h.waitAt
  | opubPublishPoint => exact h.execOpubPublishPoint
  | osub => exact h.ctOnly fun _ => h.ctIllop.ite (h.osub h.waitAt)
  | osubComplete => exact h.execOsubComplete
  | opin => exact h.execOpin
  | ounpin => exact h.execOunpin
  | oview => exact h.execOview
  | ounview => exact h.execOunview
  | fltest => exact h.ctOnly fun _ => h.objStep h fun _ => h.done
  | oinfo => exact h.ctOnly fun _ => h.ctIllop.ite (h.objStep h fun _ => h.done)
  | flrel => exact h.ctOnly fun _ => h.objStep h fun _ => h.setFlag.expose.step4
  | flacq => exact h.ctOnly fun _ => h.flacq h.waitAt
  | flacqComplete => exact h.execFlacqComplete
  | cjob =>
    exact h.ctOnly fun _ => h.raiseCt.ite (h.viewRead fun _ => h.ctIllop.ite (h.acceptJob fun _ _ h => h.done))
  | cwait => exact h.ctOnly fun _ => h.cwait h.waitAt
  | cwaitComplete => exact h.execCwaitComplete
  | cwaitStallDetect => exact h.execCwaitStallDetect
  | copyTile => exact h.execCopyTile
  | cstat => exact h.execCstat
  | cbinit => exact h.execCbinit
  | cbq => exact h.execCbq
  | clar | clmrg | clbc | clgath => exact h.ctOnly fun _ => h.collInstr
  | clwait => exact h.ctOnly fun _ => h.clwait h.waitAt
  | clwaitComplete => exact h.execClwaitComplete
  | collectiveComplete => exact h.execCollectiveComplete
  | collectiveTimeout => exact h.execCollectiveTimeout
  -- the Foreman
  | yrd => exact h.privileged fun _ _ => h.hartIllegal.ite h.countYard.done
  | ywr =>
    exact h.privileged fun _ _ => h.hartIllegal.ite (h.hartIllegal.ite (h.hartIllegal.ite h.countYard.setYw.step4))
  | ylock => exact h.execYlock
  | ylockReleaseDone => exact h.execYlockReleaseDone
  | yswitch => exact h.execYswitch
  | yswitchCommitDone => exact h.execYswitchCommitDone
  | hhinv => exact h.execHhinv
  | pghash => exact h.execPghash
  -- the dispatcher
  | lateBandEntry | queueRingRefill => exact h.setQueue
  | spillToRing => exact h.putQueue
  | degradedQueueMove => exact h.execDegradedQueueMove
  | packageQueueMove => exact h.execPackageQueueMove
  | corePop => exact h.pop
  | taskStart => exact h.execTaskStart
  | restoreComplete => exact h.execRestoreComplete
  | saveWritten => exact h.execSaveWritten
  | nextKernelPrefetch => exact h.fillWays
  | preemptDrainExpiry => exact h.execPreemptDrainExpiry
  | discardStopped => exact h.execDiscardStopped
  -- words of the engines: sequencing and streams
  | nop | spref => exact h.issueWord fun _ _ => h
  | loop => exact h.issueWord fun _ _ => h.setLoop
  | loopr => exact h.execLoopr
  | lbrk | mark => exact h.issueWord fun _ _ => h.modEng
  | gwait | swaitb | dbarsWait | vsleep => exact h.issueWord fun _ _ => Iss.MemOk.ite h h
  | estop => exact h.execEstop
  | sbind => exact h.execSbind
  | sscale => exact h.execSscale
  | sload | sloadv | sgath | sgathf => exact h.issueWord fun _ _ => h.issueLoad
  | sadv => exact h.issueWord fun _ _ => h.modCore
  | vlive => exact h.execVlive
  | srel | dbarsFull => exact h.issueWord fun _ _ => Iss.MemOk.ite h.modCore h
  -- words of the engines: vectors, predicates and moments
  | vadd | vsub | vmul | vfma | vfms | vmax | vmin | vabs | vneg | vcmp | viadd | visub | vimul | vimad | vand | vor | vxor
  | vnot | vshl | vshr | vsra | vicmp | vimin | vimax | vadd64 | vsub64 | vshl64 | vshr64 | vcmp64 | vcvt | vrnd | vpack
  | vunpk | vrsqa | vrcpa | vexp2 | vlog2 | vmov | vli => exact h.vElem
  | vsel => exact h.execVsel
  | vredr | vredc | vscanr | viota | vxg | vxs | vpart | pfx | pcnt | pmov => exact h.vWord
  | vrotr | vrotc | vbcr | vbcc | vtrn => exact h.vPerm
  | pand | por | pxor | pnot => exact h.pWord
  | vnest => exact h.execVnest
  | vwake => exact h.execVwake
  | moset | moadd | mosub | momul | moscl | moaxpy | mosq | morelu | molrelu | moexp | mosigm => exact h.moWord
  | mocoll => exact h.execMocoll
  | moctl => exact h.execMoctl
  | moctlRd => exact h.execMoctlRd
  | mozv => exact h.execMozv
  -- words of the engines: matrices, drains and banks
  | mmac | mmacz | mmom | mmhad | mmanc | mmclr | mmcopy | atsc | atsm | atpv | atfuse | attri =>
    exact h.issueWord fun _ _ => h.queueWord
  | drain | drainmx | drainm | dcmpr => exact h.issueWord fun _ _ => h.drainWord
  | dstore => exact h.issueWord fun _ _ => h.dstoreWord
  | dstsc => exact h.issueWord fun _ _ => h.dstscWord
  | bkupd => exact h.issueWord fun _ _ => h.updWord
  | xwin => exact h.issueWord fun _ _ => h.winWord
  | xacc => exact h.issueWord fun _ _ => h.accWord
  | xflush => exact h.issueWord fun _ _ => h.flushTry
  | kvapp => exact h.issueWord fun _ _ => h.kvappWord
  -- OVER alone is left: its name is a word of Lean's own here
  | _ => exact h.ctOnly fun _ => h.objStep h fun _ => h.done

end

end State

/-! ## One step -/

theorem nextOk_perform {p : Pick} (h : p.MemOk) : NextOk (perform p) := by
  cases p with
  | run s i => exact State.MemOk.exec h
  | done s => exact h

theorem nextOk_step {s : State} (h : s.MemOk) : NextOk (step s) := nextOk_perform h.pick

/-- Settles O7: what is picked keeps the form up to its instruction, and every row of the table of instructions keeps it. -/
theorem everyStepKeepsMemoryCanonical : Obligations.EveryStepKeepsMemoryCanonical := by
  intro s t h e
  have hs : NextOk (step s) := nextOk_step h
  rw [e] at hs
  exact hs

end Sys2Proof.Machine
end
